-- ==== Sys2Proof/Word.lean ====
section
/-! DEFINITION. Sys2Proof/Word.lean: the words of the device (R3, R4): bytes, 16-, 32- and 64-bit
little-endian values, 40-bit device-local addresses and 52-bit domain addresses (R10). -/
namespace Sys2Proof

/-- One byte of device or host memory. -/
abbrev Byte := BitVec 8
/-- A 16-bit field. -/
abbrev Half := BitVec 16
/-- A 32-bit field: a lane register, a result word, a count. -/
abbrev Word := BitVec 32
/-- A 64-bit register or packet field. -/
abbrev Dword := BitVec 64

end Sys2Proof
end

