-- ==== Sys2Proof/Syntax.lean ====
section
/-! DEFINITION. Sys2Proof/Syntax.lean: the commands of the block: one constructor of `Instr` for each row of the
table of operations and events, with the operands that the row's rule gives it. Operands that a packet or a register
carries keep their field's width, so that every value a host can write is a command. What the physical world decides
(a failed comparison, a retest's result, a sensor's reading, the bytes a peer sends) is an operand of its row. -/
namespace Sys2Proof

/-- A PCI Express port: 0 on hub A, 1 on hub B (R18). -/
abbrev PortId := Fin 2
/-- A plan slot (R1). -/
abbrev SlotId := Fin 16
/-- A Ulinar link port P0 to P15 (R18). -/
abbrev LinkId := Fin 16
/-- A codec engine E0 to E15 (R18). -/
abbrev EngineId := Fin 16
/-- A tile T0 to T19 (R13). -/
abbrev TileId := Fin 20
/-- A lane register v0 to v63 (R171). -/
abbrev Reg := Fin 64

/-- A physical core C0 to C12 of a tile (R15). -/
structure CoreId where
  tile : TileId
  core : Fin 13
  deriving DecidableEq, Repr

/-- A lane of a core's lane engine (R169). -/
structure LaneId where
  core : CoreId
  lane : Fin 128
  deriving DecidableEq, Repr

/-- The part of a packet header that a started packet still needs (R286, R289, R291). -/
structure Hdr where
  port : PortId
  chute : Fin 64
  /-- SEQUENCE, echoed in the reply. -/
  seq : Word
  /-- HOST_TAG, echoed in the reply. -/
  tag : Dword
  interrupt : Bool
  ordered : Bool
  replyOnErrorOnly : Bool
  /-- SIGNAL_HOOK flag, hook and increment. -/
  signal : Bool
  signalHook : BitVec 12
  signalInc : Word
  /-- Which enabling of the chute the packet belongs to: a chute reset ends it, and its reply is then dropped (R303). -/
  epoch : Nat
  /-- The order number of a packet that the twin partner received and forwarded (R392); none for an own packet. -/
  partner : Option Dword
  deriving DecidableEq, Repr

/-- A rail domain (R26). -/
inductive RailId where
  | core (c : CoreId)
  | tile (t : TileId)
  | codec (e : EngineId)
  | coll (h : PortId)
  deriving DecidableEq, Repr

/-- A memory bank in use: of a cellar layer (R17) or of a hub's SRAM (R376). -/
inductive BankId where
  | cellar (tile : TileId) (layer : Fin 4) (bank : Fin 64)
  | hub (hub : PortId) (bank : Fin 64)
  | shelf (core : CoreId)
  deriving DecidableEq, Repr

/-- What the sweep does with a bank slot (R76). -/
inductive SweepWork where
  /-- The regular pass reads the next 96-byte slot and corrects it. -/
  | scrub
  /-- A queued corrected write-back. -/
  | writeBack
  /-- One slot of a bank copy (R77). -/
  | copy
  /-- The background cellar test of the bank ends, passing or failing (R419). -/
  | test (pass : Bool)
  deriving DecidableEq, Repr

/-- Why a job restarts: the ways a fault escapes local retry (R380). -/
inductive FaultCause where
  /-- A core's second mismatch or second failed check, and whether its retest passes (R131, R183). -/
  | core (c : CoreId) (retestPass : Bool)
  /-- A word of the landing set stays uncorrectable (R75), and for a word of a shelf whether its core's retest passes (R376). -/
  | landingWord (addr : Nat) (retestPass : Bool)
  /-- A crate of the landing set fails its CRC twice: its tensor, the core whose expander met it, and whether that core's retest passes
  (R106, R376). -/
  | landingCrate (tensor : Nat) (c : CoreId) (retestPass : Bool)
  /-- A repeated GCM tag failure on a link port (R329). -/
  | gcmTag (p : LinkId)
  /-- A per-function reset of a core, link port or collective engine (R303). -/
  | reset (fid : Half)
  /-- A notice from another member or the twin (R352, R394). -/
  | notice (device : BitVec 12)
  deriving DecidableEq, Repr

/-- A fault of one cell of the array in one pass of an instruction: the cell's product for the output (m, n) of the block at position k
of the chunk is wrong by `delta`, in units of the operands' significands, or of 2^-149 on the BF16 path (R127 to R131). -/
structure Upset where
  m : Nat
  n : Nat
  k : Nat
  delta : Int
  deriving DecidableEq, Repr

/-- A link message's fields after its kind byte (R328). -/
structure Msg where
  sealed : Bool
  refused : Bool
  /-- REFUSED_CAUSE: false address, true sealing. -/
  causeSealing : Bool
  length : Half
  src : BitVec 12
  dst : BitVec 12
  addr : BitVec 40
  xid : Dword
  ctr : Dword
  data : List Byte
  /-- The 16-byte GCM tag of a sealed message, and the ID of its key (R86). -/
  gcmTag : List Byte
  keyId : Word
  /-- An answer that asks for the message again, whose tag has failed (R329, notes/assumptions/17.md). -/
  again : Bool
  deriving DecidableEq, Repr

/-- What a SUM or DWAIT message carries (R344, R346, R349, R354): a grant, exponent words or 128-bit integers on their way to an owner,
and the agreed words and complete sums that an owner returns. -/
inductive SumKind where
  | grant | exponents | integers | agreed | total
  deriving DecidableEq, Repr

/-- Whether a SUM or DWAIT message is a first sending, asks for a message again whose tag has failed (R329), or refuses one whose key
the receiver does not hold (R86). -/
inductive SumAnswer where
  | no | again | refused
  deriving DecidableEq, Repr

/-- What an adder lane of a collective engine gets wrong in the first addition that it makes in a step, and in its repetition: the bits of
the result that differ (R351). -/
structure LaneFault where
  lane : Fin 68
  upset : BitVec 128
  again : BitVec 128
  deriving DecidableEq, Repr

/-- A SUM or DWAIT message (R328, R340, R341): its collective and chunk, n and the CRC-32 of the member set, and words or integers from
element `first` of the chunk on (notes/assumptions/17.md). -/
structure SumMsg where
  id : Dword
  chunk : Nat
  kind : SumKind
  first : Nat
  src : BitVec 12
  dst : BitVec 12
  n : Word
  setCrc : Word
  /-- Of a dumbwaiter collective (R354). -/
  dumbwaiter : Bool
  answer : SumAnswer
  data : List Byte
  sealed : Bool
  ctr : Dword
  gcmTag : List Byte
  keyId : Word
  /-- What goes wrong in the additions of the message's integers (R351). -/
  fault : LaneFault
  deriving DecidableEq, Repr

/-- VC of a SUM or DWAIT message (R325): exponent words on VC2, integers and grants on VC1; the dumbwaiter's all on VC2, its grants aside
(R346, R349, R354). -/
def SumMsg.vc (m : SumMsg) : Nat :=
  match m.kind with
  | .exponents => 2
  | .agreed => 2
  | .grant => 1
  | _ => if m.dumbwaiter then 2 else 1

/-- A chunk of a collective, and what goes wrong in the additions of its level 1 (R345, R351). -/
structure ChunkStep where
  chunk : Nat
  fault : LaneFault
  deriving DecidableEq, Repr

/-- What goes wrong while an array instruction runs: in its sums, and in those of its repetition (R131). -/
structure Faults where
  upsets : List Upset
  again : List Upset
  deriving DecidableEq, Repr

/-- A restart or landing notice between members: who sends it, to whom, and of which slot (R332, R352, R386). -/
structure Notice where
  src : BitVec 12
  dst : BitVec 12
  slot : SlotId
  /-- The case of R389 in which the sender's job has ended; none where it restarts or has taken a landing. -/
  ended : Option (Fin 6)
  deriving DecidableEq, Repr

/-- Slots of 512 bytes that a wire group of a bridge edge has carried from a tile since the last report, and whether the last of them
failed its CRC-32 and was sent again (R376). -/
structure EdgeSlots where
  tile : TileId
  /-- Toward row − 1, column + 1, row + 1 or column − 1 (R379). -/
  dir : Fin 4
  group : Fin 16
  slots : Nat
  failed : Bool
  deriving DecidableEq, Repr

/-- What the module's monitor reports: sensor readings, and what the bridge edges have carried (R376, R441). -/
structure Sampling where
  readings : List (Byte × Word)
  edges : List EdgeSlots
  deriving DecidableEq, Repr

/-- How a port's training ended: the lanes that locked, and the level of TWIN_SENSE then (R334, R396). -/
structure Trained where
  locked : Byte
  twinSense : Bool
  deriving DecidableEq, Repr

/-- What a port's FEC did for a flit: the lane whose codeword was uncorrectable, and how many symbols were corrected (R320, R322). -/
structure Fec where
  bad : Option (Fin 8)
  corrected : Fin 16
  deriving DecidableEq, Repr

/-- The body of a TWIN message, and whether more of it follows in the next one (R328, notes/assumptions/17.md). -/
structure TwinBody where
  more : Bool
  data : List Byte
  deriving DecidableEq, Repr

/-- A write to a PCI Express configuration register or MSI-X table entry that the device's behaviour depends on (R400,
R412, R413, R416). -/
inductive CfgWrite where
  /-- Resizes BAR2 to 2^log2 GiB, 0 to 7. -/
  | bar2Size (log2 : Fin 8)
  | busMaster (on : Bool)
  | relaxedOrdering (on : Bool)
  /-- The mask bit of an MSI-X vector (BAR4, R400, R412; notes/assumptions/9.md). -/
  | msixMask (vector : Fin 64) (masked : Bool)
  /-- The message address and data of an MSI-X vector (BAR4, R400). -/
  | msixMessage (vector : Fin 64) (address : Dword) (data : Word)
  /-- MSI-X Enable and Function Mask (R412). -/
  | msixControl (enable mask : Bool)
  /-- Max_Payload_Size and Max_Read_Request_Size, as powers of two times 128 bytes (R398). -/
  | sizes (payload read : Fin 6)
  /-- The Completion Timeout range of Device Control 2 (R417). -/
  | completionTimeout (range : Fin 16)
  /-- AER mask and severity of the uncorrectable internal error, and its status bit cleared (R418). -/
  | aerMask (masked : Bool)
  | aerSeverity (fatal : Bool)
  | aerClear
  deriving DecidableEq, Repr

/-- The commands: one constructor for each row of the table of operations and events. -/
inductive Instr where
  -- Fareg commands (R292): a started packet carries out its opcode
  | nop (h : Hdr)
  | identify (h : Hdr) (host : Dword)
  | attest (h : Hdr) (host : Dword) (capacity : Word) (nonce : BitVec 256)
  | inventory (h : Hdr) (host : Dword) (capacity : Word)
  | writeMem (h : Hdr) (dev host len : Dword)
  | readMem (h : Hdr) (dev host len : Dword)
  | fillMem (h : Hdr) (dev len pattern : Dword)
  | copyMem (h : Hdr) (src dst len : Dword)
  | sealRegion (h : Hdr) (base size rid : Dword) (key : Byte)
  | unsealRegion (h : Hdr) (base : Dword)
  | installKey (h : Hdr) (host : Dword) (len : Word) (key : Byte)
  | loadPlan (h : Hdr) (host : Dword) (len : Word) (slot : Byte)
  | unloadPlan (h : Hdr) (slot : Byte)
  | saveContext (h : Hdr) (addr capacity : Dword) (slot target : Byte)
  | contextWritten (slot : SlotId)
  | restoreContext (h : Hdr) (addr len : Dword) (slot target : Byte)
  | run (h : Hdr) (slot src : Byte)
  | pause (h : Hdr) (slot : Byte)
  | pauseComplete (slot : SlotId)
  | resume (h : Hdr) (slot : Byte)
  | abort (h : Hdr) (slot : Byte)
  | mark (h : Hdr) (src : Byte)
  | hookAcquire (h : Hdr) (hook : Half) (value : Word)
  | hookRelease (h : Hdr) (hook : Half) (inc : Word)
  | hookSet (h : Hdr) (hook : Half) (value : Word)
  | hookRead (h : Hdr) (hook : Half)
  | streamOpen (h : Hdr) (host : Dword) (len : Word)
  | streamSubmit (h : Hdr) (sid len : Word) (host : Dword)
  | ringHead (h : Hdr) (sid : Word) (consumed : Dword)
  | rate (h : Hdr) (sid : Word) (bpf cap vbv : Word) (qmin qmax : Half)
  | forceKey (h : Hdr) (sid : Word)
  | flush (h : Hdr) (sid : Word)
  | rebind (h : Hdr) (sid : Word) (src depth : Byte)
  | streamClose (h : Hdr) (sid : Word)
  | hold (h : Hdr) (sid : Word) (buffer : Half)
  | unhold (h : Hdr) (sid : Word) (buffer : Half)
  | releaseOut (h : Hdr) (sid : Word) (buffer : Half)
  | setLong (h : Hdr) (sid : Word) (buffer : Half) (lt : Byte)
  | clearLong (h : Hdr) (sid : Word) (buffer : Half) (lt : Byte)
  | linkConfigure (h : Hdr) (port : Byte) (len : Word) (host : Dword)
  | domainJoin (h : Hdr) (len : Word) (host : Dword)
  | twinBind (h : Hdr) (mode : Byte)
  | twinRelease (h : Hdr)
  | tableLoad (h : Hdr) (host : Dword) (len : Word)
  | tableSelect (h : Hdr) (set : Byte)
  | tableBanksWritten
  | tableSwitchComplete
  | seedStreams (h : Hdr) (slot : Byte) (seed advance : Dword)
  | ledgerRead (h : Hdr) (first count : Word) (host : Dword)
  | counterRead (h : Hdr) (first count : Word) (host : Dword)
  | counterClear (h : Hdr) (first count : Word)
  | firmwareStage (h : Hdr) (host : Dword) (offset len : Word)
  | firmwareCommit (h : Hdr) (len : Word)
  | resetFunction (h : Hdr) (fid : Half)
  | functionResetComplete (fid : Half) (retestPass : Bool)
  | resetDevice (h : Hdr) (confirmation : Word)
  -- Register accesses (20_host_interface.md)
  | tail (port : PortId) (chute : Fin 64) (value : Word)
  | replyHead (port : PortId) (chute : Fin 64) (value : Word)
  | chuteEnable (port : PortId) (chute : Fin 64) (value : Dword)
  | chuteDisable (port : PortId) (chute : Fin 64)
  | hookRegisterWrite (port : PortId) (hook : BitVec 12) (value : Word)
  | funcReset (port : PortId) (fid : Half)
  | apply (port : PortId)
  | registerWrite (port : PortId) (offset : BitVec 24) (bytes : Nat) (value : Dword)
  | bar2Read (port : PortId) (offset : Nat) (len : Nat)
  | bar2Write (port : PortId) (offset : Nat) (data : List Byte)
  | mbSend (port : PortId)
  | mbAbort (port : PortId)
  | smbusMessage (data : List Byte)
  -- Intake (R287, R288, R417)
  | packetStart
  | fetchFailed (port : PortId) (chute : Fin 64) (host : Dword)
  | hostDataReadFailed (h : Hdr) (host : Dword)
  -- Records (R263, R269)
  | recordDispatch (slot : SlotId) (rec : Nat)
  | recordComplete (slot : SlotId) (rec : Nat)
  | product (slot : SlotId) (rec : Nat)
  | conv (slot : SlotId) (rec : Nat)
  | pool (slot : SlotId) (rec : Nat)
  | resample (slot : SlotId) (rec : Nat)
  | elementwise (slot : SlotId) (rec : Nat)
  | normalise (slot : SlotId) (rec : Nat)
  | rotary (slot : SlotId) (rec : Nat)
  | draw (slot : SlotId) (rec : Nat)
  | attend (slot : SlotId) (rec : Nat)
  | append (slot : SlotId) (rec : Nat)
  | pflush (slot : SlotId) (rec : Nat)
  | lane (slot : SlotId) (rec : Nat)
  | sum (slot : SlotId) (rec : Nat)
  | move (slot : SlotId) (rec : Nat)
  -- Core steps (R117, R124, R183)
  | arrayInstruction (core : CoreId) (slot : SlotId) (rec mblock nblock kchunk : Nat) (second : Bool) (faults : Faults)
  | livePreempt (core : CoreId) (slot : SlotId) (rec : Nat)
  | laneWorkUnitComplete (u : LaneId) (failures : Fin 3)
  -- Lane instructions (R174)
  | laneNop (u : LaneId)
  | const (u : LaneId) (d : Reg) (c : Fin 64)
  | mov (u : LaneId) (d a : Reg)
  | idx (u : LaneId) (d : Reg) (c : Fin 64)
  | fadd (u : LaneId) (d a b : Reg)
  | fsub (u : LaneId) (d a b : Reg)
  | fmul (u : LaneId) (d a b : Reg)
  | ffma (u : LaneId) (d a b c : Reg)
  | fmin (u : LaneId) (d a b : Reg)
  | fmax (u : LaneId) (d a b : Reg)
  | fabs (u : LaneId) (d a : Reg)
  | fneg (u : LaneId) (d a : Reg)
  | badd (u : LaneId) (d a b : Reg)
  | bmul (u : LaneId) (d a b : Reg)
  | bfma (u : LaneId) (d a b c : Reg)
  | iadd (u : LaneId) (d a b : Reg)
  | isub (u : LaneId) (d a b : Reg)
  | imul (u : LaneId) (d a b : Reg)
  | imulh (u : LaneId) (d a b : Reg)
  | imin (u : LaneId) (d a b : Reg)
  | imax (u : LaneId) (d a b : Reg)
  | and (u : LaneId) (d a b : Reg)
  | or (u : LaneId) (d a b : Reg)
  | xor (u : LaneId) (d a b : Reg)
  | shl (u : LaneId) (d a b : Reg)
  | shr (u : LaneId) (d a b : Reg)
  | sar (u : LaneId) (d a b : Reg)
  | xmac (u : LaneId) (d a b : Reg)
  | xrnd (u : LaneId) (d a : Reg)
  | fcmplt (u : LaneId) (d a b : Reg)
  | fcmple (u : LaneId) (d a b : Reg)
  | fcmpeq (u : LaneId) (d a b : Reg)
  | icmplt (u : LaneId) (d a b : Reg)
  | icmpeq (u : LaneId) (d a b : Reg)
  | sel (u : LaneId) (d a b c : Reg)
  | cvt (u : LaneId) (d a : Reg) (b c : Fin 64)
  | sfn (u : LaneId) (d a : Reg) (b c : Fin 64)
  | rand (u : LaneId) (d a : Reg) (b c : Fin 64)
  | ld (u : LaneId) (d : Reg) (c : Fin 64)
  | st (u : LaneId) (a : Reg) (c : Fin 64)
  | rsum (u : LaneId) (d a : Reg)
  | rmax (u : LaneId) (d a : Reg)
  | rmin (u : LaneId) (d a : Reg)
  | rwel (u : LaneId) (d a : Reg)
  | pass (u : LaneId)
  | finish (u : LaneId)
  -- Memory, rails, rotation, probes
  | sweepSlot (bank : BankId) (work : SweepWork)
  | sweepStanding (bank : BankId)
  | bankSwapped (bank : BankId)
  | cellarTestDone
  | railRaise (d : RailId)
  | railRaiseComplete (d : RailId)
  | railLower (d : RailId)
  | gate (d : RailId)
  | wake (d : RailId)
  | rotationDue (t : TileId)
  | rotation (t : TileId)
  | rotationComplete (t : TileId)
  | marginProbe (c : CoreId)
  -- Jobs and periods
  | jobRestart (slot : SlotId) (cause : FaultCause)
  | landing (slot : SlotId)
  | landingNotice (port : LinkId) (notice : Notice) (number : Word) (digest : Dword)
  | landingCopyComplete (slot : SlotId)
  | periodMark (src : Fin 4) (low high : Nat)
  | periodStart (slot : SlotId)
  -- Links
  | flitReceive (port : LinkId) (flit : List Byte) (fec : Fec)
  | laneSignalLoss (port : LinkId) (lane : Fin 8)
  | laneRetune (port : LinkId) (lane : Fin 8)
  | retuneComplete (port : LinkId) (lane : Fin 8) (prbsPass : Bool)
  | linkTrained (port : LinkId) (result : Trained)
  | write (port : LinkId) (m : Msg)
  | read (port : LinkId) (m : Msg)
  | data (port : LinkId) (m : Msg)
  | ack (port : LinkId) (m : Msg)
  | domain (port : LinkId) (domainId : Dword) (number : BitVec 12) (group position : Byte)
  | twin (port : LinkId) (kind : Byte) (value : Dword) (body : TwinBody)
  | stepOut (own : Bool)
  | restartNotice (port : LinkId) (notice : Notice)
  -- Collectives
  | collectiveAdmit (slot : SlotId) (rec : Nat)
  | chunkBinAssign (slot : SlotId) (rec : Nat) (chunk : ChunkStep)
  | sumMessage (port : LinkId) (m : SumMsg)
  | dwait (port : LinkId) (m : SumMsg)
  -- Codec
  | frameStart (stream : Fin 256)
  | blockRow (engine : EngineId) (failures : Fin 3)
  | unitEmit (stream : Fin 256)
  | frameComplete (stream : Fin 256)
  -- Ports and module
  | flr (port : PortId)
  | perstAssert (port : PortId)
  | perstDeassert (port : PortId)
  | d3hotEntry (port : PortId)
  | d0Return (port : PortId)
  | refclkLoss (port : PortId)
  /-- Whether a hub's check of the loaded image fails twice (R421), and the good cores that fail their self-test (R419). -/
  | powerUp (hubFails : Bool) (failed : List CoreId)
  | pwrEnFall
  | inputUndervoltage
  | inputOvervoltage
  | railFault
  | sensorSample (sample : Sampling)
  | shelfEpilogueFill (c : CoreId)
  | marginProbeComplete (c : CoreId) (passed : Bool)
  | refclkArrival (port : PortId)
  | thermTripRelease
  | configurationWrite (port : PortId) (w : CfgWrite)
  deriving DecidableEq, Repr

end Sys2Proof
end

