-- ==== Sys2Proof/Config.lean ====
section
/-! DEFINITION. Sys2Proof/Config.lean: what one device fixes and the spec does not state, and the free values. Each is
a constant without a body: no proof can see its value, so every statement holds whatever it is (notes/assumptions/6.md
and 8.md). -/
namespace Sys2Proof.Config

/-- Module serial number, IDENT.SERIAL (R402): fixed at manufacture. -/
opaque serial : BitVec 64
/-- Silicon stepping (R402). -/
opaque stepping : BitVec 8
/-- Aqenne's PCI-SIG vendor identifier (R398, R402). -/
opaque vendorId : BitVec 16
/-- Ed25519 identity secret of the device (R431): never leaves the die. -/
opaque identitySecret : BitVec 256
/-- X25519 wrap secret of the device (R428, R431): never leaves the die. -/
opaque wrapSecret : BitVec 256
/-- Secret half of Aqenne's manufacturing key, under whose public half MFG_SIG of the ATTEST report verifies (R430, R431). -/
opaque mfgSecret : BitVec 256
/-- Key hash held in the hubs' fuses (R424). -/
opaque fwKeyHash : BitVec 512
/-- Firmware image that bank A holds at shipment (R421, R423). -/
opaque shippedImage : List Byte
/-- What the other end of a PCI Express port brings to training number `n` of it (R399): the lanes that lock, the highest rate as a
number from 0 for 16 GT/s to 2 for 64 GT/s, and whether it supports flit mode. -/
opaque hostLink : Nat → Nat → BitVec 16 × Fin 3 × Bool
/-- Free value number `n`: a number the spec leaves open. -/
opaque free : Nat → Nat
/-- Byte `i` of free value number `n`. -/
opaque freeByte : Nat → Nat → Byte
/-- What a codec stream has been given so far, as one number that nothing but its inputs decides: after a further input (R21, R368). -/
opaque codecNext : Nat → List Byte → Nat
/-- Number `i` that the bitstream standards or the encoder decide after a codec history. -/
opaque codecNum : Nat → Nat → Nat
/-- What the bitstream standards read in a unit of a submitted bitstream (R355, R364): where it starts, the parameters that it sets
(profile, level, chroma format, bit depth, width, height), whether it is a random access point, whether it is in error, and how many
pictures it completes. -/
structure CodecUnit where
  offset : Nat
  header : Option (Nat × Nat × Nat × Nat × Nat × Nat)
  randomAccess : Bool
  bad : Bool
  pictures : Nat
/-- The units of a submitted bitstream, after a codec history, by codec. -/
opaque codecUnits : Nat → Nat → List Byte → List CodecUnit
/-- The parameter sets, or the sequence header, that say what a descriptor's fields say (R355, R360, R367). -/
opaque codecHeader : List Byte → List Byte
/-- Byte `i` of kind `k` that they decide after a codec history. -/
opaque codecByte : Nat → Nat → Nat → Byte
/-- What a value converts to in E8M0 where it is no power of two in range: R43 has no row for the format. The arguments are the rounding
code, the sign, and the magnitude num / den × 2^e; den is 0 for an infinity. -/
opaque toScale : Nat → Bool → Nat → Nat → Int → Byte
/-- Shift of sub-block `k` of a NaN crate, from the BF16 codes of the elements and of their references (R97). -/
opaque nanShift : List Nat → List Nat → Nat → Nat
/-- Whether a member can send to another one, both by device number, when free value `n` is drawn: the state of other devices' ports
(R333). -/
opaque relayReaches : Nat → Nat → Nat → Bool
/-- ID of the region that holds a local address of another device, by device number (R84). -/
opaque remoteRegion : Nat → Nat → BitVec 64

/-- How much an activity counter has counted since it was last read or cleared, by free value number and counter ID (R440). -/
opaque activity : Nat → Nat → Nat

end Sys2Proof.Config
end

