-- ==== Sys2Proof/Machine/Bits.lean ====
section
/-! DEFINITION. Sys2Proof/Machine/Bits.lean: byte order (R3), bit fields (R4), serial-number order (R435) and the
three CRCs of the spec (R103, R321, R388). -/
namespace Sys2Proof.Machine

/-- The value of little-endian bytes (R3). -/
def leNat : List Byte → Nat
  | [] => 0
  | b :: bs => b.toNat + 256 * leNat bs

/-- The `n` little-endian bytes of a value (R3). -/
def toLE : Nat → Nat → List Byte
  | 0, _ => []
  | n + 1, v => BitVec.ofNat 8 v :: toLE n (v / 256)

/-- The value of big-endian bytes. -/
def beNat (bs : List Byte) : Nat := bs.foldl (fun a b => 256 * a + b.toNat) 0

/-- The `n` big-endian bytes of a value. -/
def toBE (n v : Nat) : List Byte := (toLE n v).reverse

/-- Bits [hi:lo] of a value (R4). -/
def bits (v hi lo : Nat) : Nat := v / 2 ^ lo % 2 ^ (hi + 1 - lo)

/-- Bit `i` of a value (R4). -/
def bit (v i : Nat) : Bool := v / 2 ^ i % 2 == 1

/-- `n` bytes from offset `o` of a run of bytes. -/
def slice (bs : List Byte) (o n : Nat) : List Byte := (bs.drop o).take n

/-- The little-endian field of `n` bytes at offset `o` (R3). -/
def fieldLE (bs : List Byte) (o n : Nat) : Nat := leNat (slice bs o n)

/-- Whether every byte is 0 (reserved fields, R6). -/
def allZero (bs : List Byte) : Bool := bs.all (· == 0)

/-- The signed value of an `n`-bit two's complement number. -/
def signed (n v : Nat) : Int := if v % 2 ^ n < 2 ^ (n - 1) then Int.ofNat (v % 2 ^ n) else Int.ofNat (v % 2 ^ n) - 2 ^ n

/-- The `n`-bit two's complement code of an integer, modulo 2^n. -/
def unsigned (n : Nat) (i : Int) : Nat := (i % (2 ^ n : Int)).toNat

/-- Natural number of a truth value. -/
def b2n (b : Bool) : Nat := if b then 1 else 0

/-- Replace the bytes at offset `o`. -/
def patch (bs : List Byte) (o : Nat) (v : List Byte) : List Byte := bs.take o ++ v ++ bs.drop (o + v.length)

/-- Pad with zero bytes to a length. -/
def padTo (n : Nat) (bs : List Byte) : List Byte := bs ++ List.replicate (n - bs.length) 0

/-- Round up to a multiple. -/
def roundUp (m v : Nat) : Nat := (v + m - 1) / m * m

/-- Rounded-up quotient. -/
def ceilDiv (a b : Nat) : Nat := (a + b - 1) / b

/-- Serial-number order of `w`-bit numbers: `a` is earlier than `b` (R435). -/
def earlier (w a b : Nat) : Bool := a % 2 ^ w != b % 2 ^ w && (b + 2 ^ w - a % 2 ^ w) % 2 ^ w < 2 ^ (w - 1)

/-- One bit step of a most-significant-first CRC of width `w`. -/
def crcStep (w poly c : Nat) : Nat :=
  if c / 2 ^ (w - 1) % 2 = 1 then (c * 2 % 2 ^ w) ^^^ poly else c * 2 % 2 ^ w

/-- A CRC without reflection or final XOR. -/
def crcMsb (w poly init : Nat) (bs : List Byte) : Nat :=
  bs.foldl (fun c b => (List.range 8).foldl (fun c _ => crcStep w poly c) (c ^^^ (b.toNat * 2 ^ (w - 8)))) init

/-- CRC-16 of a crate: polynomial 0x1021, initial value 0xFFFF (R103). -/
def crc16 (bs : List Byte) : Nat := crcMsb 16 0x1021 0xFFFF bs

/-- CRC-64/ECMA-182 of a landing (R388). -/
def crc64 (bs : List Byte) : Nat := crcMsb 64 0x42F0E1EBA9EA3693 0 bs

/-- One bit step of the reflected CRC-32: 0xEDB88320 is 0x04C11DB7 with its bits reversed (R321). -/
def crc32Step (c : Nat) : Nat := if c % 2 = 1 then (c / 2) ^^^ 0xEDB88320 else c / 2

/-- CRC-32 of IEEE 802.3 (R321). -/
def crc32 (bs : List Byte) : Nat :=
  (bs.foldl (fun c b => (List.range 8).foldl (fun c _ => crc32Step c) (c ^^^ b.toNat)) 0xFFFFFFFF) ^^^ 0xFFFFFFFF

/-- The bytes of an ASCII text. -/
def ascii (t : String) : List Byte := t.toList.map (fun c => BitVec.ofNat 8 c.toNat)

end Sys2Proof.Machine
end

