-- ==== Sys2Proof/Machine/Operands.lean ====
section
/-! DEFINITION. Sys2Proof/Machine/Operands.lean: the number formats of the device (R36 to R39), their values, the
rounding modes (R42, R44), conversion between formats with its range rules (R43, R45), and the IEEE arithmetic that
the lane engine, the epilogue and the special-function units use (R40, R41, R46). A value is held exactly, as a
signed multiple of a power of two. -/
namespace Sys2Proof.Machine

/-- The format codes 0x0 to 0xB of R36. -/
inductive Fmt where
  | fp32 | bf16 | fp16 | e4m3 | e5m2 | e2m1 | int32 | int8 | int4 | uint8 | wide48 | e8m0
  deriving DecidableEq, Repr

/-- Format of a code; codes 0xC to 0xF are reserved (R36). -/
def Fmt.ofCode : Nat → Option Fmt
  | 0 => some .fp32 | 1 => some .bf16 | 2 => some .fp16 | 3 => some .e4m3 | 4 => some .e5m2 | 5 => some .e2m1
  | 6 => some .int32 | 7 => some .int8 | 8 => some .int4 | 9 => some .uint8 | 10 => some .wide48 | 11 => some .e8m0
  | _ => none

/-- Width in bits (R36). -/
def Fmt.width : Fmt → Nat
  | .fp32 | .int32 => 32
  | .bf16 | .fp16 => 16
  | .e4m3 | .e5m2 | .int8 | .uint8 | .e8m0 => 8
  | .e2m1 | .int4 => 4
  | .wide48 => 48

/-- Whether the format is one of the signed floating-point formats of R38. -/
def Fmt.isFloat : Fmt → Bool
  | .fp32 | .bf16 | .fp16 | .e4m3 | .e5m2 | .e2m1 | .wide48 => true
  | _ => false

/-- Exponent bits of a floating-point format (R38). -/
def Fmt.expBits : Fmt → Nat
  | .fp32 | .bf16 => 8 | .fp16 | .e5m2 => 5 | .e4m3 => 4 | .e2m1 => 2 | .wide48 => 16 | _ => 0

/-- Fraction bits of a floating-point format (R38). -/
def Fmt.fracBits : Fmt → Nat
  | .fp32 => 23 | .bf16 => 7 | .fp16 => 10 | .e4m3 => 3 | .e5m2 => 2 | .e2m1 => 1 | .wide48 => 31 | _ => 0

/-- Exponent bias (R38). -/
def Fmt.bias : Fmt → Nat
  | .fp32 | .bf16 => 127 | .fp16 | .e5m2 => 15 | .e4m3 => 7 | .e2m1 => 1 | .wide48 => 32767 | _ => 0

/-- Whether the format has infinities (R38). -/
def Fmt.hasInf : Fmt → Bool
  | .fp32 | .bf16 | .fp16 | .e5m2 | .wide48 => true
  | _ => false

/-- Largest finite value as significand and exponent (R38): 448 for E4M3, 6 for E2M1. -/
def Fmt.largest (f : Fmt) : Nat × Int :=
  match f with
  | .e4m3 => (14, 5)
  | .e2m1 => (3, 1)
  | _ => (2 ^ (f.fracBits + 1) - 1, (2 ^ f.expBits - 2 : Nat) - Int.ofNat f.bias - Int.ofNat f.fracBits)

/-- Exponent of the smallest subnormal (R38). -/
def Fmt.qmin (f : Fmt) : Int := 1 - Int.ofNat f.bias - Int.ofNat f.fracBits

/-- Canonical NaN (R38, R40); a format without a NaN delivers 0 (R40). -/
def Fmt.nan : Fmt → Nat
  | .fp32 => 0x7FC00000 | .bf16 => 0x7FC0 | .fp16 => 0x7E00 | .e4m3 => 0x7F | .e5m2 => 0x7E
  | .wide48 => 0x7FFFC0000000 | .e8m0 => 0xFF | _ => 0

/-- An exact value: NaN, a signed infinity, or ± m × 2^e (with the sign of zero kept, R41). -/
inductive FV where
  | nan
  | inf (neg : Bool)
  | fin (neg : Bool) (m : Nat) (e : Int)
  deriving DecidableEq, Repr

/-- The value of an integer. -/
def FV.ofInt (i : Int) : FV := .fin (decide (i < 0)) i.natAbs 0

/-- The value +0. -/
def FV.zero : FV := .fin false 0 0
/-- The value 1. -/
def FV.one : FV := .fin false 1 0
/-- Negation. -/
def FV.neg : FV → FV
  | .nan => .nan
  | .inf s => .inf (!s)
  | .fin s m e => .fin (!s) m e
/-- Magnitude. -/
def FV.abs : FV → FV
  | .nan => .nan
  | .inf _ => .inf false
  | .fin _ m e => .fin false m e
/-- Whether the value is NaN. -/
def FV.isNan : FV → Bool
  | .nan => true
  | _ => false
/-- Whether the value is finite. -/
def FV.isFin : FV → Bool
  | .fin .. => true
  | _ => false
/-- Whether the value is a zero of either sign. -/
def FV.isZero : FV → Bool
  | .fin _ 0 _ => true
  | _ => false
/-- Sign bit. -/
def FV.sign : FV → Bool
  | .nan => false
  | .inf s => s
  | .fin s _ _ => s
/-- Multiply by 2^k. -/
def FV.scale (k : Int) : FV → FV
  | .fin s m e => .fin s m (e + k)
  | x => x

/-- m × 2^e as an integer when e ≥ 0 after aligning to exponent `q` (floored when bits fall below). -/
def shiftTo (m : Nat) (e q : Int) : Nat := if q ≤ e then m * 2 ^ (e - q).toNat else m / 2 ^ (q - e).toNat

/-- The value of a stored code in a format (R38). -/
def decode (f : Fmt) (code : Nat) : FV :=
  match f with
  | .int32 => .ofInt (signed 32 code)
  | .int8 => .ofInt (signed 8 code)
  | .int4 => .ofInt (signed 4 code)
  | .uint8 => .fin false (code % 256) 0
  | .e8m0 => if code % 256 = 255 then .nan else .fin false 1 (Int.ofNat (code % 256) - 127)
  | _ =>
    let fb := f.fracBits
    let s := bit code (f.width - 1)
    let x := bits code (f.width - 2) fb
    let m := code % 2 ^ fb
    if f.hasInf && x == 2 ^ f.expBits - 1 then (if m = 0 then .inf s else .nan)
    else if f = .e4m3 ∧ x = 15 ∧ m = 7 then .nan
    else if x = 0 then .fin s m f.qmin
    else .fin s (2 ^ fb + m) (Int.ofNat x - Int.ofNat f.bias - Int.ofNat fb)

/-- The rounding modes of R42. -/
inductive Rnd where
  | rne | rtz | rdn | rup | sr
  deriving DecidableEq, Repr

/-- Rounding mode of a 3-bit code; 0b101 to 0b111 are reserved (R42). -/
def Rnd.ofCode : Nat → Option Rnd
  | 0 => some .rne | 1 => some .rtz | 2 => some .rdn | 3 => some .rup | 4 => some .sr
  | _ => none

/-- floor(log2(num / den)) for num, den > 0. -/
def ilog2 (num den : Nat) : Int :=
  let l : Int := Int.ofNat (Nat.log2 num) - Int.ofNat (Nat.log2 den)
  if 0 ≤ l then (if den * 2 ^ l.toNat ≤ num then l else l - 1)
  else if den ≤ num * 2 ^ (-l).toNat then l else l - 1

/-- Whether a magnitude whose integer part is `k` and whose remainder is rem / den rounds up (R42, R44). `r` is the
24-bit random number of stochastic rounding. -/
def roundsUp (mode : Rnd) (r : Nat) (neg : Bool) (k rem den : Nat) : Bool :=
  match mode with
  | .rne => decide (den < 2 * rem) || (2 * rem == den && k % 2 == 1)
  | .rtz => false
  | .rdn => neg && rem != 0
  | .rup => !neg && rem != 0
  | .sr => rem != 0 && decide (r < 2 ^ 24 * rem / den)

/-- (num / den) × 2^e rounded to an integer multiple of 2^q: the multiple. -/
def roundAt (mode : Rnd) (r : Nat) (neg : Bool) (num den : Nat) (e q : Int) : Nat :=
  let n := if q ≤ e then num * 2 ^ (e - q).toNat else num
  let d := if q ≤ e then den else den * 2 ^ (q - e).toNat
  n / d + b2n (roundsUp mode r neg (n / d) (n % d) d)

/-- (num / den) × 2^e rounded to `p` significant bits with the exponent unbounded above, on the subnormal grid
2^qmin below (R43). The result is k × 2^q. -/
def roundMag (mode : Rnd) (r : Nat) (neg : Bool) (num den : Nat) (e : Int) (p : Nat) (qmin : Int) : Nat × Int :=
  let q := max (ilog2 num den + e - (Int.ofNat p - 1)) qmin
  (roundAt mode r neg num den e q, q)

/-- What a conversion delivers: the code and the two counted events of R45. -/
structure Conv where
  /-- The stored code. -/
  code : Nat
  /-- A finite input was replaced by a range limit, an infinity or NaN (R45). -/
  sat : Bool
  /-- A NaN was delivered as integer 0 (R40, R45). -/
  nan0 : Bool
  deriving DecidableEq, Repr

/-- The code of ± k × 2^q in a floating-point format; k has at most fracBits + 1 bits, or is 2^(fracBits + 1). -/
def encodeMag (f : Fmt) (neg : Bool) (k : Nat) (q : Int) : Nat :=
  let s := if neg then 2 ^ (f.width - 1) else 0
  let top := 2 ^ (f.fracBits + 1)
  let k' := if k = top then k / 2 else k
  let q' := if k = top then q + 1 else q
  if k' < 2 ^ f.fracBits then s + k'
  else s + (q' + Int.ofNat f.fracBits + Int.ofNat f.bias).toNat * 2 ^ f.fracBits + (k' - 2 ^ f.fracBits)

/-- The code of the largest finite magnitude. -/
def Fmt.maxCode (f : Fmt) (neg : Bool) : Nat := encodeMag f neg f.largest.1 f.largest.2

/-- The code of an infinity. -/
def Fmt.infCode (f : Fmt) (neg : Bool) : Nat :=
  (if neg then 2 ^ (f.width - 1) else 0) + (2 ^ f.expBits - 1) * 2 ^ f.fracBits

/-- Whether k × 2^q exceeds the largest finite value. -/
def Fmt.exceeds (f : Fmt) (k : Nat) (q : Int) : Bool :=
  let b := min q f.largest.2
  decide (f.largest.1 * 2 ^ (f.largest.2 - b).toNat < k * 2 ^ (q - b).toNat)

/-- What a finite overflow delivers (R43). -/
def overflowCode (f : Fmt) (mode : Rnd) (ovfNan neg : Bool) : Nat :=
  if f.hasInf then
    match mode with
    | .rne | .sr => f.infCode neg
    | .rtz => f.maxCode neg
    | .rdn => if neg then f.infCode true else f.maxCode false
    | .rup => if neg then f.maxCode true else f.infCode false
  else if f = .e4m3 ∧ ovfNan = true then f.nan else f.maxCode neg

/-- Range of an integer format: lowest and highest value. -/
def Fmt.intRange : Fmt → Int × Int
  | .int32 => (-2147483648, 2147483647)
  | .int8 => (-128, 127)
  | .int4 => (-8, 7)
  | .uint8 => (0, 255)
  | _ => (0, 0)

/-- An integer clamped to an integer format (R43, R45). -/
def clampInt (f : Fmt) (i : Int) : Conv :=
  let lo := f.intRange.1
  let hi := f.intRange.2
  if i < lo then ⟨unsigned f.width lo, true, false⟩
  else if hi < i then ⟨unsigned f.width hi, true, false⟩
  else ⟨unsigned f.width i, false, false⟩

/-- Code of a rounding mode (R42). -/
def Rnd.code : Rnd → Nat
  | .rne => 0 | .rtz => 1 | .rdn => 2 | .rup => 3 | .sr => 4

/-- A finite magnitude converted to E8M0, for which R43 has no row: 2^k with −127 ≤ k ≤ 127 is exactly a scale; what any other value
becomes is free, and nothing is counted (notes/assumptions/48.md). -/
def convScale (mode : Rnd) (neg : Bool) (num den : Nat) (e : Int) : Nat :=
  let k := ilog2 num den + e
  if neg = false ∧ num ≠ 0 ∧ num % den = 0 ∧ num / den = 2 ^ Nat.log2 (num / den) ∧ -127 ≤ k ∧ k ≤ 127 then (k + 127).toNat
  else (Config.toScale mode.code neg num den e).toNat

/-- ± (num / den) × 2^e converted to a format (R42 to R44). -/
def convQ (f : Fmt) (mode : Rnd) (r : Nat) (ovfNan neg : Bool) (num den : Nat) (e : Int) : Conv :=
  match f with
  | .int32 | .int8 | .int4 | .uint8 =>
    let k := roundAt mode r neg num den e 0
    clampInt f (if neg then -(Int.ofNat k) else Int.ofNat k)
  | .e8m0 => ⟨convScale mode neg num den e, false, false⟩
  | _ =>
    if num = 0 then ⟨encodeMag f neg 0 0, false, false⟩
    else
      let kq := roundMag mode r neg num den e (f.fracBits + 1) f.qmin
      if f.exceeds kq.1 kq.2 then ⟨overflowCode f mode ovfNan neg, true, false⟩
      else ⟨encodeMag f neg kq.1 kq.2, false, false⟩

/-- An infinite input (R43); in E8M0 it becomes a free value, as R43 has no row for it (notes/assumptions/48.md). -/
def convInf (f : Fmt) (mode : Rnd) (ovfNan neg : Bool) : Conv :=
  match f with
  | .int32 | .int8 | .int4 | .uint8 =>
    ⟨unsigned f.width (if neg then f.intRange.1 else f.intRange.2), false, false⟩
  | .e8m0 => ⟨(Config.toScale mode.code neg 1 0 0).toNat, false, false⟩
  | _ => if f.hasInf then ⟨f.infCode neg, false, false⟩
         else if f = .e4m3 ∧ ovfNan = true then ⟨f.nan, false, false⟩ else ⟨f.maxCode neg, false, false⟩

/-- A NaN input: the canonical NaN, or integer 0 with its count (R40, R45). -/
def convNan (f : Fmt) : Conv :=
  match f with
  | .int32 | .int8 | .int4 | .uint8 | .e2m1 => ⟨0, false, true⟩
  | _ => ⟨f.nan, false, false⟩

/-- A value converted to a format under a rounding mode (R42 to R45). -/
def convert (f : Fmt) (mode : Rnd) (r : Nat) (ovfNan : Bool) : FV → Conv
  | .nan => convNan f
  | .inf s => convInf f mode ovfNan s
  | .fin s m e => convQ f mode r ovfNan s m 1 e

/-- Round to nearest even into a format; the code. -/
def encode (f : Fmt) (x : FV) : Nat := (convert f .rne 0 false x).code

/-- r32(·): the FP32 value nearest to an exact value (R46, R202). -/
def r32 (x : FV) : FV := decode .fp32 (encode .fp32 x)

/-- r24(·): a 24-bit significand with an unbounded exponent range, round to nearest even (R189). -/
def r24 : FV → FV
  | .fin s m e => if m = 0 then .fin s 0 0 else
      let kq := roundMag .rne 0 s m 1 e 24 (e - 64 - Int.ofNat (Nat.log2 m))
      .fin s kq.1 kq.2
  | x => x

/-- Signed integer of a sign and a magnitude. -/
def sgn (s : Bool) (m : Nat) : Int := if s then -(Int.ofNat m) else Int.ofNat m

/-- Exact sum; a zero sum of unlike signs is +0, or −0 when `rdn` (IEEE 754 under round toward −∞). -/
def FV.addM (rdn : Bool) (a b : FV) : FV :=
  match a, b with
  | .nan, _ => .nan
  | _, .nan => .nan
  | .inf s, .inf t => if s == t then .inf s else .nan
  | .inf s, _ => .inf s
  | _, .inf t => .inf t
  | .fin s m e, .fin t n g =>
    let q := min e g
    let v := sgn s (m * 2 ^ (e - q).toNat) + sgn t (n * 2 ^ (g - q).toNat)
    if v = 0 then .fin (if s == t then s else rdn) 0 0 else .fin (decide (v < 0)) v.natAbs q

/-- Exact sum under the sign-of-zero rule of round to nearest. -/
def FV.add (a b : FV) : FV := FV.addM false a b

/-- Exact difference. -/
def FV.sub (a b : FV) : FV := FV.add a b.neg

/-- Exact product; ∞ × 0 is NaN. -/
def FV.mul (a b : FV) : FV :=
  match a, b with
  | .nan, _ => .nan
  | _, .nan => .nan
  | .inf s, .inf t => .inf (s != t)
  | .inf s, .fin t n _ => if n = 0 then .nan else .inf (s != t)
  | .fin s m _, .inf t => if m = 0 then .nan else .inf (s != t)
  | .fin s m e, .fin t n g => .fin (s != t) (m * n) (e + g)

/-- Order of two values, NaN excluded: a < b. -/
def FV.lt (a b : FV) : Bool :=
  match a, b with
  | .nan, _ => false
  | _, .nan => false
  | .inf s, .inf t => s && !t
  | .inf s, _ => s
  | _, .inf t => !t
  | .fin s m e, .fin t n g =>
    let q := min e g
    decide (sgn s (m * 2 ^ (e - q).toNat) < sgn t (n * 2 ^ (g - q).toNat))

/-- Equality of values (−0 equals +0), false on NaN. -/
def FV.eq (a b : FV) : Bool := !a.isNan && !b.isNan && !a.lt b && !b.lt a

/-- a ≤ b, false on NaN. -/
def FV.le (a b : FV) : Bool := a.lt b || a.eq b

/-- Maximum with FMAX(+0, −0) = +0 and NaN from either operand (R174). -/
def FV.max (a b : FV) : FV :=
  if a.isNan || b.isNan then .nan else if a.lt b then b else if b.lt a then a else if a.sign then b else a

/-- Minimum with FMIN(+0, −0) = −0 and NaN from either operand (R174). -/
def FV.min (a b : FV) : FV :=
  if a.isNan || b.isNan then .nan else if a.lt b then a else if b.lt a then b else if a.sign then a else b

/-- Quotient rounded to FP32 (IEEE 754 division, R202). -/
def FV.div32 (a b : FV) : FV :=
  match a, b with
  | .nan, _ => .nan
  | _, .nan => .nan
  | .inf _, .inf _ => .nan
  | .inf s, .fin t _ _ => .inf (s != t)
  | .fin s _ _, .inf t => .fin (s != t) 0 0
  | .fin s m e, .fin t n g =>
    if n = 0 then (if m = 0 then .nan else .inf (s != t))
    else decode .fp32 (convQ .fp32 .rne 0 false (s != t) m n (e - g)).code

/-- The greatest integer at most a finite value. -/
def FV.floor : FV → Int
  | .fin s m e => if 0 ≤ e then sgn s (m * 2 ^ e.toNat)
      else if s then -(Int.ofNat ((m + 2 ^ (-e).toNat - 1) / 2 ^ (-e).toNat)) else Int.ofNat (m / 2 ^ (-e).toNat)
  | _ => 0

/-- FP32 register bits of a value, rounded to nearest even. -/
def f32Bits (x : FV) : Word := BitVec.ofNat 32 (encode .fp32 x)
/-- Value of FP32 register bits. -/
def f32Val (w : Word) : FV := decode .fp32 w.toNat
/-- FP32 sum, difference, product and fused multiply-add, one rounding each (R46). -/
def f32Add (a b : Word) : Word := f32Bits ((f32Val a).add (f32Val b))
def f32Sub (a b : Word) : Word := f32Bits ((f32Val a).sub (f32Val b))
def f32Mul (a b : Word) : Word := f32Bits ((f32Val a).mul (f32Val b))
def f32Fma (a b c : Word) : Word := f32Bits (((f32Val a).mul (f32Val b)).add (f32Val c))
def f32Min (a b : Word) : Word := f32Bits ((f32Val a).min (f32Val b))
def f32Max (a b : Word) : Word := f32Bits ((f32Val a).max (f32Val b))
/-- BF16 arithmetic: binary32 arithmetic whose result is rounded to BF16 (R46), in bits [15:0] (R174). -/
def bf16Of (x : FV) : Word := BitVec.ofNat 32 (encode .bf16 (r32 x))
def bf16Val (w : Word) : FV := decode .bf16 (w.toNat % 65536)
def bf16Add (a b : Word) : Word := bf16Of ((bf16Val a).add (bf16Val b))
def bf16Mul (a b : Word) : Word := bf16Of ((bf16Val a).mul (bf16Val b))
def bf16Fma (a b c : Word) : Word := bf16Of (((bf16Val a).mul (bf16Val b)).add (bf16Val c))

/-- The exponent emax of a block-scaled element format (R47). -/
def Fmt.emax : Fmt → Int
  | .e4m3 => 8 | .e5m2 => 15 | .e2m1 => 2 | _ => 0

/-- The fixed block exponent of an unscaled operand (R48). -/
def Fmt.blockExp : Fmt → Int
  | .e4m3 => 8 | .e5m2 => 15 | .e2m1 => 2 | .int8 => 7 | .int4 => 3 | _ => 0

/-- Exponent of the smallest non-zero magnitude of an exact operand (R51). -/
def Fmt.mExp : Fmt → Int
  | .e4m3 => -9 | .e5m2 => -16 | .e2m1 => -1 | _ => 0

/-- floor(log2 of the magnitude) of a finite non-zero value. -/
def FV.log2 : FV → Int
  | .fin _ m e => Int.ofNat (Nat.log2 m) + e
  | _ => 0

/-- The larger magnitude of a running maximum and a value; infinities and NaN leave it unchanged (R47). -/
def amaxStep (a : FV) (x : FV) : FV := if x.isFin && a.lt x.abs then x.abs else a

/-- The scale code X of a block formed from the values before rounding (R47). -/
def blockScale (f : Fmt) (xs : List FV) : Nat :=
  if xs.any FV.isNan then 0xFF
  else
    let a := xs.foldl amaxStep FV.zero
    if a.isZero then 0 else (max 0 (min 254 (a.log2 - f.emax + 127))).toNat

/-- The elements of a block under scale code `x`, each with its own random number (R47, R44). E4M3 saturates. -/
def blockElems (f : Fmt) (mode : Rnd) (x : Nat) : List (FV × Nat) → List Conv
  | [] => []
  | (v, r) :: vs =>
    (if x = 0xFF then ⟨0, false, false⟩ else convert f mode r false (v.scale (127 - Int.ofNat x)))
      :: blockElems f mode x vs

end Sys2Proof.Machine
end

