-- ==== Sys2Proof/Machine/Random.lean ====
section
/-! DEFINITION. Sys2Proof/Machine/Random.lean: the stream generator and the uniform value (R207, R213). -/
namespace Sys2Proof.Machine

/-- One round of the generator on (a, b). -/
def genRound (seed : Dword) (ab : Dword × Dword) (i : Nat) : Dword × Dword :=
  let a := ab.1 ^^^ (seed + BitVec.ofNat 64 i * 0x5D2C8B61E4A907F3)
  let p := a.toNat * 0xA0F35C2719E6D84B
  let lo := BitVec.ofNat 64 p
  (BitVec.ofNat 64 (p / 2 ^ 64) ^^^ ab.2 ^^^ lo.rotateLeft 23, lo + 0x6B8E2D41F37C9A15)

/-- W(seed, stream, counter) (R207). -/
def genWord (seed : Dword) (stream counter : Nat) : Dword :=
  ((List.range 8).foldl (genRound seed) (BitVec.ofNat 64 counter, BitVec.ofNat 64 stream)).1

/-- Bits [63:40] of a word. -/
def genTop (w : Dword) : Nat := w.toNat / 2 ^ 40

/-- The uniform value of a word, (2t + 1) × 2^-25 rounded toward zero to FP32 (R213). -/
def uniform (w : Dword) : FV := decode .fp32 (convert .fp32 .rtz 0 false (.fin false (2 * genTop w + 1) (-25))).code

end Sys2Proof.Machine
end

