-- ==== Sys2Proof/Machine/Tab.lean ====
section
/-! DEFINITION. Sys2Proof/Machine/Tab.lean: sparse tables, the one form in which State keeps memory and every
indexed bank of registers: (index, value) pairs with strictly rising indices and no pair equal to the default,
so that equal tables are equal lists. Memory is the table of bytes (Host.Cell pairs). -/
namespace Sys2Proof.Machine

/-- A sparse table: pairs of an index and a value. -/
abbrev Tab (α : Type) := List (Nat × α)

/-- The value at index `k`; `d` is what an unlisted index reads as. -/
def Tab.look {α : Type} (d : α) : Tab α → Nat → α
  | [], _ => d
  | (i, v) :: t, k => if k = i then v else if k < i then d else Tab.look d t k

/-- Remove the entry of index `k`, if any. -/
def Tab.drop {α : Type} : Tab α → Nat → Tab α
  | [], _ => []
  | (i, v) :: t, k => if k = i then t else if k < i then (i, v) :: t else (i, v) :: Tab.drop t k

/-- Put the entry (k, v) at its place. -/
def Tab.ins {α : Type} : Tab α → Nat → α → Tab α
  | [], k, v => [(k, v)]
  | (i, w) :: t, k, v =>
    if k = i then (k, v) :: t else if k < i then (k, v) :: (i, w) :: t else (i, w) :: Tab.ins t k v

/-- Write `v` at index `k`; writing the default removes the entry, which keeps the canonical form. -/
def Tab.put {α : Type} [DecidableEq α] (d : α) (t : Tab α) (k : Nat) (v : α) : Tab α :=
  if v = d then Tab.drop t k else Tab.ins t k v

/-- Every index of the table lies above `k`. -/
def Tab.above {α : Type} (k : Nat) : Tab α → Bool
  | [] => true
  | (i, _) :: _ => decide (k < i)

/-- The canonical form: indices strictly rising, no entry equal to the default. -/
def Tab.wf {α : Type} [DecidableEq α] (d : α) : Tab α → Bool
  | [] => true
  | (i, v) :: t => decide (v ≠ d) && Tab.above i t && Tab.wf d t

/-- Write a run of values at indices `k`, `k + 1`, … -/
def Tab.putAll {α : Type} [DecidableEq α] (d : α) (t : Tab α) (k : Nat) : List α → Tab α
  | [] => t
  | v :: vs => Tab.putAll d (Tab.put d t k v) (k + 1) vs

/-- The values at `n` indices from `k`. -/
def Tab.lookAll {α : Type} (d : α) (t : Tab α) (k : Nat) : Nat → List α
  | 0 => []
  | n + 1 => Tab.look d t k :: Tab.lookAll d t (k + 1) n

/-- Every value changed by `f`, as a table whose default is `d`. -/
def Tab.remap {α : Type} [DecidableEq α] (d : α) (f : α → α) : Tab α → Tab α
  | [] => []
  | (i, v) :: t => if f v = d then Tab.remap d f t else (i, f v) :: Tab.remap d f t

/-- The canonical form of a memory: strictly rising addresses, no listed byte that an unlisted one equals (0). -/
def Memory.wf (m : Tab (BitVec 8)) : Bool := Tab.wf 0 m

end Sys2Proof.Machine
end

