-- ==== Sys2Proof/Machine/Types.lean ====
section
/-! DEFINITION. Sys2Proof/Machine/Types.lean: the records that State is made of: the parts of a loaded plan as its
image gives them, runs, core and lane contents, links, collectives, streams, keys, ledger records. Plain data. -/
namespace Sys2Proof.Machine

/-! ### Plans (13_plans.md) -/

/-- A tensor descriptor, field for field (R258). 0xFFFF in an index field means none. -/
structure Tensor where
  fmtCode : Nat
  comp : Nat
  rndCode : Nat
  ovfNan : Bool
  base : Nat
  ref : Nat
  scale : Nat
  stream : Nat
  size : List Nat
  stride : List Nat
  capacity : Nat
  sealed : Bool
  shelf : Bool
  layout : Nat
  blockDim : Nat
  /-- Every reserved bit of the descriptor is 0 (R6). -/
  rsvOk : Bool
  deriving DecidableEq, Repr

/-- An operation record, field for field (R262). 0xFFFF means none. -/
structure Rec where
  opcode : Nat
  dataflow : Nat
  tableSet : Nat
  rowHold : Bool
  stepEnd : Bool
  tiers : Nat
  pfmt : Nat
  prnd : Nat
  a : Nat
  b : Nat
  b2 : Nat
  out : Nat
  aux0 : Nat
  aux1 : Nat
  program : Nat
  func : Nat
  split0 : Nat
  split1 : Nat
  split2 : Nat
  homeBase : Nat
  dep : List Nat
  waitHook : Nat
  signalHook : Nat
  stream : Nat
  mask : Nat
  stages : List Nat
  rsvOk : Bool
  deriving DecidableEq, Repr

/-- A lane program (R172). -/
structure LaneProg where
  length : Nat
  passes : Nat
  l : Nat
  rows : Nat
  slots : List Nat
  streamBase : Nat
  consts : List Nat
  instrs : List Nat
  rsvOk : Bool
  deriving DecidableEq, Repr

/-- The landing declaration (R271). -/
structure LandingDecl where
  every : Nat
  copy0 : Nat
  copy1 : Nat
  copySize : Nat
  list : List Nat
  rsvOk : Bool
  deriving DecidableEq, Repr

/-- The resource declaration (R273). -/
structure Resource where
  peakSums : Nat
  hookBase : Nat
  hookCount : Nat
  trays : Nat
  chainBytes : Nat
  shelfBytes : Nat
  rsvOk : Bool
  deriving DecidableEq, Repr

/-- A page-set header as LOAD_PLAN reads it (R237), with the tensor that holds it. -/
structure PageSet where
  tensor : Nat
  format : Nat
  dhead : Nat
  kfmt : Nat
  vfmt : Nat
  rnd : Nat
  hg : Nat
  seqs : Nat
  maxPages : Nat
  seqtab : Nat
  ptab : Nat
  pool : Nat
  trays : Nat
  slots : Nat
  holders : Nat
  rsvOk : Bool
  deriving DecidableEq, Repr

/-- A member set as LOAD_PLAN reads it (R339): the tensor that holds it and the device numbers. -/
structure MemberSet where
  tensor : Nat
  members : List Nat
  deriving DecidableEq, Repr

/-- A plan as the stewards keep it (R256, R277). -/
structure Plan where
  cls : Nat
  imageLength : Nat
  seed : Dword
  homes : Nat
  tensors : List Tensor
  records : List Rec
  programs : List LaneProg
  landing : LandingDecl
  resource : Resource
  pageSets : List PageSet
  memberSets : List MemberSet
  /-- The 64 bytes of DIGEST (R257). -/
  digest : List Byte
  /-- Reserved header bytes are 0 (R256). -/
  rsvOk : Bool
  deriving DecidableEq, Repr

/-! ### Table sets (09_special_functions.md) -/

/-- A table set: one of the two ROM sets (R195) or the nodes of a loaded image in the order of R191 (R196). -/
inductive TableSet where
  | standard
  | c12
  | loaded (id : Dword) (nodes : List Word)
  deriving DecidableEq, Repr

/-! ### Cores and lanes (05, 08, 19) -/

/-- Operation count and fault marks of a unit (R375). -/
structure Health where
  ops : Nat
  faults : List Nat
  deriving DecidableEq, Repr


/-- A bridge edge: the operations and fault marks of its wire groups, of 512-byte slots, and whether it runs at half rate (R375, R376). -/
structure Edge where
  groups : Tab Health
  half : Bool
  deriving DecidableEq, Repr

/-- One accumulator of the array (R55, R110): the 96-bit integer with its flags, or the FP32 running sum. -/
structure Acc where
  int : BitVec 96
  nan : Bool
  pinf : Bool
  ninf : Bool
  /-- The BF16 path's running sum; none before its first product (R57). -/
  fp : Option Word
  deriving DecidableEq, Repr

/-- Which array instruction a held tile, a carry or a released block belongs to (R112). For an ATTEND record the m-block is the query
block of its head group, the n-block the page among those of its split, the k-chunk the page group, and the second product the value
product (R232). -/
structure BlockId where
  slot : Nat
  record : Nat
  mblock : Nat
  nblock : Nat
  kchunk : Nat
  second : Bool
  deriving DecidableEq, Repr

/-- A cell of the checksum line: the sum of a held line's significands, or on the BF16 path of its values, and whether the line holds a
NaN, an infinity or a scale of 0xFF (R110, R121, R130). -/
structure CheckCell where
  int : BitVec 112
  exact : FV
  bad : Bool
  deriving DecidableEq, Repr

/-- A register set of the array (R110): the instruction it belongs to, the held codes line by line in ascending k, the checksum line's
cells, and in C_STILL the accumulators (R114, R121). -/
structure RegSet where
  block : BlockId
  held : List Nat
  line : List CheckCell
  sums : List Acc
  deriving DecidableEq, Repr

/-- A chain value that the epilogue holds: its code, the second product's, and the events of R45 so far (R146, R150, R152). -/
structure HeldCell where
  code : Nat
  p2 : Nat
  sat : Bool
  nan0 : Bool
  deriving DecidableEq, Repr

/-- Chain values of a block on entry to stage `stage`, with their width in bits and that of the second product's values that go with
them (0: none); and whether the second product has joined, or there is none (R146, R147, R150). -/
structure HeldBlock where
  stage : Nat
  whole : Bool
  width : Nat
  width2 : Nat
  cells : List HeldCell
  deriving DecidableEq, Repr

/-- What the epilogue buffer holds of a block: an ATTEND record's scores as FP32 (R227, R232), or chain values (R146, R150). -/
inductive Held where
  | scores (l : List Word)
  | chain (b : HeldBlock)
  deriving DecidableEq, Repr

/-- An output element ready to be written: where, its value before rounding, its unscaled conversion, and whether an event of
R45 has occurred to it before (R152). -/
structure OutV where
  home : Nat
  flat : Nat
  v : FV
  conv : Conv
  sat : Bool
  nan0 : Bool
  deriving DecidableEq, Repr

/-- Where parked state goes back to (R124, R148). -/
inductive ParkPlace where
  | carry0 | carry1 | cells | epilogue
  deriving DecidableEq, Repr

/-- State parked in the shelf (R124, R148): whose it is, where its bytes begin, and what goes beside the bytes. -/
structure Parked where
  place : ParkPlace
  block : BlockId
  /-- Where the bytes begin; none where the work area of the core has no room, and all is kept beside (notes/assumptions/16.md). -/
  addr : Option Nat
  /-- The flags of parked sums, their integers and values in the shelf; and those of held values. -/
  flags : List Acc
  held : Option Held
  deriving DecidableEq, Repr

/-- The partial of a query row: maximum, sum, weighted values, and the poisoned mark (R227). -/
structure AttPart where
  m : FV
  l : FV
  o : List FV
  bad : Bool
  deriving DecidableEq, Repr

/-- The array of a core: register sets, carries, epilogue buffer and parked state (R110, R115, R124, R131, R147). -/
structure MatArray where
  /-- The record whose chain the core runs (R147). -/
  owner : Option (Nat × Nat)
  /-- Which register set is the active one: set 1 or set 0 (R123). -/
  setOne : Bool
  active : Option RegSet
  shadow : Option RegSet
  /-- The carry loop: the sums of the open block of the first product, and of the second, on their way to the next k-chunk (R115). -/
  carry0 : Option (BlockId × List Acc)
  carry1 : Option (BlockId × List Acc)
  /-- The epilogue buffer. -/
  epilogue : List (BlockId × Held)
  /-- Running partials of an ATTEND record, of the rows of its query blocks: none before a row's first page (R228, R231). -/
  partials : List (BlockId × List (Option AttPart))
  /-- Sums of the splits of K that wait, at the core that forms the final sums, for those of the other splits (R54, R57, R133). -/
  parts : List (BlockId × List Acc)
  /-- Outputs that have left the epilogue for the output tensor, which shows them with the record's body (R14, R131, R150). -/
  outs : List (BlockId × List OutV)
  /-- State parked by a preemption, and the record it belongs to. -/
  parked : List Parked
  parkedOwner : Option (Nat × Nat)
  /-- Instructions of each record in flight that the array has completed: slot, record and number (R112). -/
  issued : List (Nat × Nat × Nat)
  deriving DecidableEq, Repr

/-- A partial result of a reduction: a value, or a count, a mean and an M2 (R179, R202). -/
structure Partial where
  count : Nat
  p : Word
  q : Word
  deriving DecidableEq, Repr

/-- The reductions of R179. -/
inductive Reduce where
  | sum | max | min | wel
  deriving DecidableEq, Repr

/-- A store of a lane, held until its work unit completes (R183): the slot, its mode, the flat index and the words. -/
structure LaneStore where
  slot : Nat
  mode : Nat
  flat : Nat
  lo : Word
  hi : Word
  deriving DecidableEq, Repr

/-- A lane: its registers and the work unit it runs (R169 to R171, R175, R183). A unit of a CONV record is a chunk of one row of
outputs of its split (notes/assumptions/15.md). -/
structure Lane where
  /-- v0 to v63. -/
  regs : Tab Word
  /-- A work unit is bound: its plan slot and record, row, pass, chunk, and the element that runs. -/
  busy : Bool
  slot : Nat
  record : Nat
  split : Nat
  row : Nat
  pass : Nat
  elem : Nat
  /-- The unit's last element has ended. -/
  ended : Bool
  /-- The word that goes with each XMAC triple, by the triple's first register: NaN, +∞ and −∞ (R175). -/
  flags : Tab (BitVec 3)
  /-- On the lane convolution path: the next position of K, the block scales delivered with its two operands, and the anchor of the
  output (R53, R175). -/
  kpos : Nat
  scaleA : Nat
  scaleB : Nat
  anchor : Int
  /-- The chunk's partial of each reduction of the pass, by destination row register (R179). -/
  partials : List (Nat × Reduce × Partial)
  stores : List LaneStore
  /-- Conversions of the unit that saturated, and NaN inputs delivered as integer 0 (R45). -/
  sats : Nat
  nans : Nat
  deriving DecidableEq, Repr

/-- A row of a lane-program record in progress (R170, R185): its pass, chunks dealt and completed in it, row registers and
the partials of completed chunks. -/
structure OpenRow where
  row : Nat
  pass : Nat
  dealt : Nat
  completed : List Nat
  vrow : Tab Word
  partials : List (Nat × Reduce × Nat × Partial)
  deriving DecidableEq, Repr

/-- A split of a lane-program record on a core (R169, R170, R185): its rows, the lowest row not yet started, and the rows
in progress, in ascending order. -/
structure LaneRun where
  slot : Nat
  record : Nat
  split : Nat
  nextRow : Nat
  lastRow : Nat
  rows : List OpenRow
  deriving DecidableEq, Repr

/-- A physical core (R26, R32, R268, R317, R375). -/
structure Core where
  wear : Nat
  health : Health
  array : MatArray
  /-- Records running on the core: slot and record. -/
  busy : List (Nat × Nat)
  /-- A LIVE record that preempted the array (R124). -/
  live : Option (Nat × Nat)
  probe : Bool
  /-- LANE records in progress on the core. -/
  laneRuns : List LaneRun
  /-- Its faults are permanent: it is sheeted once no work is in flight on it (R378). -/
  condemned : Bool
  /-- A fault has escaped local retry: nothing more runs on the core until the jobs on it have restarted (R131, R183, R380). -/
  escaped : Bool
  /-- The core has failed a retest: it is sheeted once no work is in flight on it (R378). -/
  failed : Bool
  /-- It ran a job whose landings the twins found unequal: nothing starts on it until it has been retested (R394). -/
  doubted : Bool
  deriving DecidableEq, Repr

/-- A rail of a domain (R25 to R31). -/
inductive Rail where
  | gated | vlo | vhi
  deriving DecidableEq, Repr

/-- A rail domain (R29). -/
structure RailState where
  rail : Rail
  /-- A move toward V_HI has been admitted to the ramp in progress (R30). -/
  ramping : Bool
  deriving DecidableEq, Repr

/-! ### Runs (10, 13, 14, 15, 19) -/

/-- An element that waits for the rest of its crate (R97): record, tensor, home, flat index and code. -/
structure CratePart where
  record : Nat
  tensor : Nat
  home : Nat
  flat : Nat
  code : Nat
  deriving DecidableEq, Repr

/-- A DATA_MALFORMED event as a reply reports it (R107, R296). -/
structure Malformed where
  detail : Nat
  record : Nat
  w0 : Nat
  w1 : Nat
  w2 : Nat
  deriving DecidableEq, Repr

/-- A pending period: its period sequence number and whether it is late (R310, R311). -/
structure Period where
  seq : Word
  late : Bool
  deriving DecidableEq, Repr

/-- A PAUSE that waits: its header, the records that were running when it arrived and have not yet completed or stopped,
and the run's restarts then (R294, R384). -/
structure PauseReq where
  hdr : Hdr
  left : List Nat
  restarts : Nat
  deriving DecidableEq, Repr

/-- A SAVE_CONTEXT in progress (R280). -/
structure SaveReq where
  hdr : Hdr
  addr : Dword
  capacity : Dword
  toDevice : Bool
  restarts : Nat
  deriving DecidableEq, Repr

/-- The landings of a run (R385, R386). -/
structure Landings where
  /-- Number of the next landing. -/
  next : Nat
  /-- A landing is due before the next step may start. -/
  due : Bool
  /-- The landing written to COPY0 and not yet confirmed, with its digest. -/
  waiting : Option (Nat × Dword)
  /-- Notices received: device, landing number and digest. -/
  notices : List (Nat × Nat × Dword)
  /-- The resume landing: its number and whether it is read from COPY1. -/
  resume : Option (Nat × Bool)
  /-- Table generation that the resume landing carries (R198, R199). -/
  resumeGen : Nat
  /-- The COPY1 copy of the resume landing is running. -/
  copying : Bool
  deriving DecidableEq, Repr

/-- A collective admitted to bins (R348): its record, the next chunk to take a bin on each hub, and for ATTEND with XDEV
the sums written so far (R235). -/
structure Admitted where
  record : Nat
  next0 : Nat
  next1 : Nat
  sums : List (Nat × Nat)
  deriving DecidableEq, Repr

/-- The schedule of a bound run (R312, R314): tier in force, on-time count, whether it is regained, and pending periods. -/
structure Schedule where
  tier : Nat
  onTime : Nat
  regained : Bool
  depth : Nat
  deriving DecidableEq, Repr

/-- A job: a run of a plan slot (R209, R269, R294, R310, R312, R382, R384). -/
structure Run where
  src : Option (Fin 8)
  hdr : Hdr
  /-- The run completes a RUN packet: an unbound run that a RUN started. -/
  answers : Bool
  seed : Dword
  gen : Nat
  /-- An unbound run, or a period of a bound run, is in progress. -/
  active : Bool
  step : Nat
  completed : List Nat
  /-- Records whose WAIT_HOOK acquire is queued. -/
  waiting : List Nat
  inFlight : List Nat
  /-- Records in flight whose body has been carried out. -/
  bodyDone : List Nat
  /-- Records whose hook acquire, and whose release, has been performed in this run or period (R382). -/
  acquired : List Nat
  released : List Nat
  paused : Bool
  pauses : List PauseReq
  saving : Option SaveReq
  /-- A per-function reset has stopped the run, which resumes with its restart (R303, R381). -/
  stopped : Option Half
  tier : Nat
  tierInForce : Nat
  onTime : Nat
  regained : Bool
  pending : List Period
  /-- Period sequence number of the period in progress. -/
  period : Word
  /-- The schedule that a pair has agreed for the period in progress (R314). -/
  agreed : Option Schedule
  /-- Restarts since RUN, and consecutive restarts from the same landing (R384, R389). -/
  restarts : Nat
  consecutive : Nat
  landings : Landings
  /-- DATA_MALFORMED events of its records (R107). -/
  reports : List Malformed
  /-- Collectives admitted and not released (R348). -/
  collectives : List Admitted
  /-- Records whose collective has released its admission in this run or period (R348, R350). -/
  summed : List Nat
  /-- Lane-program splits stopped or restored, not on a core at the moment (R184, R186). -/
  laneContexts : List LaneRun
  /-- Elements that lane units have stored to crates not yet whole (R97). -/
  crates : List CratePart
  /-- Ready records that wait: dispatches passed over, and classes promoted (R315). -/
  aged : List (Nat × Nat × Nat)
  /-- The host has touched bytes of the run in no order with it: the outputs of the run or period are undefined (R70). -/
  raced : Bool
  /-- Records in flight whose bytes another device or a codec engine has written: their outputs are undefined (R14, R70). -/
  unsettled : List Nat
  deriving DecidableEq, Repr

/-- A plan slot (R209, R256, R340). -/
structure Slot where
  plan : Option Plan
  seed : Dword
  advance : Dword
  /-- Runs started since LOAD_PLAN, counting periods (R340). -/
  epoch : Half
  /-- Plan-area offset of each home's shelf area (R260). -/
  shelfBase : List Nat
  run : Option Run
  /-- The key slot of the plan's sealed tensors, if it has any (R82). -/
  keySlot : Option Nat
  deriving DecidableEq, Repr

/-! ### Hooks and chutes (14_commands.md) -/

/-- What a completed command answers (R291). -/
structure Reply where
  status : Nat
  detail : Nat
  w0 : Nat
  w1 : Nat
  w2 : Nat
  late : Bool
  restarts : Nat
  deriving DecidableEq, Repr

/-- Who waits on a hook (R299). -/
inductive Waiter where
  /-- The WAIT_HOOK of the next packet of a chute. -/
  | packet (port : PortId) (chute : Fin 64) (amount : Word)
  /-- A HOOK_ACQUIRE command. -/
  | command (h : Hdr) (amount : Word)
  /-- The WAIT_HOOK of a packet that the twin partner forwarded, by its request (R392). -/
  | partner (id : Nat) (amount : Word)
  /-- The WAIT_HOOK of a plan record. -/
  | record (slot : SlotId) (rec : Nat)
  deriving DecidableEq, Repr

/-- One thing to do when commands complete and hooks are released, which may lead to more (R289, R299). -/
inductive Job where
  /-- A release on a hook; the ledger source of its records, and whether it is recorded when it does not overflow. -/
  | release (hook inc source : Nat) (recorded : Bool)
  /-- The waiters at the head of a hook's queue are served while the count covers them. -/
  | serve (hook : Nat)
  /-- The HOOK_RELEASED record of a release. -/
  | record (hook inc source : Nat)
  /-- A command completes. -/
  | complete (h : Hdr) (r : Reply)
  /-- Its reply is written, after the release of its hook. -/
  | reply (h : Hdr) (r : Reply)
  deriving DecidableEq, Repr

/-- A hook (R299). -/
structure Hook where
  count : Word
  waiters : List Waiter
  deriving DecidableEq, Repr

/-- A chute: its CHUTE_CFG entry (R405) and the device's side of its rings (R283 to R285). -/
structure Chute where
  ringBase : Dword
  log2N : BitVec 5
  log2Replies : BitVec 5
  cls : BitVec 2
  vector : BitVec 6
  replyBase : Dword
  enable : Bool
  cfgBad : Bool
  blocked : Bool
  stopped : Bool
  head : Word
  replyIndex : Word
  replyHead : Word
  tail : Word
  /-- Replies owed by packets started and not yet completed (R285). -/
  owed : Nat
  /-- The head packet's WAIT_HOOK acquire has been granted: hook and amount (R288, R300). -/
  granted : Option (Nat × Word)
  /-- Dispatches passed over, and classes promoted (R315). -/
  passes : Nat
  promoted : Nat
  /-- The device's copy of the head packet (R303, class 0x8). -/
  fetched : List Byte
  /-- Enablings so far: replies owed to packets of an earlier one are dropped (R303). -/
  epoch : Nat
  deriving DecidableEq, Repr

/-! ### Port registers (20_host_interface.md) -/

/-- The MGMT mailbox of a port (R411). -/
structure Mailbox where
  busy : Bool
  responseReady : Bool
  error : Bool
  respLength : BitVec 12
  reqLength : BitVec 12
  request : Tab Byte
  response : Tab Byte
  deriving DecidableEq, Repr

/-- An MSI-X message: its vector, and the address and data of its table entry (R412). -/
structure Interrupt where
  vector : Nat
  address : Dword
  data : Word
  deriving DecidableEq, Repr

/-- The registers that each port holds once, and the pins and configuration bits of the port. -/
structure Port where
  evtEnable : Bool
  evtVector : BitVec 6
  evtCause : BitVec 4
  winBase : BitVec 24
  winLength : BitVec 24
  winBad : Bool
  /-- The window in force: base and length (WIN_VALID). -/
  window : Option (Nat × Nat)
  bar2Log2 : Nat
  fid : Half
  resetBusy : Bool
  resetDone : Bool
  resetRejected : Bool
  ledgerSelect : Word
  counterSelect : Word
  mailbox : Mailbox
  flrActive : Bool
  dlUp : Bool
  flitMode : Bool
  width : BitVec 6
  speed : BitVec 4
  perst : Bool
  refclk : Bool
  d3hot : Bool
  busMaster : Bool
  relaxedOrdering : Bool
  /-- Max_Payload_Size and Max_Read_Request_Size as powers of two times 128 bytes, and the Completion Timeout range (R398, R417). -/
  maxPayload : Nat
  maxRead : Nat
  completionTimeout : Nat
  /-- MSI-X Enable and Function Mask; message address and data of each vector; mask and pending bits (R400, R412). -/
  msixEnable : Bool
  msixMaskAll : Bool
  msixTable : Tab (Dword × Word)
  msixMask : Dword
  msixPending : Dword
  /-- MSI-X messages sent, oldest first. -/
  interrupts : List Interrupt
  /-- AER mask, severity and status of the uncorrectable internal error; messages sent, whether each was fatal; errors raised (R75,
  R418). -/
  aerMasked : Bool
  aerFatal : Bool
  aerStatus : Bool
  aerMessages : List Bool
  aerErrors : Nat
  /-- Data that the last BAR2 read returned (R404). -/
  readData : List Byte
  deriving DecidableEq, Repr

/-- The shared STATUS fields (R403). -/
structure Status where
  ready : Bool
  resetting : Bool
  bootFallback : Bool
  cellarTestDone : Bool
  /-- The background cellar test has ended, whatever the register reads (R422). -/
  tested : Bool
  bgPatience : Half
  bulkPatience : Half
  deriving DecidableEq, Repr

/-- A per-function reset in progress (R298, R303): who started it or joined it. -/
structure Reset where
  fid : Half
  commands : List Hdr
  ports : List PortId
  deriving DecidableEq, Repr

/-! ### Memory (03_memory.md) -/

/-- The stored error of an ECC word (R74, R75). -/
inductive Ecc where
  | single
  /-- Uncorrectable; whether it has been met and counted. -/
  | double (counted : Bool)
  /-- A double-bit error that the retry clears. -/
  | transient
  deriving DecidableEq, Repr

/-- A sealed region (R79). -/
structure Region where
  base : Nat
  size : Nat
  rid : Dword
  key : Nat
  deriving DecidableEq, Repr

/-- A key slot (R79, R281, R428). -/
structure KeySlot where
  dataKey : List Byte
  tweakKey : List Byte
  keyId : Word
  policy : Word
  ownerHash : List Byte
  transferCtr : Dword
  contextCtr : Dword
  deriving DecidableEq, Repr

/-- The sweep's standing in a bank (R316). -/
inductive Standing where
  | reserved | escalated | forced
  deriving DecidableEq, Repr

/-- A memory bank (R76, R77, R316, R375). -/
structure Bank where
  /-- Next 96-byte slot of the regular pass. -/
  sweepSlot : Nat
  /-- Words queued for a corrected write-back, oldest first. -/
  writeBacks : List Nat
  /-- The copy to a spare: slots copied so far, and whether the background cellar test queued it. -/
  copy : Option (Nat × Bool)
  standing : Standing
  inPlace : Bool
  health : Health
  deriving DecidableEq, Repr

/-- A tile's inventory and rotation state (R15, R32, R266, R376, R379). -/
structure Tile where
  sheeted : BitVec 13
  spare : Option (Fin 13)
  /-- The core serving each of the 12 positions, as a function instance of any tile (R266). -/
  positions : List (Option Nat)
  bankSpares : List Nat
  inPlace : List Nat
  edgeSpare : List Nat
  rotationDue : Bool
  /-- The exchange in progress: outgoing and incoming core. -/
  exchange : Option (Fin 13 × Fin 13)
  deriving DecidableEq, Repr

/-- A hub's SRAM banks: spares left and banks sheeted in place (R376, R379). -/
structure HubInv where
  spares : Nat
  inPlace : Nat
  deriving DecidableEq, Repr

/-- A FILL_MEM of a whole shelf slot whose epilogue part waits for the core (R84). -/
structure SlotFill where
  hdr : Hdr
  core : Nat
  pattern : Dword
  deriving DecidableEq, Repr

/-! ### Links (16_links.md) -/

/-- States of a link port (R334). -/
inductive LinkState where
  | disabled | training | verify | up | down
  deriving DecidableEq, Repr

/-- A message handed to the links (R328). -/
inductive Sent where
  /-- WRITE 0x01, READ 0x02, DATA 0x03 or ACK 0x04, on VC0. -/
  | mem (kind : Nat) (m : Msg)
  /-- SUM on VC1, or DWAIT on VC2. -/
  | sum (m : SumMsg)
  /-- DOMAIN identity on VC3 of a port (R337). -/
  | domain (port : Nat)
  /-- TWIN on VC3: kind, value, whether more of the body follows, and its bytes (notes/assumptions/17.md). -/
  | twin (kind value : Nat) (more : Bool) (body : List Byte)
  /-- Restart notice to a member (R352). -/
  | restart (src dst slot : Nat)
  /-- The end of a job DEVICE_DEGRADED, by its case, to a member (R389). -/
  | ended (src dst slot case : Nat)
  /-- Landing confirmation to a member, or a twin's digest (R386, R394). -/
  | landing (src dst slot number : Nat) (digest : Dword)
  deriving DecidableEq, Repr

/-- A message on its way: its class, and the port by which it came where another device sent it (R326, R332). -/
structure Routed where
  cls : Nat
  came : Option Nat
  msg : Sent
  deriving DecidableEq, Repr

/-- A message that waits to go out of a port (R321, R325, R326): its VC, its rank there (a lower one goes first), whether it goes into
the upper half of a ring's buffers (R327), whether some of its bytes are in flits already, the message itself, and the bytes that are left. -/
structure LinkMsg where
  vc : Nat
  rank : Nat
  upper : Bool
  begun : Bool
  msg : Routed
  bytes : List Byte
  deriving DecidableEq, Repr

/-- A data flit in the replay buffer (R322), and the messages of its body. -/
structure Unacked where
  seq : Half
  vc : Nat
  body : List Byte
  msgs : List Routed
  deriving DecidableEq, Repr

/-- The body of a data flit in a receive buffer: its VC, whether it lies in the upper half of a ring's buffer, and its SEQ (R322, R325,
R327). -/
structure RxBody where
  vc : Nat
  upper : Bool
  seq : Half
  body : List Byte
  deriving DecidableEq, Repr

/-- A link port (R319 to R335). -/
structure Link where
  state : LinkState
  enable : Bool
  laneMask : Byte
  minLanes : Nat
  retune : Bool
  loopback : Bool
  retired : Byte
  sheeted : Bool
  /-- Next transmit SEQ and next SEQ expected. -/
  txSeq : Half
  rxSeq : Half
  /-- Data flits sent and not acknowledged, oldest first (R322). -/
  replay : List Unacked
  /-- Flits transmitted and received, replays included (R320). -/
  txCount : Nat
  rxCount : Nat
  /-- Flits handed to the transmitter, oldest first. -/
  sent : List (List Byte)
  nak : Bool
  /-- Flits have been asked for again and the next one expected has not been accepted (R322). -/
  resent : Bool
  ackValid : Bool
  /-- Credits held for each VC, and credits to return (R325). -/
  credits : List Nat
  owedCredits : List Nat
  /-- VC and half of each flit whose credit has not come back, oldest first (R325, R327). -/
  lent : List (Nat × Bool)
  /-- Messages that wait for a slot, a credit or replay space, oldest first (R322, R325). -/
  waiting : List LinkMsg
  /-- Receive buffers: the bodies that no block has taken yet, oldest first (R325). -/
  rx : List RxBody
  /-- Link control bodies that wait; and those sent, each with the SEQ of the next data flit, until that flit is acknowledged (R322,
  R323). -/
  control : List (List Byte)
  controlSent : List (List Byte × Half)
  /-- Retired lanes that still carry flits: from slot count t0 of each direction on they carry none (R323). -/
  leaving : List (Nat × Nat)
  /-- Slots since the last control flit, at most 16, and those that VC0 and VC1 have been passed over (R326). -/
  controlGap : Nat
  shares : List Nat
  /-- With LOOPBACK set: flits sent and not yet returned (R335). -/
  looped : List (List Byte)
  laneHealth : Tab Health
  /-- Flits and corrected symbols of each lane since its last retune (R324). -/
  sinceRetune : Tab Nat
  corrected : Tab Nat
  /-- Lanes with a fault since their last retune, and lanes whose retest after a fault is awaited (R323, R324). -/
  faulted : List Nat
  testing : List Nat
  retuning : Option (Fin 8)
  /-- The peer's identity message has been checked against the domain or twin (R334). -/
  identityOk : Option Bool
  retrainFailed : Bool
  deriving DecidableEq, Repr

/-- Domain membership (R336). -/
structure Domain where
  id : Dword
  groups : Nat
  members : Nat
  myGroup : Nat
  myPosition : Nat
  devices : List Nat
  deriving DecidableEq, Repr

/-- A packet that both twins run: its header on the twin that received it, and each twin's reply (R394). -/
structure Forwarded where
  hdr : Hdr
  order : Dword
  own : Option Reply
  partner : Option Reply
  deriving DecidableEq, Repr

/-- What an order number names on twin B (R392, R393): a packet with the hook amount it acquires, or a register write. -/
inductive TwinWork where
  | packet (i : Instr) (hook : Option (Nat × Word))
  /-- Bytes written to device memory through BAR2. -/
  | mem (a : Nat) (data : List Byte)
  /-- A release, by a write through a port of the twin that received it. -/
  | hook (k inc : Nat) (port : PortId)
  | reset (fid : Half)
  /-- A mark that both twins have seen (R314). -/
  | mark (src : Nat)
  /-- A twin's tier of a slot: whether twin B's (R314). -/
  | tier (b : Bool) (slot tier : Nat)
  /-- A period start of a slot, and its schedule (R314). -/
  | start (slot : Nat) (v : Schedule)
  /-- The HOOK_ACQUIRE of an order number ends unserved: its chute has been reset (R300). -/
  | unwait (order : Dword)
  deriving DecidableEq, Repr

/-- Where the acquire of a forwarded packet's hook stands (R392). -/
inductive Asked where
  | idle | queued | granted
  deriving DecidableEq, Repr

/-- A packet that the partner forwarded (R392). -/
structure TwinRequest where
  id : Nat
  packet : List Byte
  data : List Byte
  hook : Asked
  /-- Dispatches passed over while it is startable, and classes promoted (R315). -/
  passes : Nat
  promoted : Nat
  deriving DecidableEq, Repr

/-- An own packet that has been forwarded and has no order number yet (R392). -/
structure Asking where
  id : Nat
  hdr : Hdr
  packet : List Byte
  deriving DecidableEq, Repr

/-- The twin state (R391 to R397). -/
structure Twin where
  bound : Bool
  /-- TWIN_MODE: true is twin B. -/
  mode : Bool
  steppedOut : Bool
  /-- A TWIN_BIND that waits: its header and mode. -/
  binding : Option (Hdr × Bool)
  /-- What has come of a body that more messages follow (R328). -/
  part : List Byte
  /-- Mode that the partner's TWIN_BIND named. -/
  partnerBind : Option Bool
  /-- Next order number to give (twin A) or to start (twin B). -/
  order : Dword
  linkLost : Bool
  /-- The partner has stepped out: this twin is the sole device of the pair. -/
  partnerOut : Bool
  /-- Own packets that both twins run and that are not yet replied to. -/
  forwarded : List Forwarded
  /-- Twin B: forwarded packets and register writes by order number, not yet started. -/
  waiting : List (Dword × TwinWork)
  /-- Twin A or the survivor: packets that the partner forwarded, oldest first. -/
  requests : List TwinRequest
  /-- Own packets forwarded and not yet numbered, oldest first. -/
  asked : List Asking
  /-- Host data carried with a packet of the partner: order number, host address, bytes. -/
  carried : List (Dword × Nat × List Byte)
  /-- Kinds of register writes that a stepped-out twin has discarded (R393). -/
  discarded : List Nat
  /-- The tier of each slot that the partner last reported (R314). -/
  partnerTiers : List (Nat × Nat)
  /-- Marks that have no place in the order yet: source, and whether this twin is the one that has seen it. -/
  marksSeen : List (Nat × Bool)
  /-- Twin B: agreed period starts that wait for this twin's run, with their tiers (R314). -/
  starts : List (Nat × Schedule)
  /-- Own register writes that wait for their place in the order: port, order number once it is given, and the write (R393). -/
  writes : List (PortId × Option Dword × TwinWork)
  /-- A TWIN_RELEASE at its place in the order: its header, and whether this twin's runs refuse it; and what the partner says (R397). -/
  releasing : Option (Hdr × Bool)
  partnerBusy : Option Bool
  deriving DecidableEq, Repr

/-- What a remote access belongs to (R329, R330). -/
inductive XferOwner where
  | command (i : Instr)
  | record (slot : SlotId) (rec : Nat)
  deriving DecidableEq, Repr

/-- A remote access, until every access of its owner is answered (R329, R330). -/
structure Xfer where
  xid : Dword
  owner : XferOwner
  device : Nat
  isRead : Bool
  /-- Local address at the other device, and length. -/
  addr : Nat
  length : Nat
  /-- Bytes that DATA messages have brought so far, each by its address (R328, R329). -/
  parts : List (Nat × List Byte)
  done : Bool
  /-- Refused, and whether for sealing (R330). -/
  refused : Option Bool
  /-- How often the sealed message, and its sealed answer, have failed their tag (R329). -/
  tagFails : Nat
  dataFails : Nat
  /-- Key slot that seals it, and key slots that a sealed read has left to try (R85, R86). -/
  key : Option Nat
  tries : List Nat
  /-- Local bytes that a write takes to the other device, for its resending. -/
  sent : List Byte
  deriving DecidableEq, Repr

/-! ### Collectives (17_collectives.md) -/

/-- A chunk holding a bin, or a dumbwaiter sum holding a slot (R345 to R349, R354). -/
structure ChunkState where
  id : Dword
  slot : Nat
  record : Nat
  chunk : Nat
  /-- Exponent words merged, and integers added, so far. -/
  exps : List Word
  ints : List (BitVec 128)
  /-- Those of other groups, on the dumbwaiter. -/
  ringExps : List Word
  ringInts : List (BitVec 128)
  /-- What has been merged: kind, device and first element. -/
  got : List (SumKind × Nat × Nat)
  /-- What has gone out: kind and device. -/
  sent : List (SumKind × Nat)
  /-- ID of the key under which sealed messages of the chunk have come (R353). -/
  key : Option Word
  /-- What goes wrong in the additions of level 1 (R351). -/
  fault : LaneFault
  /-- Level 1 of the value pass is over: this device's own integers are added. -/
  own : Bool
  agreed : Bool
  total : Bool
  deriving DecidableEq, Repr

/-- A grant received (R349). -/
structure Grant where
  id : Dword
  chunk : Nat
  src : Nat
  n : Word
  setCrc : Word
  deriving DecidableEq, Repr

/-- A collective engine (R345 to R351): its chunks, dumbwaiter slots held, grants, peers it never sends to, and its 68 adder lanes. -/
structure Coll where
  chunks : List ChunkState
  /-- Collectives that hold a dumbwaiter slot of this hub (R348, R354). -/
  dumbwaiters : List Dword
  grants : List Grant
  /-- Collective and peer of a grant that differed (R341). -/
  barred : List (Dword × Nat)
  /-- Messages whose tag has failed: collective, chunk, kind, device and first element, once for each time (R329). -/
  badTags : List (Dword × Nat × SumKind × Nat × Nat)
  /-- Chunk addition steps, and each lane's step counts at its last two faults (R375). -/
  steps : Nat
  laneFaults : Tab (List Nat)
  retired : BitVec 68
  sheeted : Bool
  deriving DecidableEq, Repr

/-! ### Codec (18_codec.md) -/

/-- Tags of a rack buffer (R358). -/
structure Tags where
  short : Bool
  long : BitVec 8
  out : Bool
  hold : Bool
  /-- The buffer holds a reconstruction or a decoded picture. -/
  filled : Bool
  deriving DecidableEq, Repr

/-- A stream descriptor (R360). -/
structure StreamDesc where
  dir : Nat
  codec : Nat
  profile : Nat
  level : Nat
  chroma : Nat
  bitDepth : Nat
  width : Nat
  height : Nat
  cls : Nat
  markSrc : Nat
  targetDepth : Nat
  hub : Nat
  rateKpix : Nat
  rateMode : Nat
  sliceRows : Nat
  bframes : Nat
  refs : Nat
  bpf : Nat
  cap : Nat
  vbv : Nat
  qpInit : Int
  qpMin : Int
  qpMax : Int
  gop : Nat
  buffers : Nat
  signal : Nat
  rackBase : Nat
  ringBase : Nat
  ringSize : Nat
  producer : Nat
  colour : Nat
  timing : Nat
  deriving DecidableEq, Repr

/-- A submitted frame or bitstream (R363, R364). -/
structure Submit where
  hdr : Hdr
  flags : Nat
  ltSlot : Nat
  planes : List Nat
  pitches : List Nat
  source : Nat
  length : Nat
  pts : Dword
  frame : Word
  late : Bool
  /-- The frame's own mark, once it has arrived, and whether a further mark of the stream's source has (R369). -/
  mark : Option Word
  passed : Bool
  deriving DecidableEq, Repr

/-- The frame in flight of a stream: a frame that is encoded, or a submit whose pictures are decoded (R364, R368, R370). -/
structure Frame where
  sub : Submit
  tier : Nat
  key : Bool
  /-- The rack buffer of the reconstruction or of the picture in decoding. -/
  buffer : Nat
  /-- A picture is being coded or decoded; the next block row. -/
  coding : Bool
  row : Nat
  qp : Int
  target : Int
  /-- Bits of the rows coded so far. -/
  rowBits : List Nat
  /-- Units formed so far, records of them written, and payload bytes of those written. -/
  units : Nat
  emitted : Nat
  bytes : Nat
  /-- Decode: pictures of the data still to decode, pictures decoded, units skipped, and the offset of a bitstream error. -/
  left : Nat
  decoded : Nat
  skipped : Nat
  bad : Option Nat
  deriving DecidableEq, Repr

/-- A decoded picture that is held for output order (R364): its rack buffer, PTS and period, the number of its submit, and whether the
submit is late (R369), and its place in output order, which the bitstream gives. -/
structure Picture where
  buffer : Nat
  order : Nat
  pts : Dword
  period : Word
  submit : Word
  late : Bool
  deriving DecidableEq, Repr

/-- A record that waits for room in the output ring (R366); `submit` is the number of the submit that carried the frame. -/
structure OutRec where
  submit : Word
  frame : Word
  unit : Nat
  flags : Nat
  tier : Nat
  payload : List Byte
  pts : Dword
  buffer : Nat
  period : Word
  deriving DecidableEq, Repr

/-- Rate parameters: BPF, CAP, VBV_BITS, QP_MIN, QP_MAX (R371). -/
structure RateSet where
  bpf : Nat
  cap : Nat
  vbv : Nat
  qpMin : Int
  qpMax : Int
  deriving DecidableEq, Repr

/-- A codec stream (R360 to R373). -/
structure Stream where
  opened : Bool
  gen : BitVec 24
  port : PortId
  desc : StreamDesc
  engine : Option EngineId
  queue : List Submit
  frame : Option Frame
  /-- Tags of the stream's rack buffers, and those with SHORT, oldest first (R358). -/
  buffers : Tab Tags
  refs : List Nat
  /-- Records that wait for room in the output ring (R366). -/
  out : List OutRec
  produced : Dword
  consumed : Dword
  debtF : Int
  qpF : Int
  wK : List Nat
  wI : List Nat
  forceKey : Bool
  nextFrame : Word
  nextPicture : Word
  /-- Frames started since the last key frame. -/
  sinceKey : Nat
  /-- Frames at the head of the queue that the frame coded before them has overtaken (R360, R363). -/
  overtaken : Nat
  /-- The decoder skips units up to the next random access point, and whether the parameters in force lie within the table and the
  descriptor (R355, R364, R372). -/
  skipping : Bool
  params : Bool
  tier : Nat
  onTime : Nat
  regained : Bool
  /-- A REBIND to take effect at the next mark. -/
  rebind : Option (Nat × Nat)
  /-- Pictures decoded and held for output order. -/
  held : List Picture
  /-- What the descriptor, and all that the stream has been given since its last key frame, decide of its bits (R21, R368). -/
  coderBase : Nat
  coder : Nat
  /-- Rate parameters from the next frame that starts (R368). -/
  newRate : Option RateSet
  /-- A STREAM_CLOSE that waits for the frame in flight (R362). -/
  closing : Option Hdr
  /-- Dispatches passed over, and whether its row is promoted (R315). -/
  passes : Nat
  promoted : Bool
  deriving DecidableEq, Repr

/-- A codec engine (R361, R375). -/
structure Engine where
  sheeted : Bool
  health : Health
  /-- Streams whose next block row is ready, in the order in which it became so (R306, R371). -/
  ready : List Nat
  deriving DecidableEq, Repr

/-! ### Telemetry and power (19, 21, 22, 23) -/

/-- A ledger record (R432). -/
structure LedgerRec where
  seq : Word
  event : Half
  source : Half
  data : List Byte
  deriving DecidableEq, Repr

/-- A counter (R438, R439). -/
structure Counter where
  value : Nat
  sat : Bool
  deriving DecidableEq, Repr

/-- A sensor entry (R441). -/
structure Sensor where
  reading : Word
  sample : Half
  deriving DecidableEq, Repr

/-- The on-module flash and the fuses (R281, R378, R424). -/
structure Flash where
  bankA : List Byte
  bankB : List Byte
  /-- Preferred bank: true is B. -/
  preferB : Bool
  writeCount : Nat
  startCount : Word
  minSvn : Nat
  /-- Sheeted at shipment, and since (R379). -/
  sheetedShipped : Nat
  sheetedInService : Nat
  deriving DecidableEq, Repr

/-- The running firmware (R402, R421, R427). -/
structure Firmware where
  /-- Running bank: true is B. -/
  bankB : Bool
  version : Word
  recovery : Bool
  digest : List Byte
  deriving DecidableEq, Repr

/-- A firmware staging session (R425). -/
structure Stage where
  port : PortId
  bytes : List Byte
  deriving DecidableEq, Repr

/-- The module's power, pins and thermal latch (R443 to R449). -/
structure Power where
  /-- Every rail is in regulation: PWR_GOOD. -/
  rails : Bool
  pwrEn : Bool
  /-- The 48 V input lies in range. -/
  inputOk : Bool
  /-- FAULT_N is low. -/
  fault : Bool
  /-- PWR_EN must go low before power comes up again (R446). -/
  needLow : Bool
  /-- THERM_TRIP_N is low. -/
  tripped : Bool
  /-- A boot failure holds READY at 0 until power is cycled (R421). -/
  bootFailed : Bool
  /-- TWIN_SENSE reads high. -/
  twinSense : Bool
  /-- MGMT_ALERT_N is low. -/
  alert : Bool
  /-- Sensors that read 110 °C or more at their last sample. -/
  hot : List Nat
  /-- A thermal trip ended the last time with power (R449). -/
  afterTrip : Bool
  deriving DecidableEq, Repr

/-- The stewards' MCTP service (R411, R448). -/
structure Mgmt where
  /-- Messages in arrival order; none names the SMBus path. -/
  queue : List (Option PortId × List Byte)
  pldmEvents : List (Nat × Nat)
  responses : List (List Byte)
  deriving DecidableEq, Repr

/-- The table sets (R195 to R199). -/
structure Tables where
  generation : Nat
  active : TableSet
  /-- The other bank: the set of the previous generation while a switch is pending. -/
  old : Option TableSet
  /-- The set being written, before the generation advances. -/
  writing : Option TableSet
  /-- The command whose switch has not completed. -/
  command : Option Hdr
  deriving DecidableEq, Repr

end Sys2Proof.Machine
end

