-- ==== Sys2Proof/Machine/Functions.lean ====
section
/-! DEFINITION. Sys2Proof/Machine/Functions.lean: the special-function unit (R187 to R200, R450). Table nodes are computed
from their rules: an exact rational or algebraic value, or a series summed to 2^-640 (notes/assumptions/14.md). -/
namespace Sys2Proof.Machine

/-! ### Real values to 640 binary places -/

/-- Working places. -/
def fixP : Nat := 640
def fixOne : Int := 2 ^ fixP
/-- Product and quotient of fixed-point numbers. -/
def fixMul (a b : Int) : Int := a * b / fixOne
def fixDiv (a b : Int) : Int := a * fixOne / b

/-- Sum of a series: `n` terms, each made from the last by `f`, the k-th weighted by 1 / w k. -/
def fixSeries (f : Nat → Int → Int) (w : Nat → Int) (n : Nat) (t0 : Int) : Int :=
  ((List.range n).foldl (fun (st : Int × Int) k => (st.1 + st.2 / w k, f k st.2)) (0, t0)).1

/-- 2 × artanh(z) for a small fixed-point z. -/
def fixAtanh2 (z : Int) : Int := 2 * fixSeries (fun _ t => fixMul t (fixMul z z)) (fun k => 2 * Int.ofNat k + 1) 420 z
/-- ln 2 = 2 artanh(1/3). -/
def fixLn2 : Int := fixAtanh2 (fixOne / 3)
/-- Natural logarithm of num / den between 1/2 and 2. -/
def fixLn (num den : Int) : Int := fixAtanh2 ((num - den) * fixOne / (num + den))
/-- e^x by its series after halving x eight times. -/
def fixExp (x : Int) : Int :=
  let n := x / fixLn2
  let r := (x - n * fixLn2) / 256
  let y := fixSeries (fun k t => fixMul t r / (Int.ofNat k + 1)) (fun _ => 1) 80 fixOne
  let z := (List.range 8).foldl (fun v _ => fixMul v v) y
  if 0 ≤ n then z * 2 ^ n.toNat else z / 2 ^ (-n).toNat
/-- arctan(1/m). -/
def fixAtanInv (m : Int) : Int :=
  fixSeries (fun _ t => -(t / (m * m))) (fun k => 2 * Int.ofNat k + 1) 480 (fixOne / m)
/-- π by Machin's formula. -/
def fixPi : Int := 4 * (4 * fixAtanInv 5 - fixAtanInv 239)
/-- sin and cos of a fixed-point angle in radians. -/
def fixSin (x : Int) : Int :=
  fixSeries (fun k t => -(fixMul (fixMul t x) x / ((2 * Int.ofNat k + 2) * (2 * Int.ofNat k + 3)))) (fun _ => 1) 120 x
def fixCos (x : Int) : Int :=
  fixSeries (fun k t => -(fixMul (fixMul t x) x / ((2 * Int.ofNat k + 1) * (2 * Int.ofNat k + 2)))) (fun _ => 1) 120 fixOne

/-- floor of a square root by bisection over `n` bits. -/
def natSqrt (n v : Nat) : Nat :=
  (List.range n).foldl (fun a i => let c := a + 2 ^ (n - 1 - i); if c * c ≤ v then c else a) 0
/-- Square root of a fixed-point number. -/
def fixSqrt (x : Int) : Int := Int.ofNat (natSqrt 700 (x * fixOne).toNat)

/-- Σ x^(2n+1) / (2n+1)!!, which is e^(x²/2) √(2π) (Φ(x) − 1/2). -/
def fixOdd (x : Int) : Int :=
  fixSeries (fun k t => fixMul (fixMul t x) x / (2 * Int.ofNat k + 3)) (fun _ => 1) 1400 x
/-- Φ(−x) for 0 ≤ x ≤ 8. -/
def fixTail (x : Int) : Int :=
  fixOne / 2 - fixDiv (fixSeries (fun k t => -(fixMul (fixMul t x) x / (2 * (Int.ofNat k + 1))))
    (fun k => 2 * Int.ofNat k + 1) 260 x) (fixSqrt (2 * fixPi))
/-- −Φ^-1(u) for 0 < u < 1/2, by bisection to 2^-120. -/
def fixIcdf (u : Int) : Int :=
  (List.range 123).foldl (fun a i =>
    let c := a + 2 ^ (fixP + 2 - i)
    if u ≤ fixTail c then c else a) 0

/-- The FP32 value nearest to a fixed-point number, and its truncation to BF16. -/
def fixToF32 (x : Int) : FV := decode .fp32 (convQ .fp32 .rne 0 false (decide (x < 0)) x.natAbs 1 (-(Int.ofNat fixP))).code
def fixToBf16Down (x : Int) : FV := decode .bf16 (convQ .bf16 .rtz 0 false (decide (x < 0)) x.natAbs 1 (-(Int.ofNat fixP))).code

/-! ### Interpolants (R190, R191, R200) -/

/-- The interpolants of R191, in its order. -/
inductive Interp where
  | exp2t | log2t | recipt | rsqrtt | sqrtt | sigt | tanht | erft | sprt | gtailt | sinqt | cosqt | icdft
  deriving DecidableEq, Repr

/-- Position of an interpolant's first node in a table image (R196). -/
def Interp.first : Interp → Nat
  | .exp2t => 0 | .log2t => 33 | .recipt => 66 | .rsqrtt => 99 | .sqrtt => 132 | .sigt => 165 | .tanht => 230
  | .erft => 295 | .sprt => 360 | .gtailt => 425 | .sinqt => 490 | .cosqt => 555 | .icdft => 620

/-- Unit of node positions: 2^-40. -/
def nodeUnit : Nat := 2 ^ 40

/-- Parts of an interval: start, segment width and segments, in units of 2^-40; `k` is 1, or 2 for C12's halved count. -/
def Interp.parts (k : Nat) : Interp → List (Nat × Nat × Nat)
  | .exp2t => [(0, k * nodeUnit / 32, 32 / k)]
  | .log2t => [(nodeUnit * 3 / 4, k * nodeUnit / 64, 16 / k), (nodeUnit, k * nodeUnit / 32, 16 / k)]
  | .recipt => [(nodeUnit, k * nodeUnit / 32, 32 / k)]
  | .rsqrtt | .sqrtt => [(nodeUnit, k * nodeUnit / 16, 16 / k), (2 * nodeUnit, k * nodeUnit / 8, 16 / k)]
  | .sinqt | .cosqt => [(0, (if k = 1 then 1 else 4) * nodeUnit / 256, if k = 1 then 64 else 16)]
  | .icdft => (List.range 32).map (fun i => (2 ^ (7 + i), 2 ^ (4 + i), 8))
  | _ => (List.range 8).map (fun i => (2 ^ (36 + i), (if k = 1 then 1 else 4) * 2 ^ (33 + i), if k = 1 then 8 else 2))

/-- Position of node `j` in units of 2^-40. -/
def nodeAt : List (Nat × Nat × Nat) → Nat → Nat
  | [], _ => 0
  | (a, w, n) :: ps, j => if j < n ∨ ps.isEmpty = true then a + j * w else nodeAt ps (j - n)

/-- The exact value g(x) of a node (R191) to 640 places. -/
def Interp.value (i : Interp) (x : Nat) : Int :=
  let fx : Int := Int.ofNat x * 2 ^ (fixP - 40)
  match i with
  | .exp2t => if x = 0 then fixOne else if x = nodeUnit then 2 * fixOne else fixExp (fixMul fx fixLn2)
  | .log2t => if x = nodeUnit then fixDiv fixOne fixLn2
      else fixDiv (fixDiv (fixLn (Int.ofNat x) (Int.ofNat nodeUnit)) fixLn2) (fx - fixOne)
  | .recipt => fixOne * Int.ofNat nodeUnit / Int.ofNat x
  | .rsqrtt => Int.ofNat (natSqrt 700 ((fixOne * fixOne * Int.ofNat nodeUnit / Int.ofNat x).toNat))
  | .sqrtt => fixSqrt fx
  | .sigt => fixDiv fixOne (fixOne + fixExp (-fx))
  | .tanht => let e := fixExp (2 * fx); fixDiv (e - fixOne) (e + fixOne)
  | .erft => fixMul (fixMul (fixOdd (fixMul fx (fixSqrt (2 * fixOne)))) (fixExp (-(fixMul fx fx))))
      (2 * fixDiv fixOne (fixSqrt (2 * fixPi)))
  | .sprt => let v := fixExp (-fx); fixDiv (fixAtanh2 (fixDiv v (2 * fixOne + v))) v
  | .gtailt => fixExp (fixMul fx fx / 2) / 2 - fixDiv (fixOdd fx) (fixSqrt (2 * fixPi))
  | .sinqt => if x = 0 then 0 else if 4 * x = nodeUnit then fixOne else fixSin (2 * fixMul fixPi fx)
  | .cosqt => if x = 0 then fixOne else if 4 * x = nodeUnit then 0 else fixCos (2 * fixMul fixPi fx)
  | .icdft => if 2 * x = nodeUnit then 0 else fixIcdf fx

/-- Whether the C12 set has its own nodes for an interpolant (R200). -/
def Interp.inC12 : Interp → Bool
  | .exp2t | .log2t | .recipt | .rsqrtt | .sqrtt | .sigt | .tanht | .sinqt | .cosqt => true
  | _ => false

/-- Width factor of a set's segments. -/
def setFactor (set : TableSet) (i : Interp) : Nat :=
  match set with
  | .c12 => if i.inC12 then 2 else 1
  | _ => 1

/-- Value of node `j` in a set (R191, R196, R200). -/
def nodeValue (set : TableSet) (i : Interp) (j : Nat) : FV :=
  match set with
  | .loaded _ nodes => f32Val (nodes.getD (i.first + j) 0)
  | .standard => fixToF32 (i.value (nodeAt (i.parts 1) j))
  | .c12 => if i.inC12 then fixToBf16Down (i.value (nodeAt (i.parts 2) j)) else fixToF32 (i.value (nodeAt (i.parts 1) j))

/-- Segment of a reduced argument, given as the number of whole 2^-40 units in it.
DEDUCED (notes/assumptions/51.md): an argument that rounding (R201) takes to the end of the interval, where R190 gives no segment, has
the value of the last node. -/
def segmentOf : List (Nat × Nat × Nat) → Nat → Nat
  | [], _ => 0
  | (a, w, n) :: ps, u => if u < a + w * n ∨ ps.isEmpty = true then (u - a) / w else n + segmentOf ps u

/-- Interpolation (R190): d = r24(y' − y), p = r24(y + t × d). -/
def interp (set : TableSet) (i : Interp) (u : FV) : FV :=
  match u with
  | .fin _ m e =>
    let ps := i.parts (setFactor set i)
    let j := segmentOf ps (shiftTo m e (-40))
    let x0 := nodeAt ps j
    let w := nodeAt ps (j + 1) - x0
    let t := (u.sub (.fin false x0 (-40))).scale (40 - Int.ofNat (Nat.log2 w))
    let y0 := nodeValue set i j
    let d := r24 ((nodeValue set i (j + 1)).sub y0)
    r24 (y0.add (t.mul d))
  | _ => .nan

/-! ### Constants and functions (R192, R193) -/

def cL2E : FV := fixToF32 (fixDiv fixOne fixLn2)
def cH : FV := fixToF32 (fixDiv fixOne fixLn2 / 2)
def cCT : FV := fixToF32 (-(fixOne / 3))
def cK1 : FV := fixToF32 (2 * fixSqrt (fixDiv (2 * fixOne) fixPi))
def cK3 : FV := fixToF32 (8943 * fixSqrt (fixDiv (2 * fixOne) fixPi) / 100000)
def cB1 : FV := fixToF32 (fixDiv fixOne (fixSqrt (2 * fixPi)))
def cCL : FV := fixToF32 fixLn2
def cA1 : FV := fixToF32 (2 * fixDiv fixOne (fixSqrt fixPi))
def cA3 : FV := fixToF32 (-(2 * fixDiv fixOne (3 * fixSqrt fixPi)))

/-- Dyadic constants. -/
def fvQ (k e : Int) : FV := .fin (decide (k < 0)) k.natAbs e

/-- r24 of a + b × c (R189). -/
def fma24 (a b c : FV) : FV := r24 (a.add (b.mul c))

/-- E(z) = 2^n × EXP2T(z − n) (R192). An exponent beyond ±4,096 is held at ±4,096: no format, and no product with an FP32
value, tells the two apart. -/
def expE (set : TableSet) (z : FV) : FV :=
  match z with
  | .nan => .nan
  | .inf true => FV.zero
  | .inf false => .inf false
  | .fin .. =>
    let n := z.floor
    (interp set .exp2t (z.sub (FV.ofInt n))).scale (max (-4096) (min 4096 n))

/-- |x| < 2^-4. -/
def isSmall (x : FV) : Bool := x.abs.lt (fvQ 1 (-4))
/-- 16 ≤ x. -/
def isBig (x : FV) : Bool := !(x.lt (fvQ 16 0))

/-- σ⁺(u) (R192). -/
def sigPlus (set : TableSet) (u : FV) : FV := if isBig u then FV.one else interp set .sigt u

/-- σ(x) of a finite x (R192). -/
def sigma (set : TableSet) (x : FV) : FV :=
  if isSmall x then fma24 (fvQ 1 (-1)) (fvQ 1 (-2)) x
  else if x.sign then r24 ((expE set (r24 (x.mul cL2E))).mul (sigPlus set x.neg))
  else sigPlus set x

/-- The normal tail E(z) × GTAILT(u), z = r24(−H × r24(x × x)) (R192). -/
def gaussTail (set : TableSet) (x : FV) : FV :=
  r24 ((expE set (r24 (cH.neg.mul (r24 (x.mul x))))).mul (interp set .gtailt x.abs))

/-- Softplus at x ≤ −2^-4 (R192). -/
def softNeg (set : TableSet) (x : FV) : FV :=
  let e := expE set (r24 (x.mul cL2E))
  if isBig x.abs then e else r24 (e.mul (interp set .sprt x.abs))

/-- sin or cos from a quarter turn and the argument within it (R192). -/
def quarter (set : TableSet) (cosine : Bool) (q : Nat) (u : FV) : FV :=
  let s := interp set .sinqt u
  let c := interp set .cosqt u
  let v := match (if cosine then q + 1 else q) % 4 with
    | 0 => s
    | 1 => c
    | 2 => s.neg
    | _ => c.neg
  if v.isZero then FV.zero else v

/-- Split a positive value into m × 2^n with m in [2^lo, 2^(lo+1)). -/
def normTo (lo : Int) (x : FV) : FV × Int :=
  let n := x.log2 - lo
  (x.scale (-n), n)

/-- Function `code` of a finite x to which R193 does not apply (R192). -/
def sfRegular (set : TableSet) (code : Nat) (x : FV) : FV :=
  match code with
  | 0x00 => expE set x
  | 0x01 =>
    let mn := normTo 0 x
    let m := if mn.1.lt (fvQ 3 (-1)) then mn.1 else mn.1.scale (-1)
    let n := if mn.1.lt (fvQ 3 (-1)) then mn.2 else mn.2 + 1
    r24 ((FV.ofInt n).add (r24 ((m.sub FV.one).mul (interp set .log2t m))))
  | 0x02 =>
    let mn := normTo 0 x.abs
    let v := (interp set .recipt mn.1).scale (-mn.2)
    if x.sign then v.neg else v
  | 0x03 =>
    let mn := normTo 0 x
    let odd := mn.2 % 2
    (interp set .rsqrtt (mn.1.scale odd)).scale (-((mn.2 - odd) / 2))
  | 0x04 =>
    let mn := normTo 0 x
    let odd := mn.2 % 2
    (interp set .sqrtt (mn.1.scale odd)).scale ((mn.2 - odd) / 2)
  | 0x08 => sigma set x
  | 0x09 =>
    if isSmall x then fma24 x (r24 (cCT.mul (r24 (x.mul x)))) x
    else
      let v := if isBig x.abs then FV.one else interp set .tanht x.abs
      if x.sign then v.neg else v
  | 0x0A => r24 (x.mul (sigma set (r24 (x.mul (fma24 cK1 cK3 (r24 (x.mul x)))))))
  | 0x0B =>
    if isBig x.abs then (if x.sign then .fin true 0 0 else x)
    else r24 (x.mul (if isSmall x then fma24 (fvQ 1 (-1)) cB1 x
      else if x.sign then gaussTail set x else r24 (FV.one.sub (gaussTail set x))))
  | 0x0C => if isSmall x then r24 (x.mul (fma24 (fvQ 1 (-1)) (fvQ 1 (-2)) x)) else r24 (x.mul (sigma set x))
  | 0x0D =>
    if isSmall x then fma24 cCL x (fma24 (fvQ 1 (-1)) (fvQ 1 (-3)) x)
    else if x.sign then softNeg set x
    else if isBig x then x else r24 (x.add (softNeg set x.neg))
  | 0x0E =>
    if isSmall x then r24 (x.mul (fma24 cA1 cA3 (r24 (x.mul x))))
    else
      let v := if isBig x.abs then FV.one else interp set .erft x.abs
      if x.sign then v.neg else v
  | 0x10 | 0x11 =>
    let f := x.sub (FV.ofInt x.floor)
    let q := (f.scale 2).floor.toNat
    quarter set (code == 0x11) q (f.sub (fvQ (Int.ofNat q) (-2)))
  | 0x18 =>
    let w := if (fvQ 1 (-1)).lt x then FV.one.sub x else x
    let u := if w.lt (fvQ 1 (-33)) then fvQ 1 (-33) else w
    if x.eq (fvQ 1 (-1)) then FV.zero
    else if x.lt (fvQ 1 (-1)) then (interp set .icdft u).neg else interp set .icdft u
  | _ => .nan

/-- The special inputs of R193: none where R192 applies. -/
def sfSpecial (code : Nat) (x : FV) : Option FV :=
  match x with
  | .nan => some .nan
  | .inf false =>
    match code with
    | 0x00 | 0x01 | 0x04 | 0x0A | 0x0B | 0x0C | 0x0D => some (.inf false)
    | 0x02 | 0x03 => some FV.zero
    | 0x08 | 0x09 | 0x0E => some FV.one
    | _ => some .nan
  | .inf true =>
    match code with
    | 0x00 | 0x08 | 0x0D => some FV.zero
    | 0x02 | 0x0A | 0x0B | 0x0C => some (.fin true 0 0)
    | 0x09 | 0x0E => some (.fin true 1 0)
    | _ => some .nan
  | .fin s m _ =>
    if m = 0 then
      match code with
      | 0x00 | 0x11 => some FV.one
      | 0x01 | 0x18 => some (.inf true)
      | 0x02 | 0x03 => some (.inf s)
      | 0x04 | 0x09 | 0x0E | 0x0A | 0x0B | 0x0C => some (.fin s 0 0)
      | 0x08 => some (fvQ 1 (-1))
      | 0x10 => some FV.zero
      | _ => none
    else if s && (code == 0x01 || code == 0x03 || code == 0x04 || code == 0x18) then some .nan
    else if code == 0x18 && x.eq FV.one then some (.inf false)
    else if code == 0x18 && FV.one.lt x then some .nan
    else none

/-- The function codes of R187. -/
def sfCodes : List Nat := [0x00, 0x01, 0x02, 0x03, 0x04, 0x08, 0x09, 0x0A, 0x0B, 0x0C, 0x0D, 0x0E, 0x10, 0x11, 0x18]

/-- Codes that the C12 set covers (R200). -/
def sfC12Codes : List Nat := [0x00, 0x01, 0x02, 0x03, 0x04, 0x08, 0x09, 0x0A, 0x0C, 0x10, 0x11]

/-- The set a code is evaluated from: STANDARD where C12 lacks the code (R200). -/
def effectiveSet (set : TableSet) (code : Nat) : TableSet :=
  match set with
  | .c12 => if sfC12Codes.contains code then .c12 else .standard
  | _ => set

/-- Internal value of a function (R189). -/
def sfInternal (set : TableSet) (code : Nat) (x : FV) : FV :=
  match sfSpecial code x with
  | some v => v
  | none => sfRegular (effectiveSet set code) code x

/-- A function's value delivered in a format: one conversion by RNE, or C12's by truncation to BF16 (R189, R200). -/
def sfDeliver (set : TableSet) (code : Nat) (x : FV) (f : Fmt) (ovfNan : Bool) : Conv :=
  let v := sfInternal set code x
  if effectiveSet set code = .c12 then
    let b := convert .bf16 .rtz 0 false v
    if f = .bf16 then b
    else
      let c := convert f .rne 0 ovfNan (decode .bf16 b.code)
      { c with sat := b.sat || c.sat }
  else convert f .rne 0 ovfNan v

/-- The value that an SFN stage hands to a block-scaled output: the value before rounding (R47). -/
def sfBefore (set : TableSet) (code : Nat) (x : FV) : FV :=
  let v := sfInternal set code x
  if effectiveSet set code = .c12 then decode .bf16 (convert .bf16 .rtz 0 false v).code else v

end Sys2Proof.Machine
end

