-- ==== Sys2Proof/Machine/Stats.lean ====
section
/-! DEFINITION. Sys2Proof/Machine/Stats.lean: row statistics over 32-element chunks and the fixed chunk tree: the tree of
R179, Welford's method and the sum of squares (R202), normalised rows (R204) and softmax (R205). -/
namespace Sys2Proof.Machine

/-- One level of the tree: neighbours merge, an unpaired last partial passes up (R179). -/
def pairUp {α : Type} (f : α → α → α) : List α → List α
  | a :: b :: t => f a b :: pairUp f t
  | t => t

/-- Levels of the tree until one partial is left; `n` bounds their number. -/
def treeLevels {α : Type} (f : α → α → α) : Nat → List α → List α
  | 0, l => l
  | n + 1, l => if l.length ≤ 1 then l else treeLevels f n (pairUp f l)

/-- The root of the fixed binary tree over partials in index order (R179); `d` where there is none. -/
def treeRoot {α : Type} (f : α → α → α) (d : α) (l : List α) : α := (treeLevels f l.length l).headD d

/-- Cut a list into runs of `k`; `n` bounds their number. -/
def runsOf {α : Type} (k : Nat) : Nat → List α → List (List α)
  | 0, _ => []
  | n + 1, l => if l.isEmpty then [] else l.take k :: runsOf k n (l.drop k)

/-- The 32-element chunks of a row (R169). -/
def chunks32 {α : Type} (l : List α) : List (List α) := runsOf 32 (l.length / 32 + 1) l

/-- r32 of a sum, of a × b, of a + b × c. -/
def add32 (a b : FV) : FV := r32 (a.add b)
def mul32 (a b : FV) : FV := r32 (a.mul b)
def fma32 (a b c : FV) : FV := r32 (a.add (b.mul c))
/-- An integer as a value, and an exact rational rounded once to FP32 (R202). -/
def fvNat (n : Nat) : FV := .fin false n 0
def fvRat (a b : Nat) : FV := decode .fp32 (convQ .fp32 .rne 0 false false a b 0).code

/-- Count, mean and M2 of a run of elements (R202). -/
structure Wel where
  n : Nat
  mean : FV
  m2 : FV

/-- An element as it enters the statistics of its row: an infinite one makes them NaN, wherever it stands (R203,
notes/assumptions/49.md). -/
def statElem (x : FV) : FV := if x.isFin then x else .nan

/-- Negative zero. -/
def FV.negZero : FV := .fin true 0 0
def FV.isNegZero (x : FV) : Bool := x.isZero && x.sign

/-- A run of nothing but −0, whose mean stays −0 (R203): its M2 of zero is written −0, which no step of R202 gives
(notes/assumptions/49.md). -/
def Wel.allNeg (w : Wel) : Bool := w.m2.isNegZero

/-- The statistics that the steps of R202 give such a run, once another element joins it. -/
def Wel.plain (w : Wel) : Wel := if w.allNeg then ⟨w.n, if w.n ≤ 1 then FV.negZero else FV.zero, FV.zero⟩ else w

/-- The first element of a run (R202). -/
def welFirst (x : FV) : Wel :=
  if x.isNegZero then ⟨1, FV.negZero, FV.negZero⟩
  else if x.isFin || x.isNan then ⟨1, x, FV.zero⟩ else ⟨1, .nan, .nan⟩

/-- One further element (R202). The mean of a row of −0 alone stays −0 (R203, notes/assumptions/49.md). -/
def welStep (w : Wel) (x0 : FV) : Wel :=
  let n := w.n + 1
  if w.allNeg && x0.isNegZero then ⟨n, FV.negZero, FV.negZero⟩
  else
    let x := statElem x0
    let v := w.plain
    let d1 := r32 (x.sub v.mean)
    let mean := r32 (v.mean.add (d1.div32 (fvNat n)))
    let d2 := r32 (x.sub mean)
    ⟨n, mean, fma32 v.m2 d1 d2⟩

/-- A chunk's statistics (R202). -/
def welChunk : List FV → Wel
  | [] => ⟨0, FV.zero, FV.zero⟩
  | x :: xs => xs.foldl welStep (welFirst x)

/-- Chan's merge of left with right (R202). -/
def welMerge (a0 b0 : Wel) : Wel :=
  let n := a0.n + b0.n
  if a0.allNeg && b0.allNeg then ⟨n, FV.negZero, FV.negZero⟩
  else
    let a := a0.plain
    let b := b0.plain
    let d := r32 (b.mean.sub a.mean)
    ⟨n, fma32 a.mean d (fvRat b.n n), r32 ((add32 a.m2 b.m2).add ((mul32 d d).mul (fvRat (a.n * b.n) n)))⟩

/-- var = max(r32(m2 / n), +0) (R202). -/
def welVar (w : Wel) : FV := (w.plain.m2.div32 (fvNat w.n)).max FV.zero

/-- Mean and variance of a row (R202). -/
def rowStats (xs : List FV) : FV × FV :=
  let w := treeRoot welMerge ⟨0, FV.zero, FV.zero⟩ ((chunks32 xs).map welChunk)
  (w.mean, welVar w)

/-- Mean of squares of a row (R202, R203). -/
def rowMeanSquare (xs : List FV) : FV :=
  let chunk (l : List FV) : FV :=
    match l with
    | [] => FV.zero
    | x :: t => t.foldl (fun s y => fma32 s y y) (mul32 x x)
  (treeRoot add32 FV.zero ((chunks32 (xs.map statElem)).map chunk)).div32 (fvNat xs.length)

/-- LayerNorm and GroupNorm rows, and RMSNorm rows, before conversion (R204). -/
def normRow (set : TableSet) (eps : FV) (xs : List FV) : List FV :=
  let mv := rowStats xs
  let r := sfInternal set 0x03 (add32 mv.2 eps)
  xs.map (fun x => mul32 (r32 (x.sub mv.1)) r)
def rmsRow (set : TableSet) (eps : FV) (xs : List FV) : List FV :=
  let r := sfInternal set 0x03 (add32 (rowMeanSquare xs) eps)
  xs.map (fun x => mul32 x r)

/-- E(r32(r32(a − b) × L2E)) (R205): E is the internal EXP2 value, which is 1 at ±0 under every table set (R193). -/
def softExp (set : TableSet) (a b : FV) : FV :=
  let t := mul32 (r32 (a.sub b)) cL2E
  if t.isZero then FV.one else expE set t

/-- Running maximum and sum of a softmax (R205). -/
structure Soft where
  m : FV
  l : FV

def softZero : Soft := ⟨.inf true, FV.zero⟩

/-- One element of a chunk (R205). -/
def softStep (set : TableSet) (a : Soft) (x : FV) : Soft :=
  if x = .inf true then a
  else if a.m.lt x then ⟨x, fma32 FV.one a.l (softExp set a.m x)⟩
  else ⟨a.m, r32 (a.l.add (softExp set x a.m))⟩

/-- Merge of left with right (R205). -/
def softMerge (set : TableSet) (a b : Soft) : Soft :=
  if a.m = .inf true ∧ b.m = .inf true then softZero
  else if !(a.m.lt b.m) then ⟨a.m, fma32 a.l b.l (softExp set b.m a.m)⟩
  else ⟨b.m, fma32 b.l a.l (softExp set a.m b.m)⟩

/-- Softmax of a row, before conversion (R205). -/
def softRow (set : TableSet) (xs : List FV) : List FV :=
  if xs.any (fun x => x.isNan || decide (x = .inf false)) then xs.map (fun _ => .nan)
  else
    let a := treeRoot (softMerge set) softZero ((chunks32 xs).map (fun l => l.foldl (softStep set) softZero))
    xs.map (fun x => if a.m = .inf true then FV.zero else (softExp set x a.m).div32 a.l)

/-- A row of the normalisation unit: LayerNorm, RMSNorm, softmax (R204, R205). -/
def statRow (set : TableSet) (func : Nat) (eps : FV) (xs : List FV) : List FV :=
  match func with
  | 1 => rmsRow set eps xs
  | 2 => softRow set xs
  | _ => normRow set eps xs

end Sys2Proof.Machine
end

