-- ==== Sys2Proof/Machine/Crypto.lean ====
section
/-! DEFINITION. Sys2Proof/Machine/Crypto.lean: the algorithms that the spec names by their standards: SHA-512 (FIPS 180-4),
HMAC and HKDF (RFC 2104, RFC 5869), AES-256 (FIPS 197), XTS (IEEE 1619), GCM (SP 800-38D), X25519 (RFC 7748) and Ed25519
(RFC 8032). PRESUMED from those standards (notes/assumptions/13.md). -/
namespace Sys2Proof.Machine

/-! ### SHA-512 -/

/-- Integer cube or square root of a prime's fraction: floor(2^64 × frac(p^(1/k))), by bisection over 72 bits. -/
def rootBits (k p : Nat) : Nat :=
  let r := (List.range 72).foldl (fun acc i =>
    let c := acc + 2 ^ (71 - i)
    if c ^ k ≤ p * 2 ^ (64 * k) then c else acc) 0
  r % 2 ^ 64

/-- The first 80 primes. -/
def primes80 : List Nat := (List.range 410).filter (fun n => 2 ≤ n && (List.range n).all (fun d => d < 2 || n % d != 0))

/-- Round constants and initial hash values of SHA-512: cube roots of 80 primes and square roots of 8. -/
def sha512K : List Dword := primes80.map (fun p => BitVec.ofNat 64 (rootBits 3 p))
def sha512H : List Dword := (primes80.take 8).map (fun p => BitVec.ofNat 64 (rootBits 2 p))

/-- Message schedule words beyond the first 16; `w` holds the last 16, oldest first. -/
def sha512Sched : Nat → List Dword → List Dword
  | 0, _ => []
  | n + 1, w =>
    let g (i : Nat) : Dword := w.getD i 0
    let s0 := (g 1).rotateRight 1 ^^^ (g 1).rotateRight 8 ^^^ (g 1) >>> 7
    let s1 := (g 14).rotateRight 19 ^^^ (g 14).rotateRight 61 ^^^ (g 14) >>> 6
    let x := g 0 + s0 + g 9 + s1
    x :: sha512Sched n (w.drop 1 ++ [x])

/-- One round on the eight working variables. -/
def sha512Round (v : List Dword) (kw : Dword × Dword) : List Dword :=
  let g (i : Nat) : Dword := v.getD i 0
  let s1 := (g 4).rotateRight 14 ^^^ (g 4).rotateRight 18 ^^^ (g 4).rotateRight 41
  let ch := (g 4 &&& g 5) ^^^ (~~~(g 4) &&& g 6)
  let t1 := g 7 + s1 + ch + kw.1 + kw.2
  let s0 := (g 0).rotateRight 28 ^^^ (g 0).rotateRight 34 ^^^ (g 0).rotateRight 39
  let maj := (g 0 &&& g 1) ^^^ (g 0 &&& g 2) ^^^ (g 1 &&& g 2)
  [t1 + (s0 + maj), g 0, g 1, g 2, g 3 + t1, g 4, g 5, g 6]

/-- One 128-byte block. -/
def sha512Block (k : List Dword) (h : List Dword) (b : List Byte) : List Dword :=
  let w := (List.range 16).map (fun i => BitVec.ofNat 64 (beNat (slice b (8 * i) 8)))
  let v := (k.zip (w ++ sha512Sched 64 w)).foldl sha512Round h
  List.zipWith (· + ·) h v

/-- Blocks of a padded message; `n` bounds their number. -/
def sha512Blocks (k : List Dword) : Nat → List Dword → List Byte → List Dword
  | 0, h, _ => h
  | n + 1, h, bs => if bs.isEmpty then h else sha512Blocks k n (sha512Block k h (bs.take 128)) (bs.drop 128)

/-- SHA-512 of a run of bytes. -/
def sha512 (bs : List Byte) : List Byte :=
  let l := bs.length
  let padded := bs ++ [0x80] ++ List.replicate ((239 - l % 128) % 128) 0 ++ toBE 16 (8 * l)
  (sha512Blocks sha512K (padded.length / 128) sha512H padded).flatMap (fun w => toBE 8 w.toNat)

/-- HMAC-SHA-512. -/
def hmac512 (key msg : List Byte) : List Byte :=
  let k := padTo 128 (if 128 < key.length then sha512 key else key)
  sha512 (k.map (· ^^^ 0x5C) ++ sha512 (k.map (· ^^^ 0x36) ++ msg))

/-- HKDF-SHA-512 with up to 64 bytes of output. -/
def hkdf512 (ikm salt info : List Byte) (n : Nat) : List Byte :=
  (hmac512 (hmac512 salt ikm) (info ++ [1])).take n

/-! ### AES-256 -/

/-- Product in GF(2^8) of AES. -/
def gmul (a b : Nat) : Nat :=
  ((List.range 8).foldl (fun (x : Nat × Nat) i =>
    ((if bit b i then x.1 ^^^ x.2 else x.1), if x.2 < 128 then 2 * x.2 else (2 * x.2) % 256 ^^^ 0x1B)) (0, a)).1

/-- S-box of AES: the inverse x^254, then the affine map. -/
def sbox (x : Nat) : Nat :=
  let x2 := gmul x x
  let x3 := gmul x2 x
  let x6 := gmul x3 x3
  let x12 := gmul x6 x6
  let x15 := gmul x12 x3
  let x30 := gmul x15 x15
  let x60 := gmul x30 x30
  let x120 := gmul x60 x60
  let x126 := gmul x120 x6
  let x127 := gmul x126 x
  let v := gmul x127 x127
  let r (n : Nat) : Nat := (v * 2 ^ n) % 256 ||| v / 2 ^ (8 - n)
  v ^^^ r 1 ^^^ r 2 ^^^ r 3 ^^^ r 4 ^^^ 0x63

/-- The S-box as a table, and its inverse. -/
def sboxTab : List Nat := (List.range 256).map sbox
def invSboxTab : List Nat := (List.range 256).map (fun y => sboxTab.idxOf y)

/-- Expanded key words of AES-256: 60 words of 4 bytes. `acc` holds the words so far. -/
def aesExpand : Nat → Nat → List (List Nat) → List (List Nat)
  | 0, _, acc => acc
  | n + 1, i, acc =>
    let p := acc.getD (i - 1) []
    let t := if i % 8 = 0 then
        let q := (p.drop 1 ++ p.take 1).map (fun b => sboxTab.getD b 0)
        (q.take 1).map (· ^^^ 2 ^ (i / 8 - 1)) ++ q.drop 1
      else if i % 8 = 4 then p.map (fun b => sboxTab.getD b 0) else p
    aesExpand n (i + 1) (acc ++ [List.zipWith (· ^^^ ·) (acc.getD (i - 8) []) t])

/-- The 15 round keys, 16 bytes each. -/
def aesKeys (key : List Byte) : List (List Nat) :=
  let w := aesExpand 52 8 ((List.range 8).map (fun i => (slice key (4 * i) 4).map BitVec.toNat))
  (List.range 15).map (fun r => ((w.drop (4 * r)).take 4).flatten)

def aesShift (s : List Nat) : List Nat := (List.range 16).map (fun i => s.getD ((i + 4 * (i % 4)) % 16) 0)
def aesUnshift (s : List Nat) : List Nat := (List.range 16).map (fun i => s.getD ((i + 16 - 4 * (i % 4)) % 16) 0)
/-- MixColumns with the given first row of the matrix. -/
def aesMix (m : List Nat) (s : List Nat) : List Nat :=
  (List.range 16).map (fun i =>
    (List.range 4).foldl (fun a j => a ^^^ gmul (m.getD ((j + 4 - i % 4) % 4) 0) (s.getD (i / 4 * 4 + j) 0)) 0)
def xorN (a b : List Nat) : List Nat := List.zipWith (· ^^^ ·) a b

/-- AES-256 of one 16-byte block under expanded keys. -/
def aesEnc (ks : List (List Nat)) (b : List Nat) : List Nat :=
  let s := (List.range 13).foldl (fun s r =>
    xorN (aesMix [2, 3, 1, 1] (aesShift (s.map (fun x => sboxTab.getD x 0)))) (ks.getD (r + 1) [])) (xorN b (ks.getD 0 []))
  xorN (aesShift (s.map (fun x => sboxTab.getD x 0))) (ks.getD 14 [])

/-- The inverse cipher. -/
def aesDec (ks : List (List Nat)) (b : List Nat) : List Nat :=
  let s := (List.range 13).foldl (fun s r =>
    aesMix [14, 11, 13, 9] (xorN ((aesUnshift s).map (fun x => invSboxTab.getD x 0)) (ks.getD (13 - r) []))) (xorN b (ks.getD 14 []))
  xorN ((aesUnshift s).map (fun x => invSboxTab.getD x 0)) (ks.getD 0 [])

def toNats (b : List Byte) : List Nat := b.map BitVec.toNat
def ofNats (b : List Nat) : List Byte := b.map (BitVec.ofNat 8)

/-! ### XTS -/

/-- Multiply a tweak by α: little-endian, x^128 + x^7 + x^2 + x + 1. -/
def xtsDouble (t : Nat) : Nat := if t < 2 ^ 127 then 2 * t else (2 * t) % 2 ^ 128 ^^^ 0x87

/-- Tweak of 16-byte block `j` of data unit `unit` of a region (R80). -/
def xtsTweak (tweakKey : List Byte) (rid unit j : Nat) : Nat :=
  let t := aesEnc (aesKeys tweakKey) (toNats (toLE 8 unit ++ toLE 8 rid))
  (List.range j).foldl (fun t _ => xtsDouble t) (leNat (ofNats t))

/-- One 16-byte block enciphered or deciphered (R80). -/
def xtsBlock (enc : Bool) (dataKey tweakKey : List Byte) (rid unit j : Nat) (b : List Byte) : List Byte :=
  let t := toNats (toLE 16 (xtsTweak tweakKey rid unit j))
  let ks := aesKeys dataKey
  ofNats (xorN t ((if enc then aesEnc else aesDec) ks (xorN t (toNats b))))

/-! ### GCM -/

/-- Product in GF(2^128) of GCM, blocks as big-endian numbers. -/
def ghashMul (x y : Nat) : Nat :=
  ((List.range 128).foldl (fun (zv : Nat × Nat) i =>
    ((if bit x (127 - i) then zv.1 ^^^ zv.2 else zv.1),
      if zv.2 % 2 = 1 then zv.2 / 2 ^^^ 0xE1 * 2 ^ 120 else zv.2 / 2)) (0, y)).1

/-- Blocks of 16 bytes, the last padded with zeros. -/
def blocks16 (bs : List Byte) : List (List Byte) :=
  (List.range ((bs.length + 15) / 16)).map (fun i => padTo 16 (slice bs (16 * i) 16))

def ghash (h : Nat) (bs : List (List Byte)) : Nat := bs.foldl (fun y b => ghashMul (y ^^^ beNat b) h) 0

/-- GCM counter mode from counter 2. -/
def gcmCtr (ks : List (List Nat)) (iv : List Byte) (bs : List Byte) : List Byte :=
  ((List.range ((bs.length + 15) / 16)).flatMap (fun i =>
    List.zipWith (· ^^^ ·) (slice bs (16 * i) 16) (ofNats (aesEnc ks (toNats (iv ++ toBE 4 (i + 2)))))))

def gcmTag (ks : List (List Nat)) (iv aad ct : List Byte) : List Byte :=
  let h := beNat (ofNats (aesEnc ks (List.replicate 16 0)))
  let s := ghash h (blocks16 aad ++ blocks16 ct ++ [toBE 8 (8 * aad.length) ++ toBE 8 (8 * ct.length)])
  List.zipWith (· ^^^ ·) (toBE 16 s) (ofNats (aesEnc ks (toNats (iv ++ toBE 4 1))))

/-- AES-256-GCM: ciphertext and tag. -/
def gcmSeal (key iv aad pt : List Byte) : List Byte × List Byte :=
  let ks := aesKeys key
  let ct := gcmCtr ks iv pt
  (ct, gcmTag ks iv aad ct)

/-- AES-256-GCM opening: none when the tag fails. -/
def gcmOpen (key iv aad ct tag : List Byte) : Option (List Byte) :=
  let ks := aesKeys key
  if gcmTag ks iv aad ct = tag then some (gcmCtr ks iv ct) else none

/-! ### Curve25519 -/

def p25519 : Nat := 2 ^ 255 - 19
def fsub (a b : Nat) : Nat := (a + p25519 - b % p25519) % p25519
/-- a^e mod p, `n` bits of e. -/
def fpow (a e n : Nat) : Nat :=
  (List.range n).foldl (fun r i => let q := r * r % p25519; if bit e (n - 1 - i) then q * a % p25519 else q) 1
def finv (a : Nat) : Nat := fpow a (p25519 - 2) 255

/-- X25519 (RFC 7748). -/
def x25519 (k u : List Byte) : List Byte :=
  let n := leNat k % 2 ^ 254 / 8 * 8 + 2 ^ 254
  let x1 := leNat u % 2 ^ 255 % p25519
  let st := (List.range 255).foldl (fun (s : Nat × Nat × Nat × Nat) i =>
    let b := bit n (254 - i)
    let (x2, z2, x3, z3) := s
    let (x2, z2, x3, z3) := if b then (x3, z3, x2, z2) else (x2, z2, x3, z3)
    let a := (x2 + z2) % p25519
    let aa := a * a % p25519
    let c := fsub x2 z2
    let bb := c * c % p25519
    let e := fsub aa bb
    let da := fsub x3 z3 * a % p25519
    let cb := (x3 + z3) * c % p25519
    let t := (da + cb) % p25519
    let w := fsub da cb
    let y2 := aa * bb % p25519
    let w2 := e * ((aa + 121665 * e) % p25519) % p25519
    let y3 := t * t % p25519
    let w3 := x1 * (w * w % p25519) % p25519
    if b then (y3, w3, y2, w2) else (y2, w2, y3, w3)) (1, 0, x1, 1)
  toLE 32 (st.1 * finv st.2.1 % p25519)

/-- A point of edwards25519 in extended coordinates. -/
structure EdPoint where
  x : Nat
  y : Nat
  z : Nat
  t : Nat
  deriving DecidableEq, Repr

def edD : Nat := fsub 0 (121665 * finv 121666 % p25519)
def edZero : EdPoint := ⟨0, 1, 1, 0⟩

/-- Point addition (RFC 8032). -/
def edAdd (d : Nat) (p q : EdPoint) : EdPoint :=
  let a := fsub p.y p.x * fsub q.y q.x % p25519
  let b := (p.y + p.x) * (q.y + q.x) % p25519
  let c := 2 * p.t * q.t % p25519 * d % p25519
  let z := 2 * p.z * q.z % p25519
  let e := fsub b a
  let f := fsub z c
  let g := (z + c) % p25519
  let h := (b + a) % p25519
  ⟨e * f % p25519, g * h % p25519, f * g % p25519, e * h % p25519⟩

def edMul (d k : Nat) (p : EdPoint) : EdPoint :=
  (List.range 256).foldl (fun r i => let q := edAdd d r r; if bit k (255 - i) then edAdd d q p else q) edZero

/-- x of a compressed point: none when y gives no point. -/
def edRecover (y : Nat) (sgn : Bool) : Option Nat :=
  if p25519 ≤ y then none else
  let u := fsub (y * y % p25519) 1
  let v := (edD * (y * y % p25519) + 1) % p25519
  let c := u * fpow v 3 2 % p25519 * fpow (u * fpow v 7 3 % p25519) ((p25519 - 5) / 8) 252 % p25519
  let r := if v * (c * c % p25519) % p25519 = u then some c
    else if v * (c * c % p25519) % p25519 = fsub 0 u then some (c * fpow 2 ((p25519 - 1) / 4) 253 % p25519) else none
  match r with
  | none => none
  | some x => if x = 0 ∧ sgn = true then none else some (if (x % 2 == 1) != sgn then fsub 0 x else x)

def edDecode (bs : List Byte) : Option EdPoint :=
  let n := leNat bs
  (edRecover (n % 2 ^ 255) (bit n 255)).map (fun x => ⟨x, n % 2 ^ 255, 1, x * (n % 2 ^ 255) % p25519⟩)

def edEncode (p : EdPoint) : List Byte :=
  let i := finv p.z
  toLE 32 (p.y * i % p25519 + (p.x * i % p25519) % 2 * 2 ^ 255)

def edBase : EdPoint :=
  let y := 4 * finv 5 % p25519
  let x := (edRecover y false).getD 0
  ⟨x, y, 1, x * y % p25519⟩

/-- Order of the base point. -/
def edL : Nat := 2 ^ 252 + 27742317777372353535851937790883648493

/-- Ed25519 verification (RFC 8032). -/
def edVerify (key msg sig : List Byte) : Bool :=
  let d := edD
  match edDecode key, edDecode (sig.take 32) with
  | some a, some r =>
    let s := leNat (sig.drop 32)
    let k := leNat (sha512 (sig.take 32 ++ key ++ msg)) % edL
    decide (s < edL) && decide (edEncode (edMul d s edBase) = edEncode (edAdd d r (edMul d k a)))
  | _, _ => false

def edSecret (secret : List Byte) : Nat := leNat ((sha512 secret).take 32) % 2 ^ 254 / 8 * 8 + 2 ^ 254
/-- Ed25519 public key of a secret. -/
def edPublic (secret : List Byte) : List Byte := edEncode (edMul edD (edSecret secret) edBase)
/-- Ed25519 signature. -/
def edSign (secret msg : List Byte) : List Byte :=
  let r := leNat (sha512 ((sha512 secret).drop 32 ++ msg)) % edL
  let rb := edEncode (edMul edD r edBase)
  let k := leNat (sha512 (rb ++ edPublic secret ++ msg)) % edL
  rb ++ toLE 32 ((r + k * edSecret secret) % edL)

/-- X25519 public key of a secret. -/
def x25519Public (secret : List Byte) : List Byte := x25519 secret (toLE 32 9)

end Sys2Proof.Machine
end

