-- ==== Sys2Proof/Machine/State.lean ====
section
/-! DEFINITION. Sys2Proof/Machine/State.lean: the state of the block as plain data, its value after reset, and the
reasons for which a step can stop. Every piece of state that the spec names has its field here; INVENTORY.md lists each
with its rule and its reset value. -/
namespace Sys2Proof.Machine

/-- A step of this block never stops with a fault: what the spec calls a fault is an effect on State (a status code, a
ledger record, a restart). The type has no value. -/
inductive Fault where
  deriving DecidableEq, Repr

/-- Why a step gives no next state. -/
inductive Refusal where
  /-- Raised by the arms of Machine/Dispatch.lean for a command without a meaning; safe, since nothing is claimed. -/
  | notModelled (mnemonic : String)
  deriving DecidableEq, Repr

/-- The state of the block. A `Tab` field lists what differs from its record's reset value. -/
structure State where
  /-- Commands waiting, first in first out. -/
  pending : List Instr
  /-- Packets started and not completed (R288, R289). -/
  started : List Instr
  /-- Port registers and pins, by port (R398 to R415). -/
  ports : Tab Port
  /-- Chutes, by 64 × port + chute (R283 to R285, R405). -/
  chutes : Tab Chute
  /-- Host memory behind the ports, by 2 × bus address + port (R292). -/
  host : Tab Byte
  /-- For each class, the chute served next in the round (R297). -/
  rounds : Tab Nat
  /-- Chutes whose head packet is startable, in the order in which it became so (R306, R315). -/
  intake : List Nat
  /-- Hooks (R299). -/
  hooks : Tab Hook
  /-- Ready records, by slot and number, in the order in which they became ready (R306, R315). -/
  ready : List (Nat × Nat)
  /-- Bytes that a started memory command shares with another one in no order with it: header, first address and length (R293). -/
  races : List (Hdr × Nat × Nat)
  /-- SAVE_CONTEXT commands whose context is on its way to another device, with the restarts of their job while they ran (R291, R384). -/
  saves : List (Hdr × Nat)
  /-- Period sequence number of each mark source (R309). -/
  marks : Tab Word
  /-- Per-function resets in progress (R303). -/
  resets : List Reset
  status : Status
  /-- Device memory by local address, cellars at their tile-contiguous address (R61, R63). -/
  mem : Tab Byte
  /-- Words stored with an error, by local address / 8 (R74). -/
  ecc : Tab (Option Ecc)
  /-- Crates whose next reading fails its CRC and whose second passes, by the held address of their header (R106). -/
  glitches : List Nat
  /-- Elements of crates not yet whole that a saved context leaves beside it in the cellars, by the digest of the context (R97, R186). -/
  kept : List (List Byte × List CratePart)
  /-- Sealed regions and key slots (R79). -/
  regions : Tab (Option Region)
  keys : Tab (Option KeySlot)
  /-- Tainted shelves, by core instance: the region IDs whose plaintext each may hold (R84, R430). -/
  taint : Tab (List Dword)
  fills : List SlotFill
  /-- Banks: 256 × tile + 64 × layer + bank, then 5,120 + 64 × hub + bank; shelves as the sweep takes them: 5,248 + core instance
  (R76, R376). -/
  banks : Tab Bank
  /-- Banks of each cellar layer that the background test has tested, as a mask (R419). -/
  testedBanks : Tab Nat
  tiles : Tab Tile
  hubs : Tab HubInv
  /-- Bridge edges, by `edgeKey` (R17, R376). -/
  edges : Tab Edge
  /-- Cores by instance 16 × tile + core (R302). -/
  cores : Tab Core
  /-- Lanes by 128 × core instance + lane (R169). -/
  lanes : Tab Lane
  /-- Rail domains by source ID (R26, R437). -/
  rails : Tab RailState
  /-- Rail domains whose request for V_HI waits for the next ramp, oldest first (R30). -/
  ramps : List Nat
  tables : Tables
  slots : Tab Slot
  links : Tab Link
  /-- Domain membership, and a DOMAIN_JOIN that waits (R336, R337). -/
  member : Option Domain
  joining : Option (Hdr × Domain)
  twin : Twin
  /-- Remote accesses waiting for their answer, and the next transfer ID (R328, R329). -/
  xfers : List Xfer
  nextXid : Dword
  /-- Messages handed to the links, oldest first (R328). -/
  outbox : List Sent
  /-- Messages for which no port of a route is UP, oldest first (R333). -/
  held : List Routed
  colls : Tab Coll
  engines : Tab Engine
  streams : Tab Stream
  flash : Flash
  firmware : Firmware
  stage : Option Stage
  power : Power
  mgmt : Mgmt
  /-- Ledger records, newest first, and the next sequence number (R432, R433). -/
  ledger : List LedgerRec
  ledgerNext : Word
  /-- Counters by counter ID (R437, R438). -/
  counters : Tab Counter
  /-- Sensors by number (R441). -/
  sensors : Tab Sensor
  /-- The model's own: free values drawn so far (notes/assumptions/6.md). -/
  free : Nat
  deriving DecidableEq, Repr

/-! ### Reset values of the parts -/

/-- MGMT mailbox at reset (R411). -/
def Mailbox.reset : Mailbox := ⟨false, false, false, 0, 0, [], []⟩

/-- A port at reset (R403 to R411, R400). -/
def Port.reset : Port where
  evtEnable := false
  evtVector := 0
  evtCause := 0
  winBase := 0
  winLength := 0
  winBad := false
  window := none
  bar2Log2 := 4
  fid := 0
  resetBusy := false
  resetDone := false
  resetRejected := false
  ledgerSelect := 0
  counterSelect := 0
  mailbox := Mailbox.reset
  flrActive := false
  dlUp := true
  flitMode := true
  width := 16
  speed := 6
  perst := false
  refclk := true
  d3hot := false
  busMaster := false
  relaxedOrdering := true
  maxPayload := 0
  maxRead := 2
  completionTimeout := 0
  msixEnable := false
  msixMaskAll := false
  msixTable := []
  msixMask := BitVec.allOnes 64
  msixPending := 0
  interrupts := []
  aerMasked := true
  aerFatal := true
  aerStatus := false
  aerMessages := []
  aerErrors := 0
  readData := []

/-- A chute at reset: disabled, every field 0 (R405). -/
def Chute.reset : Chute where
  ringBase := 0
  log2N := 0
  log2Replies := 0
  cls := 0
  vector := 0
  replyBase := 0
  enable := false
  cfgBad := false
  blocked := false
  stopped := false
  head := 0
  replyIndex := 0
  replyHead := 0
  tail := 0
  owed := 0
  granted := none
  passes := 0
  promoted := 0
  fetched := []
  epoch := 0

/-- A hook at reset (R299). -/
def Hook.reset : Hook := ⟨0, []⟩

/-- STATUS at reset (R403). -/
def Status.reset : Status := ⟨false, false, false, false, false, 4096, 64⟩

/-- No operations and no faults (R375). -/
def Health.reset : Health := ⟨0, []⟩

/-- A bank at power-up (R76, R316). -/
def Bank.reset : Bank := ⟨0, [], none, .reserved, false, Health.reset⟩

/-- A bridge edge as shipped: 15 wire groups in use and one spare (R376). -/
def Edge.reset : Edge := ⟨[], false⟩

/-- The value of an unlisted tile: no core, no position. -/
def Tile.none : Tile := ⟨0x1FFF, .none, [], [], [], [], false, .none⟩

/-- A tile as shipped: 13 good cores, C0 to C11 active and C12 spare (notes/assumptions/5.md); edge groups by R379. -/
def Tile.reset (t : Nat) : Tile where
  sheeted := 0
  spare := some 12
  positions := (List.range 12).map (fun p => some (16 * t + p))
  bankSpares := [2, 2, 2, 2]
  inPlace := [0, 0, 0, 0]
  edgeSpare := [if t < 5 then 0xFF else 1, 1, if 15 ≤ t then 0xFF else 1, 1]
  rotationDue := false
  exchange := .none

/-- Hub SRAM banks as shipped (R376). -/
def HubInv.reset : HubInv := ⟨2, 0⟩

/-- An empty array (R110). -/
def MatArray.reset : MatArray := ⟨none, false, none, none, none, none, [], [], [], [], [], none, []⟩

/-- A core at reset. -/
def Core.reset : Core := ⟨0, Health.reset, MatArray.reset, [], none, false, [], false, false, false, false⟩

/-- A lane at reset: registers +0 (R171), no work. -/
def Lane.reset : Lane := ⟨[], false, 0, 0, 0, 0, 0, 0, false, [], 0, 127, 127, 0, [], [], 0, 0⟩

/-- A rail domain at reset (notes/assumptions/4.md). -/
def RailState.reset : RailState := ⟨.vlo, false⟩

/-- The table sets at reset: STANDARD, generation 0 (R195, R198). -/
def Tables.reset : Tables := ⟨0, .standard, none, none, none⟩

/-- An empty plan slot (R304). -/
def Slot.reset : Slot := ⟨none, 0, 0, 0, [], none, none⟩

/-- A link port at reset: DISABLED (R334), with R325's credits. -/
def Link.reset : Link where
  state := .disabled
  enable := false
  laneMask := 0xFF
  minLanes := 1
  retune := false
  loopback := false
  retired := 0
  sheeted := false
  txSeq := 0
  rxSeq := 0
  replay := []
  txCount := 0
  rxCount := 0
  sent := []
  nak := false
  resent := false
  ackValid := false
  credits := [512, 512, 32, 64]
  owedCredits := [0, 0, 0, 0]
  lent := []
  waiting := []
  rx := []
  control := []
  controlSent := []
  leaving := []
  controlGap := 16
  shares := [0, 0]
  looped := []
  laneHealth := []
  sinceRetune := []
  corrected := []
  faulted := []
  testing := []
  retuning := none
  identityOk := none
  retrainFailed := false

/-- The twin state at reset: not bound (R402). -/
def Twin.reset : Twin := ⟨false, false, false, none, [], none, 0, false, false, [], [], [], [], [], [], [], [], [], [], none, none⟩

/-- A collective engine as shipped (R347). -/
def Coll.reset : Coll := ⟨[], [], [], [], [], 0, [], 0, false⟩

/-- A codec engine as shipped. -/
def Engine.reset : Engine := ⟨false, Health.reset, []⟩

/-- The descriptor of a closed stream. -/
def StreamDesc.empty : StreamDesc :=
  ⟨0, 0, 0, 0, 0, 0, 0, 0, 0, 0, 0, 0, 0, 0, 0, 0, 0, 0, 0, 0, 0, 0, 0, 0, 0, 0, 0, 0, 0, 0, 0, 0⟩

/-- A closed stream (R304). -/
def Stream.reset : Stream where
  opened := false
  gen := 0
  port := 0
  desc := StreamDesc.empty
  engine := none
  queue := []
  frame := none
  buffers := []
  refs := []
  out := []
  produced := 0
  consumed := 0
  debtF := 0
  qpF := 0
  wK := []
  wI := []
  forceKey := false
  nextFrame := 0
  nextPicture := 0
  sinceKey := 0
  overtaken := 0
  skipping := false
  params := true
  tier := 3
  onTime := 0
  regained := false
  rebind := none
  held := []
  coderBase := 0
  coder := 0
  newRate := none
  closing := none
  passes := 0
  promoted := false

/-- Tags of a free rack buffer (R358). -/
def Tags.none : Tags := ⟨false, 0, false, false, false⟩

/-- A counter at power-up (R439). -/
def Counter.reset : Counter := ⟨0, false⟩

/-- A sensor before its first sample (notes/assumptions/4.md). -/
def Sensor.reset : Sensor := ⟨0, 0⟩

/-- The flash at shipment (notes/assumptions/5.md). -/
def Flash.shipped : Flash := ⟨Config.shippedImage, [], false, 0, 0, 0, 0, 0⟩

/-- The firmware that runs at State.reset: the image of bank A, by its header (R423; notes/assumptions/5.md). -/
def Firmware.shipped : Firmware :=
  ⟨false, BitVec.ofNat 32 (fieldLE Config.shippedImage 8 4), false, slice Config.shippedImage 48 64⟩

/-- Power after step 5 of R419 (notes/assumptions/1.md). -/
def Power.reset : Power := ⟨true, true, true, false, false, false, false, false, false, [], false⟩

/-- No management message (R411). -/
def Mgmt.reset : Mgmt := ⟨[], [], []⟩

/-- The tiles as shipped. -/
def Tile.shipped : Tab Tile := (List.range 20).map (fun t => (t, Tile.reset t))

/-- The machine right after reset: power-up up to step 5 of R419, so READY is still 0 (notes/assumptions/1.md). -/
def State.reset : State where
  pending := []
  started := []
  ports := []
  chutes := []
  host := []
  rounds := []
  intake := []
  hooks := []
  ready := []
  races := []
  saves := []
  marks := []
  resets := []
  status := Status.reset
  mem := []
  ecc := []
  glitches := []
  kept := []
  regions := []
  keys := []
  taint := []
  fills := []
  banks := []
  testedBanks := []
  tiles := Tile.shipped
  hubs := []
  edges := []
  cores := []
  lanes := []
  rails := []
  ramps := []
  tables := Tables.reset
  slots := []
  links := []
  member := none
  joining := none
  twin := Twin.reset
  xfers := []
  nextXid := 0
  outbox := []
  held := []
  colls := []
  engines := []
  streams := []
  flash := Flash.shipped
  firmware := Firmware.shipped
  stage := none
  power := Power.reset
  mgmt := Mgmt.reset
  ledger := []
  ledgerNext := 1
  counters := []
  sensors := []
  free := 0

/-! ### Reads of indexed parts -/

/-- Port `p`. -/
def State.port (s : State) (p : Nat) : Port := Tab.look Port.reset s.ports p
/-- Chute `i` = 64 × port + chute. -/
def State.chute (s : State) (i : Nat) : Chute := Tab.look Chute.reset s.chutes i
/-- Hook `h`. -/
def State.hook (s : State) (h : Nat) : Hook := Tab.look Hook.reset s.hooks h
/-- Period sequence number of mark source `i`. -/
def State.mark (s : State) (i : Nat) : Word := Tab.look 0 s.marks i
/-- Sealed region of table index `i`. -/
def State.region (s : State) (i : Nat) : Option Region := Tab.look none s.regions i
/-- Key slot `i`. -/
def State.key (s : State) (i : Nat) : Option KeySlot := Tab.look none s.keys i
/-- Taint of the shelf of core instance `c`. -/
def State.tainted (s : State) (c : Nat) : Bool := !(Tab.look [] s.taint c).isEmpty
/-- Bank `i`. -/
def State.bank (s : State) (i : Nat) : Bank := Tab.look Bank.reset s.banks i
/-- Bridge edge `k`. -/
def State.edge (s : State) (k : Nat) : Edge := Tab.look Edge.reset s.edges k
/-- Tile `t`. -/
def State.tile (s : State) (t : Nat) : Tile := Tab.look Tile.none s.tiles t
/-- Hub SRAM banks of hub `h`. -/
def State.hub (s : State) (h : Nat) : HubInv := Tab.look HubInv.reset s.hubs h
/-- Core instance `c`. -/
def State.core (s : State) (c : Nat) : Core := Tab.look Core.reset s.cores c
/-- Lane `l` = 128 × core instance + lane. -/
def State.lane (s : State) (l : Nat) : Lane := Tab.look Lane.reset s.lanes l
/-- Rail domain of source ID `i`. -/
def State.rail (s : State) (i : Nat) : RailState := Tab.look RailState.reset s.rails i
/-- Plan slot `i`. -/
def State.slot (s : State) (i : Nat) : Slot := Tab.look Slot.reset s.slots i
/-- Link port `i`. -/
def State.link (s : State) (i : Nat) : Link := Tab.look Link.reset s.links i
/-- Collective engine of hub `h`. -/
def State.coll (s : State) (h : Nat) : Coll := Tab.look Coll.reset s.colls h
/-- Codec engine `e`. -/
def State.engine (s : State) (e : Nat) : Engine := Tab.look Engine.reset s.engines e
/-- Stream of index `i`. -/
def State.stream (s : State) (i : Nat) : Stream := Tab.look Stream.reset s.streams i
/-- Counter of ID `i`. -/
def State.counter (s : State) (i : Nat) : Counter := Tab.look Counter.reset s.counters i
/-- Sensor `i`. -/
def State.sensor (s : State) (i : Nat) : Sensor := Tab.look Sensor.reset s.sensors i
/-- Byte of device memory at a local address (cellars by their tile-contiguous address). -/
def State.byte (s : State) (a : Nat) : Byte := Tab.look 0 s.mem a
/-- Byte of the host memory behind port `p`. -/
def State.hostByte (s : State) (p a : Nat) : Byte := Tab.look 0 s.host (2 * a + p % 2)

end Sys2Proof.Machine
end

