-- ==== Sys2Proof/Machine/Flags.lean ====
section
/-! DEFINITION. Sys2Proof/Machine/Flags.lean: status and detail codes (R295, R296), the flags and bytes of a reply
(R285, R291), a hook's word (R407), a rack buffer's tag word (R359) and the choice among malformed events (R107). -/
namespace Sys2Proof.Machine

/-! ### Status codes (R295) -/

def stDone : Nat := 0x0000
def stDoneLate : Nat := 0x0001
def stAccepted : Nat := 0x0002
def stMalformed : Nat := 0x0010
def stBusy : Nat := 0x0020
def stHookOverflow : Nat := 0x0021
def stReset : Nat := 0x0030
def stAborted : Nat := 0x0031
def stBadOpcode : Nat := 0x0100
def stBadLength : Nat := 0x0101
def stBadParameter : Nat := 0x0102
def stBadAddress : Nat := 0x0103
def stSealed : Nat := 0x0104
def stDegraded : Nat := 0x0300
def stFirmware : Nat := 0x0400

/-- The statuses that release SIGNAL_HOOK (R289, R295). -/
def signals (status : Nat) : Bool := status == 0 || status == 1 || status == 2 || status == 0x10

/-! ### Replies -/

/-- A reply with a status alone. -/
def Reply.of (status : Nat) : Reply := ⟨status, 0, 0, 0, 0, false, 0⟩
/-- DONE with result words. -/
def Reply.done (w0 w1 w2 : Nat) : Reply := ⟨stDone, 0, w0, w1, w2, false, 0⟩
/-- BAD_PARAMETER of the packet field at a byte offset (R287, R296). -/
def Reply.badField (off : Nat) : Reply := ⟨stBadParameter, 0x8000 + off, 0, 0, 0, false, 0⟩

/-- PHASE of a reply index in a ring of 2^log2R entries (R285). -/
def replyPhase (index : Word) (log2R : Nat) : Bool := index.toNat / 2 ^ log2R % 2 == 0

/-- Byte 7 of a reply (R291): PHASE, the receiving port, RESTARTED and LATE. -/
def replyFlags (phase : Bool) (port : PortId) (r : Reply) : Nat :=
  128 * b2n phase + 4 * port.val + 2 * b2n (decide (0 < r.restarts)) + b2n r.late

/-- The 32 bytes of a reply (R291). -/
def replyBytes (h : Hdr) (phase : Bool) (r : Reply) : List Byte :=
  toLE 4 h.seq.toNat ++ toLE 2 r.status ++ toLE 1 h.chute.val ++ toLE 1 (replyFlags phase h.port r)
    ++ toLE 8 h.tag.toNat ++ toLE 2 (min r.restarts 0xFFFF) ++ toLE 2 r.detail
    ++ toLE 4 r.w0 ++ toLE 4 r.w1 ++ toLE 4 r.w2

/-- Whether REPLY_ON_ERROR_ONLY omits the reply and the interrupt (R289). -/
def replyOmitted (h : Hdr) (r : Reply) : Bool :=
  h.replyOnErrorOnly && (r.status == stDone || r.status == stAccepted) && !r.late && r.restarts == 0

/-! ### Words and tags -/

/-- A hook's 8-byte entry as it reads (R407). -/
def hookWord (k : Hook) : Nat := k.count.toNat + min k.waiters.length 0xFFFF * 2 ^ 32

/-- The tag word that RACK_MARK returns (R359). -/
def tagWord (t : Tags) : Nat := b2n t.short + 2 * b2n t.out + 4 * b2n t.hold + 256 * t.long.toNat

/-- Whether a rack buffer carries no tag (R358). -/
def Tags.free (t : Tags) : Bool := !t.short && t.long == 0 && !t.out && !t.hold

/-- Order of malformed events in a report: the lowest detail code, then the lowest record, then the lowest item or
address (R107). -/
def Malformed.before (a b : Malformed) : Bool :=
  let x (m : Malformed) : Nat := if m.detail = 1 then m.w1 * 2 ^ 32 + m.w0 else m.w0 * 2 ^ 32 + m.w1
  decide (a.detail < b.detail)
  || (a.detail == b.detail && (decide (a.record < b.record) || (a.record == b.record && decide (x a < x b))))

end Sys2Proof.Machine
end

