-- ==== Sys2Proof/Machine/Ops.lean ====
section
/-! DEFINITION. Sys2Proof/Machine/Ops.lean: everything a step can do to the state. A meaning answers a list of effects
(`Eff`), each of which writes one named part, and the state after it is `applyAll` of that list; so what every step keeps
is proved once, over the effects. Then the address map (R61 to R68), ECC words (R74, R75) and the ledger and counters
(R432 to R439). -/
namespace Sys2Proof.Machine

/-! ### The address map -/

/-- Bytes of one tile's cellar (R61). -/
def tileBytes : Nat := 0x180000000
/-- End of the tile-contiguous cellar view (R61). -/
def cellarEnd : Nat := 0x1E00000000
/-- Start and end of the interleaved view (R61). -/
def interBase : Nat := 0x2000000000
def interEnd : Nat := 0x3E00000000
/-- Start and end of the shelves, and the sizes of a slot and of its plan area (R61, R65). -/
def shelfBase : Nat := 0x4000000000
def shelfEnd : Nat := 0x4280000000
def shelfSlot : Nat := 0x2000000
def planArea : Nat := 0x1C00000
/-- Hub A and hub B SRAM, and the part of each for hosts and plans (R61, R66). -/
def hubBase : Nat := 0x8000000000
def hubBytes : Nat := 0x10000000
def hubUsable : Nat := 0x8000000
/-- The control space (R61, R67). -/
def controlBase : Nat := 0xF000000000

/-- Tile-contiguous address of an interleaved address (R64). -/
def deinterleave (a : Nat) : Nat :=
  let g := (a - interBase) / 4096
  g % 20 * tileBytes + g / 20 * 4096 + (a - interBase) % 4096

/-- Interleaved address of a tile-contiguous address (R64). -/
def interleave (a : Nat) : Nat :=
  interBase + ((a % tileBytes / 4096) * 20 + a / tileBytes) * 4096 + a % 4096

/-- Whether an address lies in the interleaved view. -/
def isInter (a : Nat) : Bool := decide (interBase ≤ a) && decide (a < interEnd)

/-- The address at which a local byte is held: cellars by their tile-contiguous address (R64). -/
def phys (a : Nat) : Nat := if isInter a then deinterleave a else a

/-- Whether core instance `c` = 16 × tile + core is a good core (R15, R65). -/
def goodCore (s : State) (c : Nat) : Bool :=
  decide (c / 16 < 20) && decide (c % 16 < 13) && !(s.tile (c / 16)).sheeted.getLsbD (c % 16)

/-- Whether a whole local range is mapped and free of device-reserved parts, the control space and shelf slots without
a good core (R62, R65, R66). -/
def rangeOk (s : State) (a n : Nat) : Bool :=
  decide (a + n ≤ cellarEnd)
  || (decide (interBase ≤ a) && decide (a + n ≤ interEnd))
  || (decide (shelfBase ≤ a) && decide (a < shelfEnd)
      && decide (a + n ≤ shelfBase + (a - shelfBase) / shelfSlot * shelfSlot + planArea)
      && goodCore s ((a - shelfBase) / shelfSlot))
  || (decide (hubBase ≤ a) && decide (a + n ≤ hubBase + hubUsable))
  || (decide (hubBase + hubBytes ≤ a) && decide (a + n ≤ hubBase + hubBytes + hubUsable))

/-- Core instance whose whole 32 MiB slot a range is (the exception of R62). -/
def wholeSlot (s : State) (a n : Nat) : Option Nat :=
  if shelfBase ≤ a ∧ a < shelfEnd ∧ (a - shelfBase) % shelfSlot = 0 ∧ n = shelfSlot
      ∧ goodCore s ((a - shelfBase) / shelfSlot) = true
  then some ((a - shelfBase) / shelfSlot) else none

/-- Core instance of the shelf that holds a local address. -/
def shelfCore (a : Nat) : Option Nat :=
  if shelfBase ≤ a ∧ a < shelfEnd then some ((a - shelfBase) / shelfSlot) else none

/-- This device's number: 0xFFF before a join (R68, R402). -/
def deviceNumber (s : State) : Nat :=
  match s.member with
  | none => 0xFFF
  | some d => d.devices.getD (d.myGroup * d.members + d.myPosition) 0xFFF

/-- Device number of a domain address (R10). -/
def domainDevice (a : Nat) : Nat := a / 2 ^ 40 % 4096
/-- Local part of a domain address (R10). -/
def localPart (a : Nat) : Nat := a % 2 ^ 40
/-- Whether a domain address names a local byte (R68). -/
def isLocal (s : State) (a : Nat) : Bool := domainDevice a == 0xFFF || domainDevice a == deviceNumber s

/-- Bank of a held address: its key in `banks`, if it lies in a cellar or hub SRAM (R63, R376). -/
def bankKey (a : Nat) : Option Nat :=
  if a < cellarEnd then some (256 * (a / tileBytes) + a % tileBytes / 512 % 256)
  else if hubBase ≤ a ∧ a < hubBase + 2 * hubBytes then
    some (5120 + 64 * ((a - hubBase) / hubBytes) + (a - hubBase) % hubBytes / 0x400000)
  else none

/-- What the sweep takes a held address in: its bank, or its shelf (R76). -/
def sweepKey (a : Nat) : Option Nat :=
  match bankKey a with
  | some k => some k
  | none => (shelfCore a).map (5248 + ·)

/-! ### Sources (R302, R437) -/

def srcCore (c : Nat) : Nat := 0x1000 + c
def srcEngine (e : Nat) : Nat := 0x2000 + e
def srcLink (p : Nat) : Nat := 0x3000 + p
def srcColl (h : Nat) : Nat := 0x4000 + h
/-- A chute by 64 × port + chute. -/
def srcChute (i : Nat) : Nat := 0x5000 + i
def srcSlot (n : Nat) : Nat := 0x6000 + n
def srcTile (t : Nat) : Nat := 0x7000 + t
/-- A PCIe port: the class of its DMA function (notes/assumptions/10.md). -/
def srcPort (p : Nat) : Nat := 0x8000 + p
def srcHub (h : Nat) : Nat := 0x9000 + h
def srcMark (m : Nat) : Nat := 0xA000 + m
/-- Counter ID of a source and a number (R437). -/
def counterId (src num : Nat) : Nat := src * 65536 + num

/-! ### Effects -/

/-- One write of one part of the state. -/
inductive Eff where
  | started (l : List Instr)
  | port (p : Nat) (v : Port)
  | chute (i : Nat) (v : Chute)
  | host (p a : Nat) (bs : List Byte)
  | round (c i : Nat)
  | intake (l : List Nat)
  | hook (h : Nat) (v : Hook)
  | ready (l : List (Nat × Nat))
  | races (l : List (Hdr × Nat × Nat))
  | mark (i : Nat) (v : Word)
  | resets (l : List Reset)
  | status (v : Status)
  | mem (a : Nat) (bs : List Byte)
  | ecc (w : Nat) (v : Option Ecc)
  | glitches (l : List Nat)
  | region (i : Nat) (v : Option Region)
  | key (i : Nat) (v : Option KeySlot)
  | taint (c : Nat) (v : List Dword)
  | fills (l : List SlotFill)
  | bank (i : Nat) (v : Bank)
  | tile (t : Nat) (v : Tile)
  | hub (h : Nat) (v : HubInv)
  | core (c : Nat) (v : Core)
  | lane (l : Nat) (v : Lane)
  | rail (i : Nat) (v : RailState)
  | ramps (l : List Nat)
  | tables (v : Tables)
  | slot (i : Nat) (v : Slot)
  | link (i : Nat) (v : Link)
  | member (v : Option Domain)
  | joining (v : Option (Hdr × Domain))
  | twin (v : Twin)
  | xfers (l : List Xfer)
  | nextXid (v : Dword)
  | outbox (l : List Sent)
  | coll (h : Nat) (v : Coll)
  | engine (e : Nat) (v : Engine)
  | stream (i : Nat) (v : Stream)
  | flash (v : Flash)
  | firmware (v : Firmware)
  | stage (v : Option Stage)
  | power (v : Power)
  | mgmt (v : Mgmt)
  /-- A ledger record: event, source and data (R432). -/
  | ledger (event source : Nat) (data : List Byte)
  /-- A counter increment (R439). -/
  | count (id n : Nat)
  /-- A counter that keeps the largest value seen (SWEEP_DEBT_PEAK, R438). -/
  | countMax (id n : Nat)
  | clearCounter (id : Nat)
  | sensor (i : Nat) (v : Sensor)
  /-- A free value is drawn. -/
  | fresh
  /-- Every rail is removed: all state that power holds is lost (R446). -/
  | powerLost
  | edge (k : Nat) (v : Edge)
  | saves (v : List (Hdr × Nat))
  | kept (v : List (List Byte × List CratePart))
  | testedBanks (i v : Nat)
  | held (v : List Routed)
  /-- RESET_DEVICE unloads and clears the device (R304). -/
  | deviceReset

/-- Bytes of a record, 24 of data (R432). -/
def ledgerData (data : List Byte) : List Byte := (padTo 24 data).take 24

/-- The ledger keeps 16,384 records, newest first; each takes the next sequence number (R433). -/
def State.log (s : State) (event source : Nat) (data : List Byte) : State :=
  { s with
    ledger := (⟨s.ledgerNext, BitVec.ofNat 16 event, BitVec.ofNat 16 source, ledgerData data⟩ :: s.ledger).take 16384
    ledgerNext := s.ledgerNext + 1 }

/-- Largest value of a counter (R439). -/
def counterMax : Nat := 0xFFFFFFFFFFFF

/-- A counter increment: it sticks at the largest value, and the first saturation writes COUNTER_SATURATED (R439). -/
def State.bump (s : State) (id n : Nat) : State :=
  let c := s.counter id
  if c.value + n ≤ counterMax then
    { s with counters := Tab.put Counter.reset s.counters id ⟨c.value + n, c.sat⟩ }
  else
    let t := { s with counters := Tab.put Counter.reset s.counters id ⟨counterMax, true⟩ }
    if c.sat then t else t.log 0x0004 (id / 65536) (toLE 4 id)

/-- A counter raised to a value, if it is larger (R438). -/
def State.raiseTo (s : State) (id n : Nat) : State :=
  let c := s.counter id
  { s with counters := Tab.put Counter.reset s.counters id ⟨max c.value (min n counterMax), c.sat⟩ }

/-- Bytes written to host memory at consecutive bus addresses. -/
def putHost (t : Tab Byte) (p a : Nat) : List Byte → Tab Byte
  | [] => t
  | b :: bs => putHost (Tab.put 0 t (2 * a + p % 2) b) p (a + 1) bs

/-- Bytes written to device memory at consecutive local addresses of one view. -/
def putMem (t : Tab Byte) (a : Nat) : List Byte → Tab Byte
  | [] => t
  | b :: bs => putMem (Tab.put 0 t (phys a) b) (a + 1) bs

/-- STATUS with a patience of 0 refused (R403). -/
def keepPatience (old new : Status) : Status :=
  { new with
    bgPatience := if new.bgPatience = 0 then old.bgPatience else new.bgPatience
    bulkPatience := if new.bulkPatience = 0 then old.bulkPatience else new.bulkPatience }

/-- What is left when every rail is removed: the flash, the pins and the power's own latches, what lies outside the
device, and the model's own queue and free-value counter (R446, R378). -/
def State.powerLost (s : State) : State :=
  { State.reset with
    pending := s.pending
    host := s.host
    tiles := Tab.remap Tile.none (fun v => { v with rotationDue := false, exchange := none }) s.tiles
    hubs := s.hubs
    flash := s.flash
    firmware := s.firmware
    power := s.power
    ports := Tab.remap Port.reset (fun v => { Port.reset with
      perst := v.perst, refclk := v.refclk, dlUp := false, interrupts := v.interrupts, aerMessages := v.aerMessages }) s.ports
    links := Tab.remap Link.reset (fun v => { Link.reset with retired := v.retired, sheeted := v.sheeted }) s.links
    engines := Tab.remap Engine.reset (fun v => { Engine.reset with sheeted := v.sheeted }) s.engines
    colls := Tab.remap Coll.reset (fun v => { Coll.reset with retired := v.retired, sheeted := v.sheeted }) s.colls
    banks := Tab.remap Bank.reset (fun v => { Bank.reset with inPlace := v.inPlace }) s.banks
    edges := Tab.remap Edge.reset (fun v => { Edge.reset with half := v.half }) s.edges
    sensors := s.sensors
    outbox := s.outbox
    free := s.free }

/-- What is left of a port when the device is reset: its link, pins and configuration space, its MSI-X state and the log of its
interrupts (R304, R422). -/
def Port.deviceReset (v : Port) : Port :=
  { Port.reset with
    bar2Log2 := v.bar2Log2
    dlUp := v.dlUp
    flitMode := v.flitMode
    width := v.width
    speed := v.speed
    perst := v.perst
    refclk := v.refclk
    d3hot := v.d3hot
    busMaster := v.busMaster
    relaxedOrdering := v.relaxedOrdering
    maxPayload := v.maxPayload
    maxRead := v.maxRead
    completionTimeout := v.completionTimeout
    msixEnable := v.msixEnable
    msixMaskAll := v.msixMaskAll
    msixTable := v.msixTable
    msixMask := v.msixMask
    msixPending := v.msixPending
    interrupts := v.interrupts
    aerMasked := v.aerMasked
    aerFatal := v.aerFatal
    aerStatus := v.aerStatus
    aerMessages := v.aerMessages
    aerErrors := v.aerErrors }

/-- What RESET_DEVICE leaves (R304, R422): memory contents and taint, the inventory with fault and wear counts, banks and the cellar
test, rails and sensors, the ledger and counters, and the ports' links and configuration space. Chutes count one more enabling, so that
no packet of before replies. -/
def State.deviceReset (s : State) : State :=
  { State.reset with
    pending := s.pending
    host := s.host
    ports := Tab.remap Port.reset Port.deviceReset s.ports
    chutes := Tab.remap Chute.reset (fun v => { Chute.reset with epoch := v.epoch + 1 }) s.chutes
    status := { Status.reset with
      resetting := true
      tested := s.status.tested }
    mem := s.mem
    ecc := s.ecc
    glitches := s.glitches
    testedBanks := s.testedBanks
    edges := s.edges
    kept := s.kept
    taint := s.taint
    banks := s.banks
    tiles := Tab.remap Tile.none (fun v => { v with exchange := none }) s.tiles
    hubs := s.hubs
    cores := Tab.remap Core.reset (fun v => { Core.reset with
      wear := v.wear
      health := v.health
      condemned := v.condemned }) s.cores
    rails := s.rails
    ramps := s.ramps
    links := Tab.remap Link.reset (fun v => { Link.reset with
      retired := v.retired
      sheeted := v.sheeted
      txCount := v.txCount
      rxCount := v.rxCount
      sent := v.sent
      laneHealth := v.laneHealth
      sinceRetune := v.sinceRetune
      corrected := v.corrected
      faulted := v.faulted }) s.links
    colls := Tab.remap Coll.reset (fun v => { Coll.reset with
      steps := v.steps
      laneFaults := v.laneFaults
      retired := v.retired
      sheeted := v.sheeted }) s.colls
    engines := Tab.remap Engine.reset (fun v => { Engine.reset with
      sheeted := v.sheeted
      health := v.health }) s.engines
    nextXid := s.nextXid
    outbox := s.outbox
    flash := s.flash
    firmware := s.firmware
    power := s.power
    mgmt := { Mgmt.reset with
      pldmEvents := s.mgmt.pldmEvents
      responses := s.mgmt.responses }
    ledger := s.ledger
    ledgerNext := s.ledgerNext
    counters := s.counters
    sensors := s.sensors
    free := s.free }

/-- The state after one effect. -/
def applyEff (s : State) : Eff → State
  | .started l => { s with started := l }
  | .port p v => { s with ports := Tab.put Port.reset s.ports p v }
  | .chute i v => { s with chutes := Tab.put Chute.reset s.chutes i v }
  | .host p a bs => { s with host := putHost s.host p a bs }
  | .round c i => { s with rounds := Tab.put 0 s.rounds c i }
  | .intake l => { s with intake := l }
  | .hook h v => if 64 ≤ h ∧ h < 4096 then { s with hooks := Tab.put Hook.reset s.hooks h v } else s
  | .ready l => { s with ready := l }
  | .races l => { s with races := l }
  | .mark i v => { s with marks := Tab.put 0 s.marks i v }
  | .resets l => { s with resets := l }
  | .status v => { s with status := keepPatience s.status v }
  | .mem a bs => { s with mem := putMem s.mem a bs }
  | .ecc w v => { s with ecc := Tab.put none s.ecc w v }
  | .glitches l => { s with glitches := l }
  | .held v => { s with held := v }
  | .testedBanks i v => { s with testedBanks := Tab.put 0 s.testedBanks i v }
  | .kept v => { s with kept := v }
  | .saves v => { s with saves := v }
  | .region i v => { s with regions := Tab.put none s.regions i v }
  | .key i v => { s with keys := Tab.put none s.keys i v }
  | .taint c v => { s with taint := Tab.put [] s.taint c v }
  | .fills l => { s with fills := l }
  | .bank i v => { s with banks := Tab.put Bank.reset s.banks i v }
  | .tile t v => { s with tiles := Tab.put Tile.none s.tiles t v }
  | .hub h v => { s with hubs := Tab.put HubInv.reset s.hubs h v }
  | .core c v => { s with cores := Tab.put Core.reset s.cores c v }
  | .lane l v => { s with lanes := Tab.put Lane.reset s.lanes l v }
  | .rail i v => { s with rails := Tab.put RailState.reset s.rails i v }
  | .ramps l => { s with ramps := l }
  | .tables v => { s with tables := v }
  | .slot i v => { s with slots := Tab.put Slot.reset s.slots i v }
  | .link i v => { s with links := Tab.put Link.reset s.links i v }
  | .member v => { s with member := v }
  | .joining v => { s with joining := v }
  | .twin v => { s with twin := v }
  | .xfers l => { s with xfers := l }
  | .nextXid v => { s with nextXid := v }
  | .outbox l => { s with outbox := l }
  | .coll h v => { s with colls := Tab.put Coll.reset s.colls h v }
  | .engine e v => { s with engines := Tab.put Engine.reset s.engines e v }
  | .stream i v => { s with streams := Tab.put Stream.reset s.streams i v }
  | .flash v => { s with flash := v }
  | .firmware v => { s with firmware := v }
  | .stage v => { s with stage := v }
  | .power v => { s with power := v }
  | .mgmt v => { s with mgmt := v }
  | .ledger e src d => s.log e src d
  | .count id n => s.bump id n
  | .countMax id n => s.raiseTo id n
  | .clearCounter id => { s with counters := Tab.put Counter.reset s.counters id Counter.reset }
  | .edge k v => { s with edges := Tab.put Edge.reset s.edges k v }
  | .sensor i v => { s with sensors := Tab.put Sensor.reset s.sensors i v }
  | .fresh => { s with free := s.free + 1 }
  | .powerLost => s.powerLost
  | .deviceReset => s.deviceReset

/-- The state after a list of effects. -/
def applyAll : List Eff → State → State
  | [], s => s
  | e :: es, s => applyAll es (applyEff s e)

/-- What an activity does in a state. -/
abbrev Act := State → List Eff

/-- No effect. -/
def Act.none : Act := fun _ => []

/-- Given effects. -/
def Act.of (es : List Eff) : Act := fun _ => es

/-- One activity, then another in the state it leaves. -/
def Act.seq (a b : Act) : Act := fun s => a s ++ b (applyAll (a s) s)

/-- Activities one after another. -/
def Act.all : List Act → Act
  | [] => Act.none
  | a :: as => Act.seq a (Act.all as)

/-- An activity for each item, in order. -/
def Act.each {α : Type} (f : α → Act) (l : List α) : Act := Act.all (l.map f)

/-- An activity that reads the state first. -/
def Act.look {α : Type} (f : State → α) (k : α → Act) : Act := fun s => k (f s) s

/-- An activity where a condition holds. -/
def Act.when (c : Bool) (a : Act) : Act := if c then a else Act.none

/-- The outcome of an activity. -/
def Act.run (a : Act) (s : State) : Host.Outcome State Fault Refusal := .next (applyAll (a s) s)

/-- A ledger record (R436). -/
def logAct (event source : Nat) (data : List Byte) : Act := Act.of [.ledger event source data]

/-- A counter increment. -/
def bumpAct (src num n : Nat) : Act := Act.of [.count (counterId src num) n]

/-- Whether a reference clock runs: without one no island does (R23). -/
def clocked (s : State) : Bool := s.power.rails && ((s.port 0).refclk || (s.port 1).refclk)

/-! ### Host memory -/

/-- `n` bytes of host memory from a bus address. -/
def hostBytes (s : State) (p a n : Nat) : List Byte := (List.range n).map (fun i => s.hostByte p (a + i))

/-! ### Gated domains (R31) -/

/-- Whether a local range reaches the cellar of tile `t`. -/
def touchesTile (a n t : Nat) : Bool :=
  if isInter a then
    let g := (a - interBase) / 4096
    decide ((t + 20 - g % 20) % 20 ≤ (a - interBase + n - 1) / 4096 - g)
  else decide (a < (t + 1) * tileBytes) && decide (t * tileBytes < a + n)

/-- Whether a local range reaches a rail domain, by source ID: a tile's cellar, or a core's shelf, behind its tile's crossbar (R26). -/
def touchesDomain (a n i : Nat) : Bool :=
  decide (0 < n) &&
    match shelfCore a with
    | some c => i == srcCore c || i == srcTile (c / 16)
    | none => decide (0x7000 ≤ i) && decide (i < 0x7014) && touchesTile a n (i - 0x7000)

/-- A gated domain that a request reaches returns to V_LO, and the request is then served (R31). -/
def wakeDomain (i : Nat) : Act := fun s =>
  if (s.rail i).rail = .gated then [.rail i ⟨.vlo, false⟩] else []

/-- The gated domains that an access to a range reaches. -/
def wakeRange (a n : Nat) : Act := fun s =>
  (s.rails.filter (fun x => x.2.rail == .gated && touchesDomain a n x.1)).map (fun x => .rail x.1 ⟨.vlo, false⟩)

/-! ### Device memory and its ECC words -/

/-- `n` bytes from a local address, as stored. -/
def memBytes (s : State) (a n : Nat) : List Byte := (List.range n).map (fun i => s.byte (phys (a + i)))

/-- The address of a held word in the view of a range. -/
def inView (a w : Nat) : Nat := if isInter a && decide (8 * w < cellarEnd) then interleave (8 * w) else 8 * w

/-- Insert by rising first component. -/
def insertByFst {α : Type} (x : Nat × α) : List (Nat × α) → List (Nat × α)
  | [] => [x]
  | y :: t => if x.1 ≤ y.1 then x :: y :: t else y :: insertByFst x t

/-- Words with a stored error that a range touches: address in the range's view, and the word, lowest first. -/
def eccIn (s : State) (a n : Nat) : List (Nat × Nat × Ecc) :=
  s.ecc.foldl (fun acc x =>
    match x.2 with
    | none => acc
    | some e =>
      let v := inView a x.1
      if a < v + 8 ∧ v < a + n then insertByFst (v, x.1, e) acc else acc) []

/-- Ledger source, counters (corrected, uncorrectable) of the unit that holds an address (R436, R438). -/
def eccUnit (a : Nat) : Nat × Nat × Nat :=
  if a < cellarEnd then (srcTile (a / tileBytes), 2, 3)
  else match shelfCore a with
    | some c => (srcCore c, 10, 14)
    | none => (srcHub ((a - hubBase) / hubBytes), 0, 1)

/-- Whether an operation count and the marks of the last two faults make the next fault the third within 2^24 (R375). -/
def thirdFault (h : Health) : Bool :=
  match h.faults with
  | [f, _] => decide (h.ops - f < 2 ^ 24)
  | _ => false

/-- A fault event: its mark joins the last two (R375). -/
def Health.fault (h : Health) : Health := { h with faults := (h.faults ++ [h.ops]).drop (h.faults.length - 1) }

/-- Operations on a bank between the sweep's slots are the foreground's, whose slots the spec does not count for each
access: a free number (notes/assumptions/11.md). -/
def bankOps (s : State) (b : Bank) : Bank := { b with health := { b.health with ops := b.health.ops + Config.free s.free } }

/-- The 96-byte sweep slots of a bank of 24 MiB, of a hub bank of 4 MiB, and of a shelf of 32 MiB (R17, R65, R76, R376). -/
def bankSlots (k : Nat) : Nat := if k < 5120 then 262144 else if k < 5248 then 43691 else 349526

/-- Sweep debt of a bank: slots of queued write-backs and of what is left of a copy (R316). -/
def sweepDebt (k : Nat) (b : Bank) : Nat :=
  b.writeBacks.length + (match b.copy with
    | some (n, _) => bankSlots k - n
    | none => 0)

/-- A bank whose debt has grown: its cellar keeps the largest debt seen (R316, R438). -/
def bankGrown (k : Nat) (b : Bank) : List Eff :=
  .bank k b :: (if k < 5120 then [.countMax (counterId (srcTile (k / 256)) 4) (sweepDebt k b)] else [])

/-- Spares left for a bank key. -/
def bankSpares (s : State) (k : Nat) : Nat :=
  if k < 5120 then (s.tile (k / 256)).bankSpares.getD (k % 256 / 64) 0 else (s.hub ((k - 5120) / 64)).spares

/-- Ledger source and unit index of a bank (R436). -/
def bankSource (k : Nat) : Nat × Nat :=
  if k < 5120 then (srcTile (k / 256), k % 256) else (srcHub ((k - 5120) / 64), (k - 5120) % 64)

/-- One more unit sheeted in service: the flash's counts (R378, R379). -/
def sheetCount (s : State) : Eff :=
  .flash { s.flash with sheetedInService := s.flash.sheetedInService + 1 }

/-- A bank of a layer or hub without a spare is sheeted in place (R377). -/
def sheetInPlace (k reason : Nat) (b : Bank) : Act := fun s =>
  let su := bankSource k
  [.bank k { b with inPlace := true }, .ledger 0x0101 su.1 (toLE 2 su.2 ++ [BitVec.ofNat 8 reason]), sheetCount s]
  ++ (if k < 5120 then
        let t := s.tile (k / 256)
        [.tile (k / 256) { t with inPlace := t.inPlace.modify (k % 256 / 64) (· + 1) }]
      else let h := s.hub ((k - 5120) / 64)
        [.hub ((k - 5120) / 64) { h with inPlace := h.inPlace + 1 }])

/-- A bank that becomes permanently faulty: its copy to a spare starts, or it is sheeted in place (R77, R376, R377). -/
def retireBank (k reason : Nat) : Act := fun s =>
  let b := s.bank k
  let su := bankSource k
  if b.inPlace ∨ b.copy.any (fun x => !x.2) = true then []
  else if 0 < bankSpares s k then
    bankGrown k { b with copy := some (0, false) } ++ [.ledger 0x0101 su.1 (toLE 2 su.2 ++ [BitVec.ofNat 8 reason]), sheetCount s]
    ++ (if k < 5120 then
          let t := s.tile (k / 256)
          [.tile (k / 256) { t with bankSpares := t.bankSpares.modify (k % 256 / 64) (· - 1) }]
        else let h := s.hub ((k - 5120) / 64)
          [.hub ((k - 5120) / 64) { h with spares := h.spares - 1 }])
  else sheetInPlace k reason b s

/-- The bank of a word has served what the foreground asked of it since. -/
def bankCatchUp (w : Nat) : Act := fun s =>
  match bankKey (8 * w) with
  | some k => [.bank k (bankOps s (s.bank k)), .fresh]
  | none => []

/-- A fault of a bank: its mark, and retirement at the third within 2^24 operations (R75, R375). -/
def bankFault (k : Nat) : Act := fun s =>
  let b := s.bank k
  Act.seq (Act.of [.bank k { b with health := b.health.fault }])
    (if thirdFault b.health then retireBank k 1 else Act.none) s

/-- A fault event of a core (R375): its mark; a permanent fault condemns the core (R378). -/
def coreFault (c : Nat) : Act := fun s =>
  let k := s.core c
  [.core c { k with
    health := k.health.fault
    condemned := k.condemned || thirdFault k.health }]

/-- A fault event of the unit that holds a word: its bank, or for a shelf word its core (R75, R375, R376). -/
def eccFault (w : Nat) : Act := match bankKey (8 * w) with
  | some k => bankFault k
  | none => match shelfCore (8 * w) with
    | some c => coreFault c
    | none => Act.none

/-- The TRANSIENT record of a word, with its unit's operation count: a core's, or a bank's (R375, R376, R436). -/
def eccRecord (w : Nat) : Act := Act.seq (bankCatchUp w) (fun s =>
  let n := match shelfCore (8 * w), bankKey (8 * w) with
    | some c, _ => (s.core c).health.ops
    | none, some k => (s.bank k).health.ops
    | none, none => 0
  [.ledger 0x0100 (eccUnit (8 * w)).1 (toLE 8 n ++ [1])])

/-- A single-bit error is corrected (R74): its count and record, and for a shelf word a contained fault of the core (R376). -/
def eccCorrected (w : Nat) : Act :=
  let u := eccUnit (8 * w)
  Act.all [Act.of [.count (counterId u.1 u.2.1) 1], eccRecord w, Act.when (bankKey (8 * w)).isNone (eccFault w)]

/-- A read meets a word with a stored error (R74, R75): correction and write-back, a retry that passes, or an
uncorrectable word, counted and recorded once. -/
def meetWord (w : Nat) : Act := fun s =>
  let u := eccUnit (8 * w)
  match Tab.look none s.ecc w with
  | none => []
  | some .single =>
    Act.seq (eccCorrected w) (fun s => match sweepKey (8 * w) with
        | none => []
        | some k =>
          let b := s.bank k
          if b.writeBacks.contains w then [] else bankGrown k { b with writeBacks := b.writeBacks ++ [w] }) s
  | some .transient => Act.all [Act.of [.ecc w none], eccRecord w, eccFault w] s
  | some (.double true) => []
  | some (.double false) =>
    Act.seq (Act.of [.ecc w (some (.double true)), .count (counterId u.1 u.2.2) 1,
        .ledger 0x0102 u.1 (toLE 8 (8 * w))]) (Act.seq (bankCatchUp w) (eccFault w)) s

/-- A read of a range: every word with a stored error is met, lowest address first. -/
def meetRange (a n : Nat) : Act :=
  Act.seq (wakeRange a n) (fun s => Act.each (fun x => meetWord x.2.1) (eccIn s a n) s)

/-- Uncorrectable words of a range: their addresses in the range's view, lowest first. -/
def badWords (s : State) (a n : Nat) : List Nat :=
  (eccIn s a n).filterMap (fun x => match x.2.2 with
    | .double _ => some x.1
    | _ => none)

/-- Uncorrectable words that a write of a range covers only in part: these are not written (R74). -/
def badPartial (s : State) (a n : Nat) : List Nat :=
  (badWords s a n).filter (fun v => !(decide (a ≤ v) && decide (v + 8 ≤ a + n)))

/-- A write to device memory: whole words take a fresh codeword, a partial word is read first, and a word that stays
uncorrectable is not written (R74, R75). -/
def storeMem (a : Nat) (bs : List Byte) : Act := fun s =>
  let n := bs.length
  let ws := eccIn s a n
  let bad := badPartial s a n
  let out := if bad.isEmpty then bs else
    bs.mapIdx (fun i b => if bad.any (fun v => decide (v ≤ a + i) && decide (a + i < v + 8)) then s.byte (phys (a + i)) else b)
  Act.all [wakeRange a n,
    Act.each (fun x => if a ≤ x.1 ∧ x.1 + 8 ≤ a + n then Act.of [.ecc x.2.1 none]
      else Act.seq (meetWord x.2.1) (match x.2.2 with
        | .double _ => Act.none
        | _ => Act.of [.ecc x.2.1 none])) ws,
    Act.of [.mem a out]] s

end Sys2Proof.Machine
end

