-- ==== Sys2Proof/Machine/Routes.lean ====
section
/-! DEFINITION. Sys2Proof/Machine/Routes.lean: which link ports reach another device (R331 to R333), the flits that carry
messages (R320 to R322, R325) and the messages that this device hands to the links (R328). -/
namespace Sys2Proof.Machine

/-! ### Roles and routes -/

/-- Group and position of a device of the domain table (R336). -/
def Domain.place (d : Domain) (dev : Nat) : Option (Nat × Nat) :=
  (d.devices.findIdx? (· == dev)).map (fun i => (i / d.members, i % d.members))

/-- Device number of a member. -/
def Domain.device (d : Domain) (g p : Nat) : Nat := d.devices.getD (g * d.members + p) 0xFFF

/-- Ports that join position `me` of a group to position `k` of it (R331). -/
def groupPorts (me k : Nat) : List Nat := let j := (k + 7 - me) % 8; [j, 8 + j]

/-- Ports that a member's role requires (R331, R337). -/
def Domain.ports (d : Domain) : List Nat :=
  ((List.range d.members).filter (· != d.myPosition)).flatMap (groupPorts d.myPosition)
    ++ (if 1 < d.groups then [7, 15] else [])

/-- The member at the other end of a port (R331). -/
def Domain.peer (d : Domain) (port : Nat) : Nat × Nat :=
  if port = 7 then ((d.myGroup + 1) % d.groups, d.myPosition)
  else if port = 15 then ((d.myGroup + d.groups - 1) % d.groups, d.myPosition)
  else (d.myGroup, (d.myPosition + port % 8 + 1) % 8)

/-- Whether a link port is UP (R334). -/
def State.up (s : State) (p : Nat) : Bool := (s.link p).state == .up

/-- Ports that traffic to a device may take, those of one route (R332, R333), for a message that came in by port `came`, if it came from
another device: on a ring it goes on the way it goes. Whether a member of the group reaches the other end is not part of this device's
state: a free value (notes/assumptions/17.md). -/
def routePorts (s : State) (came : Option Nat) (dev : Nat) : List Nat :=
  match s.member with
  | none => []
  | some d =>
    match d.place dev with
    | none => []
    | some (g, k) =>
      if g = d.myGroup then
        let direct := (groupPorts d.myPosition k).filter s.up
        if !direct.isEmpty then direct
        else
          (((List.range d.members).filter (fun m => m != d.myPosition && m != k
              && Config.relayReaches s.free (d.device g m) dev)).map (fun m =>
            (groupPorts d.myPosition m).filter s.up)).find? (fun l => !l.isEmpty) |>.getD []
      else
        let f := (g + d.groups - d.myGroup) % d.groups
        let way : List Nat :=
          if came = some 15 then [7, 15] else if came = some 7 then [15, 7] else if f ≤ d.groups - f then [7, 15] else [15, 7]
        ((way.find? s.up).map (fun p => [p])).getD []

/-- Whether this device can reach another (R333). -/
def reachable (s : State) (dev : Nat) : Bool := !(routePorts s none dev).isEmpty

/-- Whether a message goes toward the next group by its own way round the ring, from group `g` to group `k`: a bin-path SUM message by
the hub of its chunk (R346), any other the shorter way, ties going to P7 (R332). -/
def ownWay (d : Domain) (b : List Byte) (g k : Nat) : Bool :=
  if fieldLE b 0 1 = 5 ∧ bit (fieldLE b 42 1) 3 = false then fieldLE b 8 1 % 2 == 0
  else let f := (k + d.groups - g) % d.groups; decide (f ≤ d.groups - f)

/-- Whether a message on a ring segment that leads to group `next`, toward the next group or the previous one, takes the upper half of the
buffers, by its header: once it has crossed the dateline between the last group and group 0. One that goes the other way round than its
own, because a segment of that is down (R333), stays in the upper half all the way (R327; DEDUCED, notes/assumptions/17.md). -/
def upperHalf (d : Domain) (forward : Bool) (next : Nat) (b : List Byte) : Bool :=
  match d.place (fieldLE b 4 2), d.place (fieldLE b 6 2) with
  | some (g, _), some (k, _) =>
    if ownWay d b g k != forward then true else if forward then decide (next < g) else decide (g < next)
  | _, _ => false

/-- The half of the buffers of the device at the other end of a ring port that a message goes into (R327). -/
def goesUpper (s : State) (p : Nat) (b : List Byte) : Bool :=
  s.member.any (fun d => (p == 7 || p == 15) && upperHalf d (p == 7) (d.peer p).1 b)

/-- The half of this device's buffers that a message from a ring port has come into (R327). -/
def comesUpper (s : State) (p : Nat) (b : List Byte) : Bool :=
  s.member.any (fun d => (p == 7 || p == 15) && upperHalf d (p == 15) d.myGroup b)

/-! ### Flits -/

/-- Good lanes that a port may use (R320, R323, R324, R335). -/
def Link.active (l : Link) : List Nat :=
  (List.range 8).filter (fun i => l.laneMask.getLsbD i && !l.retired.getLsbD i && (match l.retuning with
    | some j => decide (j.val ≠ i)
    | none => true))

/-- The mask of active lanes. -/
def Link.activeMask (l : Link) : Nat := (l.active.map (2 ^ ·)).sum

/-- Lanes over which slot `t` is striped: a retired lane up to its t0 with the others (R323). -/
def Link.striped (l : Link) (t : Nat) : List Nat :=
  (List.range 8).filter (fun i => l.active.contains i || l.leaving.any (fun x => x.1 == i && decide (t < x.2)))

/-- The lane that the `t`-th flit takes (R320). -/
def Link.laneOf (l : Link) (t : Nat) : Nat :=
  let a := l.striped t
  if a.isEmpty then 0 else a.getD (t % a.length) 0

/-- A lane has carried one more flit (R323, R324). -/
def Link.carry (l : Link) (i : Nat) : Link :=
  let h := Tab.look Health.reset l.laneHealth i
  { l with
    laneHealth := Tab.put Health.reset l.laneHealth i { h with ops := h.ops + 1 }
    sinceRetune := Tab.put 0 l.sinceRetune i (Tab.look 0 l.sinceRetune i + 1) }

/-- SEQ of the oldest VC1 flit in the receive buffers: an addition step that its messages belong to has not passed its check (R351). -/
def Link.unready (l : Link) : Option Half := (l.rx.find? (fun x => x.vc == 1)).map (·.seq)

/-- SEQ that the port acknowledges: the last data flit received in order, but for those of VC1 that are not ready; a NAK names the last
good one (R322, R351). -/
def Link.ackSeq (l : Link) : Half := if l.nak then l.rxSeq - 1 else (l.unready.getD l.rxSeq) - 1

/-- Whether that SEQ is an acknowledgement too. -/
def Link.acks (l : Link) : Bool := l.ackValid && !(l.nak && l.unready.isSome)

/-- Whether the flit `a` is at or before flit `b` in SEQ order. -/
def seqUpTo (a b : Half) : Bool := decide ((b - a).toNat < 2 ^ 15)

/-- Bytes of a flit (R321): its VC and type, with the port's acknowledgement and owed credits (R326). -/
def Link.flitBytes (l : Link) (seq vc typ : Nat) (body : List Byte) : List Byte :=
  let b := toLE 2 seq ++ [BitVec.ofNat 8 (64 * vc + 16 * typ), 0] ++ toLE 2 l.ackSeq.toNat
    ++ [BitVec.ofNat 8 (128 * b2n l.nak + 64 * b2n l.acks), 0]
    ++ (List.range 4).flatMap (fun v => toLE 2 (l.owedCredits.getD v 0)) ++ (padTo 236 body).take 236
  b ++ toLE 4 (crc32 b)

/-- A flit goes out: the owed credits and NAK go with it (R322, R326); in loopback it is on its way back (R335).
DESIGN CHOICE (notes/assumptions/17.md): CREDIT carries what became free since the last flit, once, and what a discarded flit carried
is lost; R325 does not say whether it counts on. -/
def Link.emit (l : Link) (seq vc typ : Nat) (body : List Byte) : Link :=
  let l' := l.carry (l.laneOf l.txCount)
  let f := l.flitBytes seq vc typ body
  { l' with
    sent := l.sent ++ [f]
    looped := if l.loopback then l.looped ++ [f] else l.looped
    txCount := l.txCount + 1
    controlGap := if typ = 1 then 0 else min 16 (l.controlGap + 1)
    owedCredits := [0, 0, 0, 0]
    nak := false }

/-- A data flit takes the next SEQ, a credit and a place in the replay buffer (R322, R325). -/
def Link.emitData (l : Link) (vc : Nat) (upper : Bool) (msgs : List Routed) (body : List Byte) : Link :=
  let l' := l.emit l.txSeq.toNat vc 0 body
  { l' with
    txSeq := l.txSeq + 1
    replay := l.replay ++ [⟨l.txSeq, vc, padTo 236 body, msgs⟩]
    credits := l.credits.modify vc (· - 1)
    lent := l.lent ++ [(vc, upper)] }

/-- Half of a ring port's buffer of VC0 or VC1, in flits (R325, R327). -/
def halfFlits : Nat := 256

/-- Whether a half of the other end's buffer of a VC takes no more flits (R325, R327). -/
def Link.halfFull (l : Link) (ring : Bool) (v : Nat) (upper : Bool) : Bool :=
  ring && decide (v ≤ 1) && decide (halfFlits ≤ (l.lent.filter (· == (v, upper))).length)

/-- The message of a VC that sends next, by its place among the waiting ones: one in progress, else the first of the best rank among those
whose half of the buffers has room (R321, R326, R327). -/
def Link.next (l : Link) (ring : Bool) (v : Nat) : Option (Nat × LinkMsg) :=
  let ms := (l.waiting.zipIdx.filter (fun x => x.1.vc == v)).map (fun x => (x.2, x.1))
  match ms.find? (fun x => x.2.begun) with
  | some x => if l.halfFull ring v x.2.upper then none else some x
  | none =>
    let ok := ms.filter (fun x => !l.halfFull ring v x.2.upper)
    let best := ok.foldl (fun a x => min a x.2.rank) ((ok.head?).elim 0 (·.2.rank))
    ok.find? (fun x => x.2.rank == best)

/-- The next message of a VC, if a flit of it may go: there is replay space and a credit (R322, R325). -/
def Link.ready (l : Link) (ring : Bool) (v : Nat) : Option LinkMsg :=
  if 1024 ≤ l.replay.length ∨ l.credits.getD v 0 = 0 then none else (l.next ring v).map (·.2)

/-- A body of a VC: bytes of its consecutive messages of one half, up to `room`, with those messages and what is left to send (R321). `n`
bounds the messages. -/
def Link.fill (ring : Bool) (v : Nat) (upper : Bool) : Nat → Nat → Link → List Byte × List Routed × Link
  | 0, _, l => ([], [], l)
  | n + 1, room, l =>
    match l.next ring v with
    | none => ([], [], l)
    | some (i, m) =>
      if room = 0 ∨ m.upper ≠ upper then ([], [], l)
      else if m.bytes.length ≤ room then
        let r := Link.fill ring v upper n (room - m.bytes.length) { l with waiting := l.waiting.eraseIdx i }
        (m.bytes ++ r.1, m.msg :: r.2.1, r.2.2)
      else (m.bytes.take room, [m.msg], { l with
        waiting := l.waiting.set i { m with begun := true, bytes := m.bytes.drop room } })

/-- A flit of a VC goes out. -/
def Link.sendFrom (l : Link) (ring : Bool) (v : Nat) (m : LinkMsg) : Link :=
  let r := Link.fill ring v m.upper (l.waiting.length + 1) 236 l
  r.2.2.emitData v m.upper r.2.1 r.1

/-- The VC of the next data flit (R326): VC2; VC0 or VC1 where its share of 1 slot in 8 is due; VC3; the one of VC1 and VC0 whose message
ranks higher, ties going to VC1. In VERIFY only identities go out (R334). -/
def Link.choose (l : Link) (ring : Bool) : Option (Nat × LinkMsg) :=
  let r (v : Nat) : Option (Nat × LinkMsg) := (l.ready ring v).map (fun m => (v, m))
  let due (v : Nat) : Option (Nat × LinkMsg) := if 6 ≤ l.shares.getD v 0 then r v else none
  match l.state with
  | .up =>
    (r 2).or ((if l.shares.getD 0 0 ≤ l.shares.getD 1 0 then (due 1).or (due 0) else (due 0).or (due 1)).or ((r 3).or (match r 1, r 0 with
      | some x, some y => some (if y.2.rank < x.2.rank then y else x)
      | x, y => x.or y)))
  | .verify => r 3
  | _ => none

/-- The pass-overs of VC0 and VC1 after a slot that neither link control nor VC2 took (R326). -/
def Link.share (l : Link) (ring : Bool) (took : Option Nat) : Link :=
  { l with shares := [0, 1].map (fun v =>
      if took = some v ∨ (l.ready ring v).isNone then 0 else l.shares.getD v 0 + 1) }

/-- One flit slot (R326): link control, at most once in 16 slots, or a data flit; where link control only waits for its slot, an idle
flit. None where nothing is to be sent. -/
def Link.slot (l : Link) (ring : Bool) : Option Link :=
  let live := l.state == .up || l.state == .verify
  match (if live then l.control else []), l.choose ring with
  | b :: rest, c =>
    if 15 ≤ l.controlGap then some { l.emit 0 0 1 b with
      control := rest
      controlSent := l.controlSent ++ [(b, l.txSeq)] }
    else match c with
      | some (v, m) => some ((if v = 2 then l else l.share ring (some v)).sendFrom ring v m)
      | none => some ((l.share ring none).emit 0 0 2 [])
  | [], some (v, m) => some ((if v = 2 then l else l.share ring (some v)).sendFrom ring v m)
  | [], none => none

/-- Flits go out while they can; the number of them with the port. -/
def Link.pump (ring : Bool) : Nat → Link → Link × Nat
  | 0, l => (l, 0)
  | n + 1, l =>
    match l.slot ring with
    | none => (l, 0)
    | some l' =>
      let r := Link.pump ring n l'
      (r.1, r.2 + 1)

/-- Enough slots for everything that waits. -/
def Link.slots (l : Link) : Nat := (l.waiting.map (fun m => ceilDiv m.bytes.length 236)).sum + 16 * (l.control.length + 1)

/-- Whether a port's buffers are split for a ring (R327). -/
def ringPort (s : State) (p : Nat) : Bool := (p == 7 || p == 15) && s.member.any (fun d => decide (1 < d.groups))

/-- What waits at a port goes out while it can; an idle flit carries what is owed when nothing else does (R326). Without a reference
clock no flit moves (R23). -/
def pumpPort (p : Nat) (owed : Bool) : Act := fun s =>
  let l := s.link p
  if !clocked s then []
  else
    let r := l.pump (ringPort s p) l.slots
    let idle := r.2 = 0 ∧ owed = true
    let l' := if idle then r.1.emit 0 0 2 [] else r.1
    let n := if idle then 1 else r.2
    .link p l' :: (if n = 0 then [] else [.count (counterId (srcLink p) 0) n])

/-- A port takes a message. -/
def pushPort (port : Nat) (m : LinkMsg) : Act := fun s =>
  let l := s.link port
  Act.seq (Act.of [.link port { l with waiting := l.waiting ++ [m] }]) (pumpPort port false) s

/-! ### Messages -/

/-- The 32-byte header of a message (R328). -/
def msgHeader (kind flags length src dst addr xid ctr : Nat) : List Byte :=
  toLE 1 kind ++ toLE 1 flags ++ toLE 2 length ++ toLE 2 src ++ toLE 2 dst ++ toLE 8 addr ++ toLE 8 xid ++ toLE 8 ctr

/-- A WRITE, READ, DATA or ACK message (R328); an ACK of LENGTH 1 asks for the message again, and the key ID after the tag is the model's
(notes/assumptions/17.md). -/
def memBytesOf (kind : Nat) (m : Msg) : List Byte :=
  msgHeader kind (b2n m.sealed + 2 * b2n m.refused + 4 * b2n m.causeSealing) (if m.again then 1 else m.length.toNat) m.src.toNat
      m.dst.toNat m.addr.toNat m.xid.toNat m.ctr.toNat
    ++ padTo (roundUp 4 m.data.length) m.data ++ (if m.sealed then m.gcmTag ++ toLE 4 m.keyId.toNat else [])

/-- Codes of what a SUM or DWAIT message carries (notes/assumptions/17.md). -/
def sumCode : SumKind → Nat
  | .grant => 0
  | .exponents => 1
  | .integers => 2
  | .agreed => 3
  | .total => 4

/-- Codes of what a SUM or DWAIT message asks or says of another one (notes/assumptions/17.md). -/
def answerCode : SumAnswer → Nat
  | .no => 0
  | .again => 1
  | .refused => 2

/-- A SUM or DWAIT message, as its channel has it (R325, R328, R341, R349): after the header n, the CRC of the member set, the first element
and what it carries (the layout is the model's, notes/assumptions/17.md). -/
def sumBytesOf (m : SumMsg) : List Byte :=
  msgHeader (if m.vc = 2 then 6 else 5) (b2n m.sealed) m.data.length m.src.toNat m.dst.toNat m.chunk m.id.toNat m.ctr.toNat
    ++ toLE 4 m.n.toNat ++ toLE 4 m.setCrc.toNat ++ toLE 2 m.first
    ++ toLE 1 (sumCode m.kind + 8 * b2n m.dumbwaiter + 16 * answerCode m.answer) ++ toLE 5 0
    ++ padTo (roundUp 4 m.data.length) m.data ++ (if m.sealed then m.gcmTag ++ toLE 4 m.keyId.toNat else [])

/-- Device that a message goes to. -/
def Sent.target : Sent → Option Nat
  | .mem _ m => some m.dst.toNat
  | .sum m => some m.dst.toNat
  | .restart _ d _ => some d
  | .ended _ d _ _ => some d
  | .landing _ d _ _ _ => some d
  | .domain _ => none
  | .twin _ _ _ _ => some 0xFFF

/-- The chunk of a collective that a message of a device belongs to (R348). -/
def Sent.chunk : Sent → Option (Dword × Nat)
  | .sum x => some (x.id, x.chunk)
  | _ => none

/-- VC of a message (R325). -/
def Sent.channel : Sent → Nat
  | .mem _ _ => 0
  | .sum m => m.vc
  | _ => 3

/-- Bytes of a message. -/
def sentBytes (s : State) (m : Sent) : List Byte :=
  let me := deviceNumber s
  match m with
  | .mem k x => memBytesOf k x
  | .sum x => sumBytesOf x
  | .domain p => match s.member.or (s.joining.map (·.2)) with
    | some d => msgHeader 8 0 0 (d.device d.myGroup d.myPosition) (d.device (d.peer p).1 (d.peer p).2) (d.myGroup + 256 * d.myPosition)
        d.id.toNat 0
    | none => msgHeader 8 0 0 me 0xFFF 0 0 0
  | .twin k v more b => msgHeader 7 0 b.length me 0xFFF (k + 256 * b2n more) v 0 ++ padTo (roundUp 4 b.length) b
  | .restart a d n => msgHeader 7 0 0 a d (0x1000 + n) 0 0
  | .ended a d n k => msgHeader 7 0 0 a d (0x3000 + 16 * k + n) 0 0
  | .landing a d n i x => msgHeader 7 0 8 a d (0x2000 + n) i 0 ++ toLE 8 x.toNat

/-- Ports of a SUM or DWAIT message: of the two cables to a member, that of the hub that serves the chunk; on the ring a chunk of hub A goes
toward the next group and one of hub B toward the previous one, its grants among it (R345, R346), and a dumbwaiter's message the shorter way
(R332, R354). Where that hub's port is not UP the other takes its traffic (R333). -/
def sumPorts (s : State) (came : Option Nat) (m : SumMsg) : List Nat :=
  let way : Option Nat := if m.dumbwaiter then none else some (if m.chunk % 2 = 0 then 15 else 7)
  let l := routePorts s (came.or way) m.dst.toNat
  let mine := l.filter (fun p => p / 8 == m.chunk % 2)
  if mine.isEmpty then l else mine

/-- Ports that a message may take: the named port for an identity, the twin ports for a message to the partner (R332, R391), those of the
route otherwise. -/
def sentPorts (s : State) (came : Option Nat) (m : Sent) : List Nat :=
  match m with
  | .domain p => [p]
  | .sum x => sumPorts s came x
  | _ => match m.target with
    | none => []
    | some d => if d = 0xFFF then [7, 15].filter s.up else routePorts s came d

/-- The message as a port keeps it until it is sent (R326); on VC2 the dumbwaiter's go before exponent words of the bin path (R354). -/
def linkMsg (s : State) (p : Nat) (r : Routed) : LinkMsg where
  vc := r.msg.channel
  rank := if r.msg.channel = 2 then (match r.msg with
      | .sum x => b2n (!x.dumbwaiter)
      | _ => 1)
    else if r.msg.channel = 3 then 0 else r.cls
  upper := goesUpper s p (sentBytes s r.msg)
  begun := false
  msg := r
  bytes := sentBytes s r.msg

/-- A message takes a port: the two of a route alternate in message order (R332). Where no port of a route is UP it waits for one (R333). -/
def route (r : Routed) : Act := fun s =>
  let ps := sentPorts s r.came r.msg
  match ps[(s.outbox.filter (fun x => x.target == r.msg.target)).length % ps.length]? with
  | none => [.held (s.held ++ [r])]
  | some p => pushPort p (linkMsg s p r) s

/-- A message of class `cls` is handed to the links, having come in by port `came` where it is another device's. -/
def sendFrom (cls : Nat) (came : Option Nat) (m : Sent) : Act := fun s =>
  .outbox (s.outbox ++ [m]) :: route ⟨cls, came, m⟩ s

/-- Messages that waited for a port of a route look for one again (R333). -/
def routeHeld : Act := fun s => Act.seq (Act.of [.held []]) (Act.each route s.held) s

/-- Whether a message is one of a port, whichever way it could go otherwise: its identity. -/
def Sent.ofPort : Sent → Bool
  | .domain _ => true
  | .twin k _ _ _ => k == 0
  | _ => false

/-- Messages that a port which is not UP holds take another way: those of which nothing has gone yet, and where the port is sheeted those
too that are not wholly acknowledged (R333; DEDUCED, notes/assumptions/17.md). -/
def rerouteFrom (p : Nat) : Act := fun s =>
  let l := s.link p
  let moves (m : LinkMsg) : Bool := !m.msg.msg.ofPort && (!m.begun || l.sheeted)
  let back := if l.sheeted then ((l.replay.flatMap (·.msgs)).filter (fun r => !r.msg.ofPort)).eraseDups else []
  let ms := ((l.waiting.filter moves).map (·.msg)).filter (fun r => !back.contains r)
  Act.seq (Act.of [.link p { l with
      waiting := l.waiting.filter (fun m => !moves m)
      replay := if l.sheeted then [] else l.replay }])
    (Act.each route (back ++ ms)) s

/-- A message of this device. What is no run's and no command's ranks as INTERACTIVE (notes/assumptions/17.md). -/
def send (m : Sent) : Act := sendFrom 1 none m

/-- A message of another device, or to it, is passed on (R332). -/
def relay (port : LinkId) (m : Sent) : Act := sendFrom 1 (some port.val) m

/-- Messages one after another. -/
def sendAll (l : List Sent) : Act := Act.each send l

/-- A twin message; a body longer than 4,096 bytes takes several (R328). -/
def sendTwin (kind value : Nat) (body : List Byte) : Act :=
  let n := max 1 (ceilDiv body.length 4096)
  sendAll ((List.range n).map (fun i => .twin kind value (decide (i + 1 < n)) (slice body (4096 * i) 4096)))

/-- A bound twin that is not stepped out and whose partner is not (R391, R395). -/
def State.paired (s : State) : Bool := s.twin.bound && !s.twin.steppedOut && !s.twin.partnerOut

/-! ### The agreed order (R392, R393, R314) -/

/-- Whether a twin orders the pair: twin A, or the survivor (R392, R395). -/
def orderer (s : State) : Bool := s.twin.bound && !s.twin.steppedOut && (!s.twin.mode || s.twin.partnerOut)

/-- The bytes of a piece of work in a twin message (the layout is the model's, notes/assumptions/17.md). -/
def workBody : TwinWork → List Byte
  | .mem a d => toLE 1 0 ++ toLE 8 a ++ d
  | .hook k v p => toLE 1 1 ++ toLE 2 k ++ toLE 4 v ++ toLE 1 p.val
  | .reset f => toLE 1 2 ++ toLE 2 f.toNat
  | .mark m => toLE 1 3 ++ toLE 1 m
  | .tier b n t => toLE 1 4 ++ toLE 1 (b2n b) ++ toLE 1 n ++ toLE 1 t
  | .start n v => toLE 1 5 ++ toLE 1 n ++ toLE 1 v.tier ++ toLE 1 v.onTime ++ toLE 1 v.depth ++ toLE 1 (b2n v.regained)
  | .unwait n => toLE 1 6 ++ toLE 8 n.toNat
  | .packet _ _ => []

/-- The orderer of a pair gives a piece of work its number, which the partner is told (R392, R393). -/
def giveNumber (w : TwinWork) : Act := fun s =>
  if !s.paired then []
  else Act.seq (Act.of [.twin { s.twin with order := s.twin.order + 1 }]) (sendTwin 5 s.twin.order.toNat (workBody w)) s

/-- The follower of a pair asks for a number. -/
def askNumber (w : TwinWork) : Act := sendTwin 5 (2 ^ 64 - 1) (workBody w)

/-- The follower of a pair asks for the number of a register write of one of its ports, and holds the port's packets till then (R393). -/
def askWrite (p : PortId) (w : TwinWork) : Act := fun s =>
  Act.seq (Act.of [.twin { s.twin with writes := s.twin.writes ++ [(p, none, w)] }]) (sendTwin 5 (2 ^ 64 - 2) (workBody w)) s

/-! ### Receive buffers (R325) -/

/-- The bodies of one half of a VC with `n` bytes taken off the front, and the number of flits that this empties; the padding of a body,
whose first byte no message kind has, goes with it (notes/assumptions/17.md). -/
def dropBodies (v : Nat) (upper : Bool) : Nat → List RxBody → List RxBody × Nat
  | _, [] => ([], 0)
  | n, x :: l =>
    if x.vc ≠ v ∨ x.upper ≠ upper then let r := dropBodies v upper n l; (x :: r.1, r.2)
    else if x.body.length ≤ n then let r := dropBodies v upper (n - x.body.length) l; (r.1, r.2 + 1)
    else if (x.body.drop n).headD 0 = 0 then (l, 1)
    else ({ x with body := x.body.drop n } :: l, 0)

/-- Bytes of the message that begins a stream of bodies, by its header (R328): data where its kind carries them, what follows the header of
a SUM or DWAIT message, and tag and key ID of a sealed one (notes/assumptions/17.md). -/
def messageSize (b : List Byte) : Nat :=
  let kind := fieldLE b 0 1
  let data := if kind = 2 ∨ kind = 4 then 0 else roundUp 4 (fieldLE b 2 2)
  32 + (if kind = 5 ∨ kind = 6 then 16 else 0) + data + (if bit (fieldLE b 1 1) 0 then 20 else 0)

/-- Whether a message is in progress at the end of a stream of bodies, whose first begins one; `left` bytes of one are still to come. -/
def inProgress : Nat → List (List Byte) → Nat → Bool
  | 0, _, left => left != 0
  | _, [], left => left != 0
  | f + 1, b :: l, left =>
    if b.length ≤ left then inProgress f l (left - b.length)
    else
      let c := b.drop left
      if c.headD 0 = 0 then inProgress f l 0
      else
        let n := messageSize (c ++ l.headD [])
        if c.length ≤ n then inProgress f l (n - c.length) else inProgress f (c.drop n :: l) 0

/-- The half of a VC's buffer that the body of a new data flit goes into: with the message that it continues, else by its first message
(R327). -/
def State.rxHalf (s : State) (p v : Nat) (body : List Byte) : Bool :=
  let bodies (u : Bool) : List (List Byte) := ((s.link p).rx.filter (fun x => x.vc == v && x.upper == u)).map (·.body)
  let busy (u : Bool) : Bool := inProgress (256 * (bodies u).length) (bodies u) 0
  if !ringPort s p || 1 < v then false else if busy true then true else if busy false then false else comesUpper s p body

/-- Whether received bytes are those of a message, its sender and target aside. -/
def sameMessage (a b : List Byte) : Bool := a.take 4 == b.take 4 && a.drop 8 == b.drop 8

/-- A hub block or a forwarding output takes a message of a VC from a port's receive buffer, where its bytes stand at the front of that VC
or of a half of it, and the credits of the flits that this empties are owed (R325, R327). -/
def takeBytes (port : LinkId) (v : Nat) (bs : List Byte) : Act := fun s =>
  let p := port.val
  let l := s.link p
  let front (u : Bool) : List Byte := ((l.rx.filter (fun x => x.vc == v && x.upper == u)).flatMap (·.body)).take bs.length
  match [false, true].find? (fun u => (front u).length == bs.length && sameMessage (front u) bs) with
  | none => []
  | some u =>
    let r := dropBodies v u bs.length l.rx
    Act.seq (Act.of [.link p { l with
      rx := r.1
      owedCredits := l.owedCredits.modify v (· + r.2) }]) (pumpPort p true) s

/-- The same for a message of a device. -/
def takeMessage (port : LinkId) (m : Sent) : Act := fun s => takeBytes port m.channel (sentBytes s m) s

end Sys2Proof.Machine
end

