-- ==== Sys2Proof/Machine/Replies.lean ====
section
/-! DEFINITION. Sys2Proof/Machine/Replies.lean: hooks and the completion of commands: acquire, release and set (R299),
the order of release, reply and interrupt (R289 to R291), dropped replies (R303, R413) and MSI-X (R412). -/
namespace Sys2Proof.Machine

/-- The header of a packet's command. -/
def instrHdr : Instr → Option Hdr
  | .nop h => some h
  | .identify h _ => some h
  | .attest h _ _ _ => some h
  | .inventory h _ _ => some h
  | .writeMem h _ _ _ => some h
  | .readMem h _ _ _ => some h
  | .fillMem h _ _ _ => some h
  | .copyMem h _ _ _ => some h
  | .sealRegion h _ _ _ _ => some h
  | .unsealRegion h _ => some h
  | .installKey h _ _ _ => some h
  | .loadPlan h _ _ _ => some h
  | .unloadPlan h _ => some h
  | .saveContext h _ _ _ _ => some h
  | .restoreContext h _ _ _ _ => some h
  | .run h _ _ => some h
  | .pause h _ => some h
  | .resume h _ => some h
  | .abort h _ => some h
  | .mark h _ => some h
  | .hookAcquire h _ _ => some h
  | .hookRelease h _ _ => some h
  | .hookSet h _ _ => some h
  | .hookRead h _ => some h
  | .streamOpen h _ _ => some h
  | .streamSubmit h _ _ _ => some h
  | .ringHead h _ _ => some h
  | .rate h _ _ _ _ _ _ => some h
  | .forceKey h _ => some h
  | .flush h _ => some h
  | .rebind h _ _ _ => some h
  | .streamClose h _ => some h
  | .hold h _ _ => some h
  | .unhold h _ _ => some h
  | .releaseOut h _ _ => some h
  | .setLong h _ _ _ => some h
  | .clearLong h _ _ _ => some h
  | .linkConfigure h _ _ _ => some h
  | .domainJoin h _ _ => some h
  | .twinBind h _ => some h
  | .twinRelease h => some h
  | .tableLoad h _ _ => some h
  | .tableSelect h _ => some h
  | .seedStreams h _ _ _ => some h
  | .ledgerRead h _ _ _ => some h
  | .counterRead h _ _ _ => some h
  | .counterClear h _ _ => some h
  | .firmwareStage h _ _ _ => some h
  | .firmwareCommit h _ => some h
  | .resetFunction h _ => some h
  | .resetDevice h _ => some h
  | .hostDataReadFailed h _ => some h
  | _ => none

/-- Remove the first started packet with a header. -/
def dropStarted (h : Hdr) : List Instr → List Instr
  | [] => []
  | i :: l => if instrHdr i = some h then l else i :: dropStarted h l

/-- Index of a chute: 64 × port + chute (R302). -/
def chuteIx (p : PortId) (c : Fin 64) : Nat := 64 * p.val + c.val

/-- Whether a port sends MSI-X messages: MSI-X is enabled and not masked as a whole, and the port may write to host memory (R412, R415,
R416). -/
def Port.sendsMsix (p : Port) : Bool := p.msixEnable && !p.msixMaskAll && p.busMaster && !p.d3hot && !p.perst

/-- The message of a vector, by its table entry (R400, R412). -/
def Port.message (p : Port) (v : Nat) : Interrupt :=
  let e := Tab.look (0, 0) p.msixTable v
  ⟨v, e.1, e.2⟩

/-- An MSI-X vector is raised: sent, or left pending while it is masked or the port may send none (R412; notes/assumptions/9.md). -/
def Port.raise (p : Port) (v : Nat) : Port :=
  if p.msixMask.getLsbD v || !p.sendsMsix then { p with msixPending := p.msixPending ||| BitVec.ofNat 64 (2 ^ v) }
  else { p with interrupts := p.interrupts ++ [p.message v] }

/-- Vectors that are pending and masked no longer are sent, in ascending order (R412). -/
def Port.sendPending (p : Port) : Port :=
  if !p.sendsMsix then p
  else { p with
    interrupts := p.interrupts ++ ((List.range 64).filter (fun v => p.msixPending.getLsbD v && !p.msixMask.getLsbD v)).map p.message
    msixPending := p.msixPending &&& p.msixMask }

/-- A bit of EVT_CAUSE is set at a port; a change from 0 to 1 raises EVT_VECTOR if enabled (R403, R412). A port held in PERST_N stays as
its reset has left it (R420). -/
def Port.event (p : Port) (b : Nat) : Port :=
  let q := { p with evtCause := p.evtCause ||| BitVec.ofNat 4 (2 ^ b) }
  if p.perst then p else if p.evtCause.getLsbD b || !p.evtEnable then q else q.raise p.evtVector.toNat

/-- AER uncorrectable internal errors of a port: the status bit is set, and unless masked a message of the severity that the host has
programmed goes out for each (R75, R418). -/
def Port.internalErrors (q : Port) (n : Nat) : Port :=
  if n = 0 then q
  else { q with
    aerErrors := q.aerErrors + n
    aerStatus := true
    aerMessages := q.aerMessages ++ (if q.aerMasked then [] else List.replicate n q.aerFatal) }
/-- A device event at both ports (R403). -/
def eventAct (b : Nat) : Act := fun s => [.port 0 ((s.port 0).event b), .port 1 ((s.port 1).event b)]

/-- Whether a reply can reach the chute that sent the packet: the chute is as the packet left it, and the port has not
stopped (R303, R413, R415). -/
def replyAlive (s : State) (h : Hdr) : Bool :=
  (s.chute (chuteIx h.port h.chute)).epoch == h.epoch && (s.chute (chuteIx h.port h.chute)).enable
    && !(s.port h.port).perst && !(s.port h.port).d3hot

/-- A reply is written to the chute's reply ring, or omitted, or dropped and recorded; its packet is no longer started
(R285, R289, R291, R303). Without a reference clock no island runs, and nothing is written (R23). -/
def replyEffs (h : Hdr) (r : Reply) : Act := fun s =>
  let i := chuteIx h.port h.chute
  let c := s.chute i
  let gone : Eff := .started (dropStarted h s.started)
  if !clocked s then []
  else if !replyAlive s h then
    [gone, .ledger 0x0300 (srcChute i) (toLE 4 h.seq.toNat ++ toLE 2 r.status),
      .count (counterId (srcHub h.port) 3) 1]
  else if replyOmitted h r then [gone, .chute i { c with owed := c.owed - 1 }]
  else
    [.host h.port (32 * c.replyBase.toNat + 32 * (c.replyIndex.toNat % 2 ^ c.log2Replies.toNat))
        (replyBytes h (replyPhase c.replyIndex c.log2Replies.toNat) r),
      gone, .chute i { c with owed := c.owed - 1, replyIndex := c.replyIndex + 1 }]
    ++ (if h.interrupt then [.port h.port ((s.port h.port).raise c.vector.toNat)] else [])

/-- A reply as a twin message carries it, and back (R392; the layout is the model's, notes/assumptions/17.md). -/
def replyBody (r : Reply) : List Byte :=
  toLE 2 r.status ++ toLE 2 r.detail ++ toLE 4 r.w0 ++ toLE 4 r.w1 ++ toLE 4 r.w2 ++ toLE 4 r.restarts ++ toLE 1 (b2n r.late)
def parseReply (b : List Byte) : Reply :=
  ⟨fieldLE b 0 2, fieldLE b 2 2, fieldLE b 4 4, fieldLE b 8 4, fieldLE b 12 4, bit (fieldLE b 20 1) 0, fieldLE b 16 4⟩

/-- The reply as both twins' completions give it: the numerically larger status with that twin's results (R394). -/
def twinReply (own partner : Reply) : Reply := if own.status < partner.status then partner else own

/-- A completion reaches its reply: directly; to the partner that received the packet; or, for a packet that both twins
run, once both have completed it (R392, R394). -/
def deliver (h : Hdr) (r : Reply) : Act := fun s =>
  match h.partner with
  | some n =>
    Act.seq (Act.of [.started (dropStarted h s.started), .twin { s.twin with carried := s.twin.carried.filter (fun x => x.1 != n) }])
      (sendTwin 3 n.toNat (replyBody r)) s
  | none =>
    match s.twin.forwarded.find? (fun f => decide (f.hdr = h)) with
    | none => replyEffs h r s
    | some f =>
      match f.partner with
      | none =>
        if s.paired then
          [.started (dropStarted h s.started),
            .twin { s.twin with
              forwarded := s.twin.forwarded.map (fun g => if g.hdr = h then { g with own := some r } else g) }]
        else Act.seq (Act.of [.twin { s.twin with forwarded := s.twin.forwarded.filter (fun g => decide (g.hdr ≠ h)) }])
          (replyEffs h r) s
      | some q =>
        Act.seq
          (Act.of ([.twin { s.twin with forwarded := s.twin.forwarded.filter (fun g => decide (g.hdr ≠ h)) }]
            ++ (if r.status = q.status then [] else
                [.ledger 0x0114 (srcChute (chuteIx h.port h.chute)) (toLE 8 f.order.toNat ++ toLE 2 r.status ++ toLE 2 q.status)])))
          (replyEffs h (twinReply r q)) s

/-- The count after a release of `i`: it stops at 0xFFFF_FFFF (R299). -/
def releasedCount (count : Word) (i : Nat) : Word := BitVec.ofNat 32 (min (count.toNat + i) 0xFFFFFFFF)

/-- Whether a release of `i` would pass 0xFFFF_FFFF (R299). -/
def overflows (count : Word) (i : Nat) : Bool := decide (0xFFFFFFFF < count.toNat + i)

/-- The acquire of a packet, a command or a record is served (R288, R299). -/
def grant (k : Nat) (after : Word) : Waiter → State → List Eff × List Job
  | .packet p c amount, s =>
    let i := chuteIx p c
    ([.chute i { s.chute i with granted := some (k, amount), blocked := false }], [])
  | .command h _, _ => ([], [.complete h (Reply.done after.toNat 0 0)])
  | .partner c _, s => ([.twin { s.twin with
      requests := s.twin.requests.map (fun x => if x.id = c then { x with hook := .granted } else x) }], [])
  | .record n r, s =>
    match (s.slot n).run with
    | none => ([], [])
    | some q => ([.slot n { s.slot n with
        run := some { q with waiting := q.waiting.filter (· != r), acquired := r :: q.acquired } },
        .ready (s.ready ++ [(n.val, r)])], [])

/-- The amount a waiter asks for. -/
def Waiter.amount : Waiter → Word
  | .packet _ _ a => a
  | .command _ a => a
  | .partner _ a => a
  | .record _ _ => 1

/-- One job: its effects and the jobs it leads to. -/
def jobStep (s : State) : Job → List Eff × List Job
  | .release k inc src rec =>
    let h := s.hook k
    ([.hook k { h with count := releasedCount h.count inc }]
        ++ (if overflows h.count inc then [.ledger 0x0302 src (toLE 4 k ++ toLE 4 inc)] else []),
      [.serve k] ++ (if rec && !overflows h.count inc then [.record k inc src] else []))
  | .serve k =>
    match (s.hook k).waiters with
    | [] => ([], [])
    | w :: ws =>
      if w.amount ≤ (s.hook k).count then
        let after := (s.hook k).count - w.amount
        let g := grant k after w s
        ([.hook k ⟨after, ws⟩] ++ g.1, g.2 ++ [.serve k])
      else ([], [])
  | .record k inc src => ([.ledger 0x0301 src (toLE 4 k ++ toLE 4 inc ++ toLE 4 (s.hook k).count.toNat)], [])
  | .complete h r =>
    ([], (if h.signal && signals r.status then
            [.release h.signalHook.toNat h.signalInc.toNat (srcPort h.port) false] else []) ++ [.reply h r])
  | .reply h r => (deliver h r s, [])

/-- Jobs one after another, each followed by those it leads to. `n` bounds their number. -/
def runJobs : Nat → List Job → Act
  | 0, _ => Act.none
  | _ + 1, [] => Act.none
  | n + 1, j :: js => fun s => Act.seq (Act.of (jobStep s j).1) (runJobs n ((jobStep s j).2 ++ js)) s

/-- Enough steps for any jobs: each serves one waiter, completes one command, or is one of those given. -/
def jobFuel (s : State) (n : Nat) : Nat :=
  8 * (n + 2 + s.started.length + (s.hooks.map (fun x => x.2.waiters.length)).sum)

/-- Carry out jobs and all they lead to. -/
def jobs (l : List Job) : Act := fun s => runJobs (jobFuel s l.length) l s

/-- A command completes (R289): its hook is released if its status signals, then its reply is written, then its
interrupt raised. -/
def complete (h : Hdr) (r : Reply) : Act :=
  if h.signal && signals r.status then jobs [.complete h r] else deliver h r

/-- A command completes with a status alone. -/
def finish (h : Hdr) (status : Nat) : Act := complete h (Reply.of status)

/-- A packet's command, as the stewards run it while the islands have a clock (R23): the recovery steward serves few opcodes (R427), and a
stepped-out twin without a link completes every packet with DEVICE_DEGRADED (R396). -/
def command (h : Hdr) (recovery : Bool) (a : Act) : Act := fun s =>
  if !clocked s then []
  else if s.firmware.recovery && !recovery then finish h stFirmware s
  else if s.twin.bound && s.twin.steppedOut && s.twin.linkLost then finish h stDegraded s
  else a s

/-- Host data of a command: those of its port, or those that a partner's packet carries (R292, R392). -/
def hostData (s : State) (h : Hdr) (a n : Nat) : List Byte :=
  match h.partner with
  | none => hostBytes s h.port a n
  | some k => ((s.twin.carried.find? (fun x => x.1 == k && x.2.1 == a)).map (·.2.2)).getD []

/-- Whether the DMA of the port that sent a command is stopped: in D3hot, in reset, without a reference clock, or with its link down (R23,
R399, R415). -/
def dmaStopped (s : State) (h : Hdr) : Bool := h.partner.isNone && (!clocked s || !(s.port h.port).dlUp || (s.port h.port).perst || (s.port h.port).d3hot)

/-- A packet's command that moves host data: it waits while its port's DMA is stopped (R415). -/
def hostCommand (h : Hdr) (recovery : Bool) (a : Act) : Act := fun s => if dmaStopped s h then [] else command h recovery a s

/-- Bytes that a command writes to host memory: a partner's packet writes through the twin that received it only (R392), and a port whose
DMA is stopped writes nothing (R415). -/
def toHost (h : Hdr) (a : Nat) (bs : List Byte) : Act := fun s =>
  if h.partner.isSome || bs.isEmpty || dmaStopped s h then [] else [.host h.port a bs]

/-- A result of up to three words (R291). -/
def done3 (h : Hdr) (w0 w1 w2 : Nat) : Act := complete h (Reply.done w0 w1 w2)

/-- BAD_PARAMETER of a packet field (R287, R296). -/
def badField (h : Hdr) (off : Nat) : Act := complete h (Reply.badField off)

/-- Remove the waiters that satisfy `p` from every hook's queue without effect, and serve those now at the heads (R300). -/
def dropWaiters (p : Waiter → Bool) : Act := fun s =>
  let hit := s.hooks.filter (fun x => x.2.waiters.any p)
  Act.seq (Act.of (hit.map (fun x => .hook x.1 { x.2 with waiters := x.2.waiters.filter (fun w => !p w) })))
    (jobs (hit.map (fun x => .serve x.1))) s

/-- A hook is set (R299), with waiters served. -/
def setHook (k : Nat) (v : Word) : Act := fun s =>
  Act.seq (Act.of [.hook k { s.hook k with count := v }]) (jobs [.serve k]) s

/-- A release without a reply: by a record or control-space store (recorded), a register, or a stream (R299, R407). -/
def releaseHook (k inc source : Nat) (recorded : Bool) : Act := jobs [.release k inc source recorded]

/-- A waiter joins a hook's queue and is served if it can be (R299). -/
def acquireHook (k : Nat) (w : Waiter) : Act := fun s =>
  Act.seq (Act.of [.hook k { s.hook k with waiters := (s.hook k).waiters ++ [w] }]) (jobs [.serve k]) s

end Sys2Proof.Machine
end

