-- ==== Sys2Proof/Machine/Tensors.lean ====
section
/-! DEFINITION. Sys2Proof/Machine/Tensors.lean: tensors as plans name them: indices, addresses and extents (R258 to R260),
plain and sealed bytes (R80, R82, R85), crates and manifests (R89 to R107), reads and writes of elements. -/
namespace Sys2Proof.Machine

/-! ### Homes and cores (R264 to R266) -/

/-- Core instance that serves position `a` = 12 × tile + p, if any (R266). -/
def positionCore (s : State) (a : Nat) : Option Nat := ((s.tile (a / 12)).positions.getD (a % 12) none)

/-- Core instance that serves home `h` of a plan (R266). -/
def homeCore (s : State) (p : Plan) (h : Nat) : Option Nat := positionCore s (h * 240 / p.homes)

/-- Units of split `q` of `f` over `x` units: first and one past the last (R264). -/
def splitRange (x f q : Nat) : Nat × Nat := (q * x / f, (q + 1) * x / f)

/-- The split that holds unit `u` of `x` over `f` splits (R264). -/
def splitOf (x f u : Nat) : Nat := ((u + 1) * f + x - 1) / x - 1

/-- Home of split (q0, q1, q2) of a record (R264, R265). -/
def splitHome (p : Plan) (r : Rec) (q0 q1 q2 : Nat) : Nat :=
  ((q0 * r.split1 + q1) * r.split2 + q2 + r.homeBase) % p.homes

/-! ### Tensors -/

/-- The value of a tensor index that names nothing. -/
def Tensor.none : Tensor := ⟨0, 0, 0, false, 0, 0xFFFF, 0xFFFF, 0, [1, 1, 1, 1, 1], [0, 0, 0, 0, 0], 0, false, false, 0, 0, true⟩

/-- Tensor `i` of a plan. -/
def Plan.tensor (p : Plan) (i : Nat) : Tensor := p.tensors.getD i Tensor.none

/-- Format of a tensor. -/
def Tensor.fmt (t : Tensor) : Fmt := (Fmt.ofCode t.fmtCode).getD .fp32
/-- Rounding mode of a tensor. -/
def Tensor.rnd (t : Tensor) : Rnd := (Rnd.ofCode t.rndCode).getD .rne
/-- Size of dimension `d`. -/
def Tensor.dim (t : Tensor) (d : Nat) : Nat := t.size.getD d 1
/-- Number of elements. -/
def Tensor.count (t : Tensor) : Nat := t.dim 0 * t.dim 1 * t.dim 2 * t.dim 3 * t.dim 4
/-- Whether the tensor is block-scaled (R258). -/
def Tensor.scaled (t : Tensor) : Bool := t.scale != 0xFFFF

/-- Flat logical index of an index tuple (R259). -/
def Tensor.flat (t : Tensor) (ix : List Nat) : Nat :=
  ix.getD 0 0 + t.dim 0 * (ix.getD 1 0 + t.dim 1 * (ix.getD 2 0 + t.dim 2 * (ix.getD 3 0 + t.dim 3 * ix.getD 4 0)))

/-- Index tuple of a flat logical index (R259). -/
def Tensor.index (t : Tensor) (f : Nat) : List Nat :=
  [f % t.dim 0, f / t.dim 0 % t.dim 1, f / (t.dim 0 * t.dim 1) % t.dim 2, f / (t.dim 0 * t.dim 1 * t.dim 2) % t.dim 3,
    f / (t.dim 0 * t.dim 1 * t.dim 2 * t.dim 3)]

/-- Element offset of an index tuple (R259). -/
def Tensor.offset (t : Tensor) (ix : List Nat) : Nat :=
  (List.range 5).foldl (fun a d => a + ix.getD d 0 * t.stride.getD d 0) 0

/-- Largest element offset. -/
def Tensor.maxOffset (t : Tensor) : Nat := (List.range 5).foldl (fun a d => a + (t.dim d - 1) * t.stride.getD d 0) 0

/-- Dimensions in ascending stride: stride and largest index. -/
def insertByStride (x : Nat × Nat) : List (Nat × Nat) → List (Nat × Nat)
  | [] => [x]
  | y :: t => if y.1 ≤ x.1 then x :: y :: t else y :: insertByStride x t

/-- Dimensions of size above 1 in descending stride: stride and largest index. -/
def Tensor.steps (t : Tensor) : List (Nat × Nat) :=
  (List.range 5).foldl (fun acc d => if t.dim d = 1 then acc else insertByStride (t.stride.getD d 0, t.dim d - 1) acc) []

/-- Whether indices within their bounds give offset `o`. -/
def offsetIn : List (Nat × Nat) → Nat → Bool
  | [], o => o == 0
  | (st, m) :: rest, o =>
    if st = 0 then offsetIn rest o
    else
      let lo := (o - (rest.map (fun x => x.1 * x.2)).sum + st - 1) / st
      (List.range (min m (o / st) + 1 - lo)).any (fun k => offsetIn rest (o - (lo + k) * st))

/-- Crates of a compressed tensor (R91). -/
def Tensor.crates (t : Tensor) : Nat := (t.count + 511) / 512

/-- Payload bytes of a fixed-rate crate (R93). -/
def Tensor.crateBytes (t : Tensor) : Nat := if t.comp = 1 then 256 else 512
/-- Side-entry bytes of a fixed-rate crate (R93). -/
def Tensor.sideBytes (t : Tensor) : Nat := if t.comp = 1 then 16 else 8
/-- Start of the side table (R93), of the header table and of the payload area of a manifest (R100), from base `b`. -/
def Tensor.sideStart (t : Tensor) (b : Nat) : Nat := roundUp 512 (b + t.crates * t.crateBytes)
def Tensor.headerStart (t : Tensor) (b : Nat) : Nat := roundUp 512 (b + (t.crates + 1) * 4)
def Tensor.payloadStart (t : Tensor) (b : Nat) : Nat := roundUp 512 (t.headerStart b + 8 * t.crates)

/-- Length in bytes of a tensor's extent from its base (R93, R100, R259). -/
def Tensor.extent (t : Tensor) : Nat :=
  match t.comp with
  | 0 => (t.maxOffset * t.fmt.width + t.fmt.width + 7) / 8
  | 3 => t.payloadStart t.base + 512 * t.capacity - t.base
  | _ => roundUp 512 (t.sideStart t.base + t.crates * t.sideBytes) - t.base

/-! ### What a record runs in -/

/-- A record as it runs: the state it reads, its plan and record, its run's seed and the table set. -/
structure Ctx where
  s : State
  slot : Nat
  plan : Plan
  record : Nat
  r : Rec
  seed : Dword
  set : TableSet

/-- Local address of the first byte of a tensor, of the copy in a home for a shelf tensor (R260). -/
def Ctx.base (c : Ctx) (home : Nat) (t : Tensor) : Nat :=
  if t.shelf then
    shelfBase + ((homeCore c.s c.plan home).getD 0) * shelfSlot + (c.s.slot c.slot).shelfBase.getD home 0 + t.base
  else localPart t.base

/-! ### Plain and sealed bytes -/

/-- The sealed region that holds a held address: its table index and itself (R79). -/
def regionAt (s : State) (a : Nat) : Option (Nat × Region) :=
  s.regions.findSome? (fun x => match x.2 with
    | some r => if r.base ≤ a ∧ a < r.base + r.size then some (x.1, r) else none
    | none => none)

/-- The key slot of a region, or one with no key. -/
def regionKey (s : State) (r : Region) : KeySlot := (s.key r.key).getD ⟨[], [], 0, 0, [], 0, 0⟩

/-- One 16-byte block at a held address of a region, enciphered or deciphered (R80). -/
def sealBlock (s : State) (enc : Bool) (r : Region) (a : Nat) (b : List Byte) : List Byte :=
  let k := regionKey s r
  let o := a - r.base
  xtsBlock enc k.dataKey k.tweakKey r.rid.toNat (o / 512) (o % 512 / 16) b

/-- The plaintext byte of a sealed region at a local address (R82). -/
def plainByte (s : State) (a : Nat) : Byte :=
  let pa := phys a
  match regionAt s pa with
  | none => s.byte pa
  | some (_, r) =>
    (sealBlock s false r (pa / 16 * 16) ((List.range 16).map (fun i => s.byte (pa / 16 * 16 + i)))).getD (pa % 16) 0

/-- `n` bytes as a plan reads them: deciphered where the tensor is sealed (R82). -/
def planBytes (s : State) (isSealed : Bool) (a n : Nat) : List Byte :=
  if isSealed then (List.range n).map (fun i => plainByte s (a + i)) else memBytes s a n

/-- Bytes written in the clear to a sealed region: each 16-byte block is read, deciphered, merged, enciphered and written
back (R80), unless it is written in part and holds an uncorrectable word (R74). -/
def storeSealed (a : Nat) (bs : List Byte) : Act := fun s =>
  let n := bs.length
  Act.each (fun k => fun s =>
      let va := a / 16 * 16 + 16 * k
      let pa := phys va
      match regionAt s pa with
      | none => []
      | some (_, r) =>
        let old := sealBlock s false r pa ((List.range 16).map (fun i => s.byte (pa + i)))
        let new := old.mapIdx (fun i b => if a ≤ va + i ∧ va + i < a + n then bs.getD (va + i - a) 0 else b)
        let part := decide (va < a) || decide (a + n < va + 16)
        Act.seq (if part then meetRange va 16 else Act.none)
          (if part && !(badWords s va 16).isEmpty then Act.none else storeMem va (sealBlock s true r pa new)) s)
    (List.range ((a + n + 15) / 16 - a / 16)) s

/-- Bytes as a plan writes them (R82). -/
def planStore (isSealed : Bool) (a : Nat) (bs : List Byte) : Act := if isSealed then storeSealed a bs else storeMem a bs

/-! ### Crates -/

/-- What the expander finds in a crate: a malformed crate, a CRC that fails twice, or its fields (R95, R104, R106). -/
inductive CrateRead where
  | overrun
  | badCrc
  | fields (nan absolute : Bool) (e : Int) (shift : Nat) (width : Nat) (len : Nat) (payload : List Byte)

/-- Read crate `q` of a compressed tensor at base `b` (R93 to R96, R100, R103 to R106). -/
def readCrate (s : State) (t : Tensor) (b q : Nat) : CrateRead :=
  let le (a n : Nat) : Nat := leNat (memBytes s a n)
  let o0 := le (b + 4 * q) 4
  let o1 := le (b + 4 * q + 4) 4
  let side := if t.comp = 3 then t.headerStart b + 8 * q else t.sideStart b + q * t.sideBytes
  let h := le side 8
  let at_ := if t.comp = 3 then t.payloadStart b + 128 * o0 else b + q * t.crateBytes
  let d := if t.comp = 3 then (o1 - o0) * 128 else t.crateBytes
  let w := if t.comp = 1 then 4 else if t.comp = 2 then 8 else 2 * 2 ^ bits h 63 62
  let len := bits h 47 32
  if (t.comp == 3 && (decide (o1 < o0) || decide (512 * t.capacity < o1 * 128))) || decide (d < len) then .overrun
  else
    let pay := memBytes s at_ len
    let sh := if t.comp = 1 then memBytes s (side + 8) 8 else []
    if crc16 (pay ++ sh) ≠ bits h 15 0 then .badCrc
    else .fields (bits h 60 52 == 0x1FF) (bit h 61) (Int.ofNat (bits h 60 52) - 256) (leNat sh) w len pay

/-- The value a crate's element takes from its code and its reference (R98, R105): `ref` is r_i. In a NaN crate R98's first case comes
before R105, so an absent element is NaN too; and an element whose code does not lie within the first LEN bytes is absent, also where
LEN is D (notes/assumptions/48.md). -/
def crateElem (c : CrateRead) (j : Nat) (ref : FV) : Nat :=
  match c with
  | .overrun => Fmt.nan .bf16
  | .badCrc => Fmt.nan .bf16
  | .fields nan absolute e shift w len pay =>
    let r := if absolute then FV.zero else ref
    if nan then Fmt.nan .bf16
    else if 8 * len < w * (j + 1) then encode .bf16 r
    else
      let code := signed w (leNat pay / 2 ^ (w * j))
      encode .bf16 (r.add ((FV.ofInt code).scale (e - Int.ofNat (bits shift (4 * (j / 32) + 3) (4 * (j / 32))))))

/-- Stored code of element `f` of an uncompressed tensor. -/
def plainElem (c : Ctx) (home : Nat) (t : Tensor) (f : Nat) : Nat :=
  let o := t.offset (t.index f)
  let b := c.base home t
  if t.fmt.width = 4 then
    let v := leNat (planBytes c.s t.sealed (b + o / 2) 1)
    if o % 2 = 0 then v % 16 else v / 16
  else leNat (planBytes c.s t.sealed (b + o * (t.fmt.width / 8)) (t.fmt.width / 8))

/-- Reference value of element `f` of a compressed tensor (R92): the reference is plain, or compressed without a
reference of its own. -/
def refElem (c : Ctx) (home : Nat) (t : Tensor) (f : Nat) : FV :=
  if t.ref = 0xFFFF then FV.zero
  else
    let u := c.plan.tensor t.ref
    if u.comp = 0 then decode .bf16 (plainElem c home u f)
    else decode .bf16 (crateElem (readCrate c.s u (c.base home u) (f / 512)) (f % 512) FV.zero)

/-- Code of element `f` of tensor `i` as an operation reads it (R89, R259); crates deliver BF16. -/
def Ctx.code (c : Ctx) (home i f : Nat) : Nat :=
  let t := c.plan.tensor i
  if t.comp = 0 then plainElem c home t f
  else crateElem (readCrate c.s t (c.base home t) (f / 512)) (f % 512) (refElem c home t f)

/-- Scale code of the block of element `f` of tensor `i` (R47): 127 (2^0) where the tensor is not block-scaled. -/
def Ctx.scaleCode (c : Ctx) (home i f : Nat) : Nat :=
  let t := c.plan.tensor i
  if t.scaled then
    let u := c.plan.tensor t.scale
    let ix := t.index f
    c.code home t.scale (u.flat (ix.set t.blockDim (ix.getD t.blockDim 0 / 32)))
  else 127

/-- Value of element `f` of tensor `i`, its block scale applied (R38, R47). -/
def Ctx.val (c : Ctx) (home i f : Nat) : FV :=
  let t := c.plan.tensor i
  let v := decode t.fmt (c.code home i f)
  if t.scaled then
    let x := c.scaleCode home i f
    if x = 0xFF then .nan else v.scale (Int.ofNat x - 127)
  else v

/-- Value at an index tuple. -/
def Ctx.at (c : Ctx) (home i : Nat) (ix : List Nat) : FV := c.val home i ((c.plan.tensor i).flat ix)

/-! ### Writes -/

/-- An element that an operation writes: tensor, home, flat index and what the conversion delivered. -/
structure ElemW where
  tensor : Nat
  home : Nat
  flat : Nat
  conv : Conv

/-- Bytes to be written, by rising address. -/
abbrev ByteMap := List (Nat × Byte)

/-- One plain element joins the bytes to be written; where a row of a 4-bit tensor ends mid-byte, the nibble that no element of
the tensor uses is written as 0 (R39). -/
def elemBytes (c : Ctx) (s : State) (acc : ByteMap) (e : ElemW) : ByteMap :=
  let t := c.plan.tensor e.tensor
  let ix := t.index e.flat
  let o := t.offset ix
  let b := c.base e.home t
  if t.fmt.width = 4 then
    let old := match acc.lookup (b + o / 2) with
      | some x => x.toNat
      | none => leNat (planBytes s t.sealed (b + o / 2) 1)
    let v := if o % 2 = 1 then old % 16 + 16 * e.conv.code
      else if ix.getD 0 0 + 1 = t.dim 0 ∧ offsetIn t.steps (o + 1) = false then e.conv.code else old / 16 * 16 + e.conv.code
    Tab.ins acc (b + o / 2) (BitVec.ofNat 8 v)
  else
    (toLE (t.fmt.width / 8) e.conv.code).zipIdx.foldl (fun m x => Tab.ins m (b + o * (t.fmt.width / 8) + x.2) x.1) acc

/-- Bytes cut into runs of consecutive addresses. -/
def byteRuns : ByteMap → List (Nat × List Byte)
  | [] => []
  | (a, b) :: t =>
    match byteRuns t with
    | (a', bs) :: rs => if a' = a + 1 then (a, b :: bs) :: rs else (a, [b]) :: (a', bs) :: rs
    | [] => [(a, [b])]

/-- The runs of bytes that plain elements make, of sealed tensors or of others. -/
def elemRuns (c : Ctx) (s : State) (isSealed : Bool) (es : List ElemW) : List (Nat × List Byte) :=
  byteRuns ((es.filter (fun e => let t := c.plan.tensor e.tensor; t.comp == 0 && t.sealed == isSealed)).foldl
    (elemBytes c s) [])

/-- The codes of a crate for given differences, exponent and shift (R97): RNE(δ / 2^(e − s)). -/
def crateCode (d : FV) (e : Int) : Int :=
  match d with
  | .fin s m q => sgn s (roundAt .rne 0 s m 1 q e)
  | _ => 0

/-- Whether every code lies in the range of `w` bits. -/
def crateFits (w : Nat) (ds : List FV) (e : Int) : Bool :=
  ds.all (fun d => let k := crateCode d e
    decide (-(2 ^ (w - 1) : Int) ≤ k) && decide (k ≤ (2 ^ (w - 1) : Int) - 1))

/-- A crate of a fixed-rate tensor is encoded and stored (R93 to R97): `xs` are its elements' BF16 codes. The shifts of a NaN crate,
which step 1 of R97 does not give, are free (notes/assumptions/48.md). -/
def storeCrate (c : Ctx) (home i q : Nat) (xs : List Nat) : Act := fun s =>
  let t := c.plan.tensor i
  let b := c.base home t
  let w := if t.comp = 1 then 4 else 8
  let xv := xs.map (decode .bf16)
  let rv := (List.range xs.length).map (fun j => refElem c home t (512 * q + j))
  let nan := xv.any (fun x => !x.isFin) || rv.any (fun x => !x.isFin)
  let ds := List.zipWith FV.sub xv rv
  let e : Int := ((((List.range 600).find? (fun k => crateFits w ds (Int.ofNat k - 133))).getD 0 : Nat) : Int) - 133
  let shift (k : Nat) : Nat :=
    let sub := (ds.drop (32 * k)).take 32
    ((List.range 16).reverse.find? (fun j => decide (-133 ≤ e - Int.ofNat j) && crateFits w sub (e - Int.ofNat j))).getD 0
  let shifts := (List.range 16).map (fun k => if t.comp ≠ 1 then 0
    else if nan then Config.nanShift xs (rv.map (encode .bf16)) k % 16 else shift k)
  let codes := (List.range 512).map (fun j =>
    if nan then 0 else unsigned w (crateCode (ds.getD j FV.zero) (e - Int.ofNat (shifts.getD (j / 32) 0))))
  let pay := toLE (64 * w) (codes.reverse.foldl (fun a k => a * 2 ^ w + k) 0)
  let sw := if t.comp = 1 then toLE 8 (shifts.reverse.foldl (fun a k => a * 16 + k) 0) else []
  let hdr := (if t.comp = 1 then 1 else 2) * 2 ^ 62 + b2n (t.ref == 0xFFFF) * 2 ^ 61
    + (if nan then 0x1FF else (e + 256).toNat) * 2 ^ 52 + 64 * w * 2 ^ 32 + crc16 (pay ++ sw)
  Act.seq (storeMem (b + q * t.crateBytes) pay) (storeMem (t.sideStart b + q * t.sideBytes) (toLE 8 hdr ++ sw)) s

/-- Crates that a list of element writes covers: tensor, home, crate. -/
def crateKeys (c : Ctx) (es : List ElemW) : List (Nat × Nat × Nat) :=
  ((es.filter (fun e => (c.plan.tensor e.tensor).comp != 0)).map (fun e => (e.tensor, e.home, e.flat / 512))).eraseDups

/-- Elements are stored: plain ones in runs of bytes, crates whole (R90, R97). -/
def storeElems (c : Ctx) (es : List ElemW) : Act :=
  Act.all [fun s => Act.each (fun r => storeMem r.1 r.2) (elemRuns c s false es) s,
    fun s => Act.each (fun r => storeSealed r.1 r.2) (elemRuns c s true es) s,
    Act.each (fun k =>
      let n := (c.plan.tensor k.1).count
      storeCrate c k.2.1 k.1 k.2.2 ((List.range (min 512 (n - 512 * k.2.2))).map (fun j =>
        (((es.find? (fun e => e.tensor == k.1 && e.home == k.2.1 && e.flat == 512 * k.2.2 + j)).map (·.conv.code)).getD 0))))
      (crateKeys c es)]

/-- Uncorrectable words that the plain element writes cover only in part: these keep their bits and are met (R74). -/
def storeBad (c : Ctx) (s : State) (es : List ElemW) : List Nat :=
  (elemRuns c s false es).flatMap (fun r => badPartial s r.1 r.2.length)
  ++ (elemRuns c s true es).flatMap (fun r =>
      let a := r.1 / 16 * 16
      let n := roundUp 16 (r.1 + r.2.length) - a
      (badWords s a n).filter (fun v => v / 16 * 16 < r.1 || r.1 + r.2.length < v / 16 * 16 + 16))

/-- Saturations of element writes: those of conversions, and infinite elements stored to a crate (R45, R97). -/
def satCount (c : Ctx) (es : List ElemW) : Nat :=
  es.foldl (fun n e => n + b2n (e.conv.sat || ((c.plan.tensor e.tensor).comp != 0
    && (decode .bf16 e.conv.code).isFin == false && (decode .bf16 e.conv.code).isNan == false))) 0

/-- NaN inputs delivered as integer 0 (R45). -/
def nanCount (es : List ElemW) : Nat := es.foldl (fun n e => n + b2n e.conv.nan0) 0

end Sys2Proof.Machine
end

