-- ==== Sys2Proof/Machine/Products.lean ====
section
/-! DEFINITION. Sys2Proof/Machine/Products.lean: products as the array forms them (R48 to R58, R112), the masks on the way
in (R134 to R139), window geometry (R153 to R162), epilogue chains (R132, R141 to R146) and the writing of an output,
block-scaled or not (R44, R45, R47). -/
namespace Sys2Proof.Machine

/-! ### Accumulators (R51 to R57) -/

/-- A fresh accumulator: no product yet. -/
def Acc.zero : Acc := ⟨0, false, false, false, none⟩

/-- One product added on the exact path; bit 0 has weight 2^w (R51, R53, R55). -/
def Acc.exact (w : Int) (a : Acc) (p : FV) : Acc :=
  match p with
  | .nan => { a with nan := true }
  | .inf s => if s then { a with ninf := true } else { a with pinf := true }
  | .fin .. => { a with int := a.int + BitVec.ofInt 96 (p.scale (-w)).floor }

/-- One product added on the BF16 path (R57, R58). -/
def Acc.running (a : Acc) (p : FV) : Acc :=
  { a with fp := some (match a.fp with
    | none => f32Bits p
    | some r => f32Add r (f32Bits p)) }

/-- Two exact partial sums added (R54). -/
def Acc.join (a b : Acc) : Acc := ⟨a.int + b.int, a.nan || b.nan, a.pinf || b.pinf, a.ninf || b.ninf, none⟩

/-- The sums of the splits of K combined (R54, R57 step 3). -/
def Acc.combine (bf16 : Bool) (l : List Acc) : Acc :=
  if bf16 then { Acc.zero with fp := some (treeRoot f32Add 0 (l.map (fun a => a.fp.getD 0))) }
  else l.foldl Acc.join Acc.zero

/-- The value of an accumulator before its one rounding (R55, R56). -/
def Acc.value (bf16 : Bool) (w : Int) (a : Acc) : FV :=
  if bf16 then f32Val (a.fp.getD 0)
  else if a.nan || (a.pinf && a.ninf) then .nan
  else if a.pinf then .inf false
  else if a.ninf then .inf true
  else (FV.ofInt a.int.toInt).scale w

/-! ### Products -/

/-- A product as its operands reach the array: `groups` products of M × K by K × N, of formats `fa` and `fb`. Each operand is read as
stored codes, with the scale codes of its K-blocks of 32 (127, which is 2^0, where it has none). The first argument of each read is the
home that reads, the second the group. -/
structure Prod where
  m : Nat
  n : Nat
  k : Nat
  groups : Nat
  fa : Fmt
  fb : Fmt
  scaled : Bool
  ca : Nat → Nat → Nat → Nat → Nat
  cb : Nat → Nat → Nat → Nat → Nat
  xa : Nat → Nat → Nat → Nat → Nat
  xb : Nat → Nat → Nat → Nat → Nat
  keep : Nat → Nat → Nat → Nat → Bool

/-- Whether a product takes the BF16 path (R49). -/
def Prod.bf16 (p : Prod) : Bool := p.fa == .bf16

/-- Exponent of the fixed weight of an unscaled pair (R51). -/
def Prod.unit (p : Prod) : Int := p.fa.mExp + p.fb.mExp

/-- A value under the scale code of its block (R47). -/
def scaledVal (f : Fmt) (x code : Nat) : FV := if x = 0xFF then .nan else (decode f code).scale (Int.ofNat x - 127)

/-- Element A[m][k], and B[k][n], of group `g`. -/
def Prod.a (p : Prod) (home g m k : Nat) : FV := scaledVal p.fa (p.xa home g m (k / 32)) (p.ca home g m k)
def Prod.b (p : Prod) (home g k n : Nat) : FV := scaledVal p.fb (p.xb home g (k / 32) n) (p.cb home g k n)

/-- Block exponent of a scale code (R48): none for 0xFF. -/
def blockExpOf (f : Fmt) (x : Nat) : Option Int := if x = 0xFF then none else some (Int.ofNat x - 127 + f.blockExp)

/-- Anchor of output (m, n) of group `g` (R53): none where no K-block takes part. -/
def Prod.anchor (p : Prod) (home g m n : Nat) : Option Int :=
  (List.range ((p.k + 31) / 32)).foldl (fun acc j =>
    match blockExpOf p.fa (p.xa home g m j), blockExpOf p.fb (p.xb home g j n) with
    | some x, some y => some (match acc with
      | none => x + y
      | some z => max z (x + y))
    | _, _ => acc) none

/-- Exponent of the weight of bit 0 of an output's accumulator (R51, R53). -/
def Prod.weight (p : Prod) (home g m n : Nat) : Int :=
  if p.scaled then ((p.anchor home g m n).getD 0) - 71 else p.unit

/-- What a cell multiplies at position k of output (m, n): a masked element gives +0 (R138). -/
def Prod.term (p : Prod) (home g m n k : Nat) : FV :=
  if p.keep home m n k then (p.a home g m k).mul (p.b home g k n) else FV.zero

/-- One product joins an accumulator: on the BF16 path a masked one too (R57), on the exact path only a kept one (R138). -/
def Prod.step (p : Prod) (home g m n : Nat) (w : Int) (a : Acc) (k : Nat) : Acc :=
  if p.bf16 then a.running (p.term home g m n k)
  else if p.keep home m n k then a.exact w (p.term home g m n k) else a

/-- The products of output (m, n) at positions k0 ≤ k < k1 added to an accumulator in ascending k (R57, R138). -/
def Prod.accumulate (p : Prod) (home g m n : Nat) (w : Int) (k0 k1 : Nat) (a : Acc) : Acc :=
  (List.range (min k1 p.k - k0)).foldl (fun a i => p.step home g m n w a (k0 + i)) a

/-- k-chunks of a product (R112). -/
def Prod.chunks (p : Prod) : Nat := ceilDiv p.k 256

/-- The sum of split `q` of K of output (m, n), from k-chunk `from_` on and from the sum carried to it (R57, R115). -/
def Prod.splitSum (p : Prod) (f2 home g m n : Nat) (w : Int) (q from_ : Nat) (a : Acc) : Acc :=
  p.accumulate home g m n w (256 * from_) (256 * (splitRange p.chunks f2 q).2) a

/-- Value of output (m, n) before rounding, from the sums of its splits of K (R54, R57). -/
def Prod.value (p : Prod) (f2 : Nat) (w : Int) (sums : Nat → Acc) : FV :=
  Acc.value p.bf16 w (Acc.combine p.bf16 ((List.range f2).map sums))

/-! ### Masks (R134 to R139) -/

/-- Fields of the mask word (R134). -/
def maskPattern (w : Nat) : Nat := bits w 63 60
def maskTarget (w : Nat) : Bool := bit w 59
def maskSkip (w : Nat) : Bool := bit w 58
def maskTensor (w : Nat) : Nat := bits w 55 40
def maskOrigin (w : Nat) : Nat := bits w 39 24
def maskParam (w : Nat) : Nat := bits w 23 0

/-- The pages a page list names for query chunk `q`, or none for a bad row (R136). -/
def Ctx.pageRow (c : Ctx) (home t q : Nat) : Option (List Nat) :=
  let l := c.plan.tensor t
  let rl := l.dim 0
  if l.count / rl ≤ q then none
  else
    let n := signed 32 (c.code home t (q * rl))
    if n < 0 ∨ Int.ofNat rl - 1 < n then none
    else some ((List.range n.toNat).map (fun e => c.code home t (q * rl + 1 + e)))

/-- Line origin and k origin (R134). -/
def Ctx.origins (c : Ctx) (home : Nat) : Nat × Nat :=
  let o := maskOrigin c.r.mask
  if o = 0xFFFF then (0, 0) else (c.code home o 0, c.code home o 1)

/-- Whether the generated pattern keeps the element at (line, k) of the masked operand (R135). -/
def Ctx.patternKeeps (c : Ctx) (home line k : Nat) : Bool :=
  let w := c.r.mask
  let o := c.origins home
  let i := o.1 + line
  let j := o.2 + k
  let p := maskParam w
  match maskPattern w with
  | 1 => decide (j ≤ i)
  | 2 => decide (j / p ≤ i / p)
  | 3 => decide (i ≤ j + 256 * bits p 23 12) && decide (j ≤ i + 256 * bits p 11 0)
  | 4 => match c.pageRow home (maskTensor w) (i / p) with
    | none => false
    | some l => l.contains (j / 256)
  | _ => true

/-- Whether the masks of a record keep the element at (line, k) of the masked operand (R135, R137). `kk` is K. -/
def Ctx.keeps (c : Ctx) (home kk line k : Nat) : Bool :=
  let w := c.r.mask
  if w = 0 then true
  else
    c.patternKeeps home line k
    && (maskPattern w == 4 || maskTensor w == 0xFFFF
        || bit (c.code home (maskTensor w) (ceilDiv kk 8 * line + k / 8)) (k % 8))

/-- Bad rows of a page list, as an event of detail 0x0004 (R136): `parts` are the homes that read it, each with its lines. -/
def Ctx.pageEvents (c : Ctx) (parts : List (Nat × List Nat)) : List Malformed :=
  let w := c.r.mask
  if w = 0 ∨ maskPattern w ≠ 4 then [] else
  let bad := parts.flatMap (fun x =>
    let o := c.origins x.1
    ((x.2.map (fun l => (o.1 + l) / maskParam w)).eraseDups).filter (fun q => (c.pageRow x.1 (maskTensor w) q).isNone))
  match bad.eraseDups with
  | [] => []
  | q :: t => [⟨4, c.record, maskTensor w, t.foldl min q, min (t.length + 1) 0xFFFFFFFF⟩]

/-- The product of a PRODUCT record with operand B or B2 (R451, R146). -/
def Ctx.product (c : Ctx) (bi : Nat) : Prod :=
  let ta := c.plan.tensor c.r.a
  let tb := c.plan.tensor bi
  let kk := ta.dim 0
  { m := ta.count / kk
    n := tb.dim 1
    k := kk
    groups := 1
    fa := ta.fmt
    fb := tb.fmt
    scaled := ta.scaled || tb.scaled
    ca := fun home _ m k => c.code home c.r.a (k + kk * m)
    cb := fun home _ k n => c.code home bi (k + kk * n)
    xa := fun home _ m j => c.scaleCode home c.r.a (32 * j + kk * m)
    xb := fun home _ j n => c.scaleCode home bi (32 * j + kk * n)
    keep := fun home m n k => c.keeps home kk (if maskTarget c.r.mask then n else m) k }

/-! ### Window geometry (R153 to R162) -/

/-- Geometry words G0 to G2 (R155). -/
structure Geometry where
  kind : Nat
  mode : Nat
  engine : Bool
  view : Nat
  ratio : Nat
  groups : Nat
  /-- Kernel extents, strides, dilations and paddings before and after, for W, H and T. -/
  kernel : List Nat
  stride : List Nat
  dil : List Nat
  pad0 : List Nat
  pad1 : List Nat
  deriving DecidableEq, Repr

/-- The geometry of a WINDOW record (R155). -/
def Rec.geometry (r : Rec) : Geometry :=
  let g0 := r.mask
  let g1 := r.stages.getD 0 0
  let g2 := r.stages.getD 1 0
  { kind := bits g0 63 60
    mode := bits g0 59 56
    engine := bit g0 55
    view := bits g0 54 52
    ratio := bits g0 51 48
    groups := bits g0 47 32
    kernel := [bits g0 15 8, bits g0 23 16, bits g0 31 24]
    stride := [bits g1 47 40, bits g1 55 48, bits g1 63 56]
    dil := [bits g1 23 16, bits g1 31 24, bits g1 39 32]
    pad0 := [bits g2 31 24, bits g2 47 40, bits g2 63 56]
    pad1 := [bits g2 23 16, bits g2 39 32, bits g2 55 48] }

/-- Extents W, H, T, C, N as seen through IN_VIEW or a pixel mode (R162). -/
def viewDims (view r : Nat) (d : List Nat) : List Nat :=
  match view with
  | 1 => [d.getD 0 1 * r, d.getD 1 1 * r, d.getD 2 1, d.getD 3 1 / (r * r), d.getD 4 1]
  | 2 => [d.getD 0 1 / r, d.getD 1 1 / r, d.getD 2 1, d.getD 3 1 * (r * r), d.getD 4 1]
  | 3 => [d.getD 0 1 * r, d.getD 1 1 * r, d.getD 2 1, d.getD 3 1, d.getD 4 1]
  | _ => d

/-- Stored index tuple that a view position (w, h, t, c, n) reads (R162). -/
def viewIndex (view r w h t ch n : Nat) : List Nat :=
  match view with
  | 1 => [w / r, h / r, t, ch * (r * r) + h % r * r + w % r, n]
  | 2 => [w * r + ch % r, h * r + ch % (r * r) / r, t, ch / (r * r), n]
  | 3 => [w / r, h / r, t, ch, n]
  | _ => [w, h, t, ch, n]

/-- Input position of output position `o` and kernel position `k` in dimension `d`, or none in the padding (R158). -/
def Geometry.source (g : Geometry) (ext : List Nat) (d o k : Nat) : Option Nat :=
  let x := o * g.stride.getD d 1 + k * g.dil.getD d 1
  if g.pad0.getD d 0 ≤ x ∧ x - g.pad0.getD d 0 < ext.getD d 1 then some (x - g.pad0.getD d 0) else none

/-- The products of a CONV record (R157, R158): one for each group. The scale of weight (k, n) is element floor(k / 32) of the output
channel's section of the scale tensor (notes/assumptions/48.md). -/
def Ctx.convolution (c : Ctx) : Prod :=
  let g := c.r.geometry
  let tx := c.plan.tensor c.r.a
  let tw := c.plan.tensor c.r.b
  let tout := c.plan.tensor c.r.out
  let ext := viewDims g.view g.ratio tx.size
  let kw := g.kernel.getD 0 1
  let kh := g.kernel.getD 1 1
  let kt := g.kernel.getD 2 1
  let cg := tw.dim 3
  let kk := cg * kt * kh * kw
  let co := tout.dim 3 / g.groups
  let su := c.plan.tensor tw.scale
  let per := su.dim 0 * su.dim 1 * su.dim 2 * su.dim 3
  { m := tout.dim 4 * tout.dim 2 * tout.dim 1 * tout.dim 0
    n := co
    k := kk
    groups := g.groups
    fa := tx.fmt
    fb := tw.fmt
    scaled := tw.scaled
    ca := fun home gi m k =>
      let wo := m % tout.dim 0
      let ho := m / tout.dim 0 % tout.dim 1
      let t' := m / (tout.dim 0 * tout.dim 1) % tout.dim 2
      let n := m / (tout.dim 0 * tout.dim 1 * tout.dim 2)
      match g.source ext 0 wo (k % kw), g.source ext 1 ho (k / kw % kh), g.source ext 2 t' (k / (kw * kh) % kt) with
      | some w, some h, some t =>
        c.code home c.r.a (tx.flat (viewIndex g.view g.ratio w h t (gi * cg + k / (kw * kh * kt)) n))
      | _, _, _ => 0
    cb := fun home gi k j => c.code home c.r.b (k + kk * (gi * co + j))
    xa := fun _ _ _ _ => 127
    xb := fun home gi j n => if tw.scaled then c.code home tw.scale (j + per * (gi * co + n)) else 127
    keep := fun _ _ _ _ => true }

/-! ### Writing an output (R42 to R47) -/

/-- The 24-bit random number of stochastic rounding of an output element (R44, R212). -/
def Ctx.draw (c : Ctx) (i f : Nat) : Nat := genTop (genWord c.seed (c.plan.tensor i).stream f)

/-- An element of output `i` from its value before rounding. -/
def Ctx.outV (c : Ctx) (i : Nat) (mode : Rnd) (ovfNan : Bool) (home f : Nat) (v : FV) : OutV :=
  ⟨home, f, v, convert (c.plan.tensor i).fmt mode (if mode = .sr then c.draw i f else 0) ovfNan v, false, false⟩

/-- Flat index, in its scale tensor, of the scale of element `f` of tensor `i` (R47). -/
def Ctx.scaleFlat (c : Ctx) (i f : Nat) : Nat :=
  let t := c.plan.tensor i
  let u := c.plan.tensor t.scale
  let ix := t.index f
  u.flat (ix.set t.blockDim (ix.getD t.blockDim 0 / 32))

/-- The element writes of an output: plain elements, or blocks with their scales (R47). The counts of earlier stages join
those of the last conversion (R152). -/
def Ctx.outWrites (c : Ctx) (i : Nat) (mode : Rnd) (vs : List OutV) : List ElemW :=
  let t := c.plan.tensor i
  if !t.scaled then vs.map (fun o => ⟨i, o.home, o.flat, ⟨o.conv.code, o.sat || o.conv.sat, o.nan0 || o.conv.nan0⟩⟩)
  else
    ((vs.map (fun o => c.scaleFlat i o.flat)).eraseDups).flatMap (fun b =>
      let blk := vs.filter (fun o => c.scaleFlat i o.flat == b)
      let x := blockScale t.fmt (blk.map (·.v))
      let cs := blockElems t.fmt mode x (blk.map (fun o => (o.v, if mode = .sr then c.draw i o.flat else 0)))
      List.zipWith (fun (o : OutV) (k : Conv) => (⟨i, o.home, o.flat, ⟨k.code, k.sat || o.sat, k.nan0 || o.nan0⟩⟩ : ElemW)) blk cs
        ++ ((blk.map (·.home)).eraseDups).map (fun h => (⟨t.scale, h, b, ⟨x, false, false⟩⟩ : ElemW)))

/-! ### Epilogue chains (R141 to R146) -/

/-- A stage word (R141). -/
structure StageWord where
  kind : Nat
  fmtCode : Nat
  rndCode : Nat
  ovfNan : Bool
  bcast : Nat
  operand : Nat
  func : Nat
  deriving DecidableEq, Repr

/-- Fields of a stage word (R141). -/
def stageOf (w : Nat) : StageWord :=
  ⟨bits w 63 60, bits w 59 56, bits w 55 53, bit w 52, bits w 51 50, bits w 47 32, bits w 31 24⟩

def StageWord.fmt (g : StageWord) : Fmt := (Fmt.ofCode g.fmtCode).getD .fp32
def StageWord.rnd (g : StageWord) : Rnd := (Rnd.ofCode g.rndCode).getD .rne

/-- The stages before the first END (R141). -/
def chainOf : List Nat → List StageWord
  | [] => []
  | w :: ws => if bits w 63 60 = 0 then [] else stageOf w :: chainOf ws

/-- One output element inside a chain: its index in OUT, the stored value of the last stage, the second product, and
whether an event of R45 has occurred to it. -/
structure Cell where
  home : Nat
  flat : Nat
  v : FV
  p2 : FV
  sat : Bool
  nan0 : Bool

/-- The index tuple at which a stage operand is read for output tuple `ix` (R144). -/
def bcastIndex (b : Nat) (ix : List Nat) : List Nat :=
  match b with
  | 1 => ix.set 0 0
  | 2 => [ix.getD 0 0, 0, 0, 0, 0]
  | 3 => [0, 0, 0, 0, 0]
  | _ => ix

/-- Operand of a SCALE or ADD stage for output element `f` of tensor `out` (R142, R144). -/
def Ctx.stageOperand (c : Ctx) (g : StageWord) (home out f : Nat) : FV :=
  c.at home g.operand (bcastIndex g.bcast ((c.plan.tensor out).index f))

/-- Exact result of a stage other than SFN and ROWSTAT (R142). -/
def Ctx.stageExact (c : Ctx) (g : StageWord) (out : Nat) (x : Cell) : FV :=
  match g.kind with
  | 1 => x.v.mul (c.stageOperand g x.home out x.flat)
  | 2 => FV.addM (g.rnd == .rdn) x.v (c.stageOperand g x.home out x.flat)
  | 4 => x.v.mul x.p2
  | 5 => (x.v.max (c.val x.home g.operand 0)).min (c.val x.home g.operand 1)
  | _ => x.v

/-- Whether forming the value that an SFN stage hands to a block-scaled output saturated: C12's truncation (R200, R45). -/
def sfBeforeSat (set : TableSet) (code : Nat) (x : FV) : Bool :=
  decide (effectiveSet set code = .c12) && (convert .bf16 .rtz 0 false (sfInternal set code x)).sat

/-- Results of a stage over one output row: each before rounding, as delivered in FMT, and whether forming it saturated. -/
def Ctx.stageRow (c : Ctx) (g : StageWord) (out : Nat) (row : List Cell) : List (FV × Conv × Bool) :=
  match g.kind with
  | 3 => row.map (fun x => (sfBefore c.set g.func x.v, sfDeliver c.set g.func x.v g.fmt g.ovfNan, sfBeforeSat c.set g.func x.v))
  | 7 =>
    let eps := match row with
      | x :: _ => if g.operand = 0xFFFF then FV.zero else c.val x.home g.operand 0
      | [] => FV.zero
    (List.zip row (statRow c.set g.func eps (row.map (·.v)))).map (fun (x, y) =>
      (y, convert g.fmt g.rnd (if g.rnd = .sr then c.draw out x.flat else 0) g.ovfNan y, false))
  | _ => row.map (fun x =>
      let y := c.stageExact g out x
      (y, convert g.fmt g.rnd (if g.rnd = .sr then c.draw out x.flat else 0) g.ovfNan y, false))

/-- A chain over one output row (R133, R142, R143): the elements to write, and the rounding of the last stage. -/
def Ctx.runChain (c : Ctx) (out : Nat) : List StageWord → List Cell → List OutV
  | [], row => row.map (fun x => ⟨x.home, x.flat, x.v, ⟨0, false, false⟩, x.sat, x.nan0⟩)
  | g :: gs, row =>
    let res := List.zip row (c.stageRow g out row)
    match gs with
    | [] => res.map (fun (x, r) => ⟨x.home, x.flat, r.1, r.2.1, x.sat || r.2.2, x.nan0⟩)
    | _ => c.runChain out gs (res.map (fun (x, r) =>
        { x with v := decode g.fmt r.2.1.code, sat := x.sat || r.2.1.sat, nan0 := x.nan0 || r.2.1.nan0 }))

/-- Rounding mode of the last stage: an SFN stage delivers by RNE to every format (R189, R200). -/
def lastRnd (gs : List StageWord) : Rnd := (gs.getLast?.map (fun g => if g.kind = 3 then .rne else g.rnd)).getD .rne

/-! ### PRODUCT and CONV outputs -/

/-- Split indices (q0, q1) that hold output (m, n) of group `g` of a record (R263, R264). -/
def splitsOf (p : Prod) (r : Rec) (conv : Bool) (g m n : Nat) : Nat × Nat :=
  (splitOf p.m r.split0 m, if conv then splitOf p.groups r.split1 g else splitOf p.n r.split1 n)

/-- Home of the k-split `q` of an output (R265). -/
def outHome (c : Ctx) (p : Prod) (conv : Bool) (g m n q : Nat) : Nat :=
  let x := splitsOf p c.r conv g m n
  splitHome c.plan c.r x.1 x.2 q

/-- Flat index in OUT of output (m, j) of group `g` of a convolution (R158). -/
def convFlat (tout : Tensor) (p : Prod) (g m j : Nat) : Nat :=
  let wht := tout.dim 0 * tout.dim 1 * tout.dim 2
  m % wht + wht * (g * p.n + j + tout.dim 3 * (m / wht))

/-- Outputs (g, m, j) of a CONV record, rounded once (R159): the output tensor's rounding mode applies (R56). -/
def Ctx.convRows (c : Ctx) (p : Prod) (sums : Nat → Nat → Nat → FV) (xs : List (Nat × Nat × Nat)) : List ElemW :=
  let t := c.plan.tensor c.r.out
  c.outWrites c.r.out t.rnd (xs.map (fun x =>
    c.outV c.r.out t.rnd t.ovfNan (outHome c p true x.1 x.2.1 x.2.2 0) (convFlat t p x.1 x.2.1 x.2.2)
      (sums x.1 x.2.1 x.2.2)))

end Sys2Proof.Machine
end

