-- ==== Sys2Proof/Machine/Bodies.lean ====
section
/-! DEFINITION. Sys2Proof/Machine/Bodies.lean: what every record's body shares: which tensors a record reads and writes, what
it does on uncorrectable words and malformed crates (R75, R104 to R107), its counts (R45, R438) and taint (R84). -/
namespace Sys2Proof.Machine

/-! ### Attention and append words (R220, R245) -/

def attD (r : Rec) : Nat := 64 * 2 ^ bits (r.stages.getD 0 0) 63 62
def attXdev (r : Rec) : Bool := bit (r.stages.getD 0 0) 61
def attTray (r : Rec) : Bool := bit (r.stages.getD 0 0) 60
def attForm (r : Rec) : Bool := bit (r.stages.getD 0 0) 59
def attHpg (r : Rec) : Nat := let v := bits (r.stages.getD 0 0) 55 48; if v = 0 then 256 else v
def attQmap (r : Rec) : Nat := bits (r.stages.getD 0 0) 47 32
def attWout (r : Rec) : Nat := bits (r.stages.getD 0 0) 15 0
def attScale (r : Rec) : Word := BitVec.ofNat 32 (bits (r.stages.getD 1 0) 63 32)
/-- SEQ of A1 and of P1. -/
def recSeq (r : Rec) : Nat := bits (r.stages.getD 1 0) 31 0
/-- KVSET of A0 and of P0. -/
def recKvset (r : Rec) : Nat := bits (r.stages.getD 0 0) 31 16
def appMode (r : Rec) : Nat := bits (r.stages.getD 0 0) 63 62
def appForm (r : Rec) : Bool := bit (r.stages.getD 0 0) 61
def appTmap (r : Rec) : Nat := bits (r.stages.getD 0 0) 47 32

/-- The page set of a record, as LOAD_PLAN read it (R237). -/
def Plan.pageSet (p : Plan) (r : Rec) : Option PageSet := p.pageSets.find? (fun x => x.tensor == recKvset r)

/-- Trays of a page set (R246). -/
def PageSet.trayCount (x : PageSet) : Nat := if x.trays = 1 then x.seqs * x.hg else 0

/-- Home of tray `t` (R246, R265). -/
def trayHome (p : Plan) (x : PageSet) (t : Nat) : Nat := t % x.holders % p.homes

/-- Tensor index, direction and broadcast code of a stream slot word, if used (R180). -/
def slotUsed (w : Nat) : Bool := bit w 19
def slotStore (w : Nat) : Bool := bit w 18
def slotBcast (w : Nat) : Nat := bits w 17 16
def slotTensor (w : Nat) : Nat := bits w 15 0

/-- Head dimension of a page set (R237). -/
def PageSet.d (x : PageSet) : Nat := 64 * 2 ^ x.dhead
/-- Bytes of a tray (R246). -/
def PageSet.trayBytes (x : PageSet) : Nat := 1024 * x.d

/-- Slot, mode and direction of the LD or ST instructions of a program: slot, mode, whether it stores, and its pass. -/
def slotUses : List Nat → Nat → List (Nat × Nat × Bool × Nat)
  | [], _ => []
  | w :: ws, q =>
    let op := bits w 31 24
    if op = 0xF0 then slotUses ws (q + 1)
    else if op = 0x60 ∨ op = 0x61 then (bits w 5 3, bits w 2 0, op == 0x61, q) :: slotUses ws q
    else slotUses ws q

/-- Stream accesses of a program. -/
def LaneProg.uses (g : LaneProg) : List (Nat × Nat × Bool × Nat) := slotUses g.instrs 0

/-- Whether tensor `i` is bound to a word-mode slot (R181). -/
def Plan.wordMode (p : Plan) (i : Nat) : Bool :=
  p.programs.any (fun g => g.uses.any (fun u => u.2.1 == 3
    && slotUsed (g.slots.getD u.1 0) && slotTensor (g.slots.getD u.1 0) == i))

/-- Length in bytes of a tensor's extent, as every check of LOAD_PLAN takes it (R181, R259). -/
def Plan.extent (p : Plan) (i : Nat) : Nat := if p.wordMode i then 8 * (p.tensor i).maxOffset + 8 else (p.tensor i).extent

/-- Trays of a page set below tray `t` that lie in home `h`. -/
def traysBelow (p : Plan) (x : PageSet) (h t : Nat) : Nat :=
  (((List.range x.holders).filter (fun k => k % p.homes == h)).map (fun k => (t + x.holders - 1 - k) / x.holders)).sum

/-- Plan-area offset of tray `t` of page set `i` within its home's part of the shelf: the trays follow the shelf area in
order of page set and tray index (notes/assumptions/16.md). -/
def trayOffset (p : Plan) (i t : Nat) : Nat :=
  match p.pageSets[i]? with
  | none => 0
  | some x =>
    let h := trayHome p x t
    p.resource.shelfBytes
      + ((p.pageSets.take i).map (fun y => if y.trays = 1 then traysBelow p y h y.trayCount * y.trayBytes else 0)).sum
      + traysBelow p x h t * x.trayBytes

/-- Local address of tray `t` of page set `i`. -/
def trayAddr (s : State) (n : Nat) (p : Plan) (i t : Nat) : Nat :=
  match p.pageSets[i]? with
  | none => 0
  | some x =>
    let h := trayHome p x t
    shelfBase + ((homeCore s p h).getD 0) * shelfSlot + (s.slot n).shelfBase.getD h 0 + trayOffset p i t

/-- Places of a plan's trays in the order of a landing: page set and tray. -/
def Plan.trays (p : Plan) : List (Nat × Nat) :=
  (List.range p.pageSets.length).flatMap (fun i => (List.range ((p.pageSets[i]?).elim 0 PageSet.trayCount)).map (fun t => (i, t)))

/-- Bytes of a tray. -/
def Plan.trayLen (p : Plan) (i : Nat) : Nat := (p.pageSets[i]?).elim 0 PageSet.trayBytes

/-- Ranges of the landing set: the listed tensors and the trays. -/
def landingRanges (s : State) (n : Nat) (p : Plan) : List (Nat × Nat) :=
  p.landing.list.map (fun i => (localPart (p.tensor i).base, p.extent i))
    ++ p.trays.map (fun x => (trayAddr s n p x.1 x.2, p.trayLen x.1))

/-- The lane program of a record. -/
def Plan.program (p : Plan) (r : Rec) : LaneProg := p.programs.getD r.program ⟨0, 0, 1, 0, [], 0, [], [], true⟩

/-! ### Reads and writes of a record -/

/-- A tensor with its scale tensor. -/
def withScale (p : Plan) (i : Nat) : List Nat :=
  if i = 0xFFFF then [] else if (p.tensor i).scaled then [i, (p.tensor i).scale] else [i]

/-- A tensor read: its scale and its crate reference with it. -/
def withRef (p : Plan) (i : Nat) : List Nat :=
  withScale p i ++ (if i ≠ 0xFFFF ∧ (p.tensor i).comp ≠ 0 ∧ (p.tensor i).ref ≠ 0xFFFF then [(p.tensor i).ref] else [])

/-- The references that the encoder reads as it writes compressed tensors (R97). -/
def encodeRefs (p : Plan) (l : List Nat) : List Nat :=
  (l.filter (fun i => i ≠ 0xFFFF ∧ (p.tensor i).comp ≠ 0 ∧ (p.tensor i).ref ≠ 0xFFFF)).map (fun i => (p.tensor i).ref)

/-- Operand tensors of a chain (R142). -/
def chainTensors (l : List Nat) : List Nat := (chainOf l).filterMap (fun g => if g.operand = 0xFFFF then none else some g.operand)

/-- Tensors of a mask word (R134). -/
def maskTensors (w : Nat) : List Nat := if w = 0 then [] else ([maskTensor w, maskOrigin w]).filter (· != 0xFFFF)

/-- Tensors of a page set that a record reads. -/
def pageTensors (p : Plan) (r : Rec) : List Nat :=
  match p.pageSet r with
  | none => []
  | some x => [x.seqtab, x.ptab, x.pool]

/-- Tensors that a record writes (R263). -/
def recWrites (p : Plan) (r : Rec) : List Nat :=
  let l : List Nat := match r.opcode with
    | 7 => withScale p r.out ++ (if attXdev r then [attWout r] else [])
    | 8 => match p.pageSet r with
      | none => []
      | some x => [x.seqtab, x.pool]
    | 9 => ((p.program r).slots.filter (fun w => slotUsed w && slotStore w)).flatMap (fun w => withScale p (slotTensor w))
    | _ => withScale p r.out
  (l.filter (· != 0xFFFF)).eraseDups

/-- Tensors that a record reads (R263), the references of the crates that it writes among them (R97). -/
def recReads (p : Plan) (r : Rec) : List Nat :=
  let l : List Nat := match r.opcode with
    | 1 => [r.a, r.b, r.b2].flatMap (withRef p) ++ maskTensors r.mask ++ (chainTensors r.stages).flatMap (withRef p)
    | 2 => [r.a, r.b].flatMap (withRef p)
    | 3 => [r.a, r.b].flatMap (withRef p) ++ (chainTensors r.stages).flatMap (withRef p)
    | 4 => [r.a, r.aux0].flatMap (withRef p)
    | 5 => [r.a, r.aux0, r.aux1].flatMap (withRef p)
    | 6 => [r.a, r.aux0].flatMap (withRef p)
    | 7 => withRef p r.a ++ maskTensors r.mask ++ (if attForm r then [attQmap r] else []) ++ pageTensors p r
    | 8 => [r.a, r.b].flatMap (withRef p) ++ (if appForm r then [appTmap r] else []) ++ pageTensors p r
    | 9 => ((p.program r).slots.filter (fun w => slotUsed w && !slotStore w)).flatMap (fun w => withRef p (slotTensor w))
    | 10 => withRef p r.a
    | 11 => withScale p r.a
    | _ => []
  let l := l ++ (if r.opcode = 11 then [] else encodeRefs p (recWrites p r))
  (l.filter (· != 0xFFFF)).eraseDups

/-- Splits of a record (R264). -/
def recSplits (r : Rec) : Nat := r.split0 * r.split1 * r.split2

/-- Homes that hold splits of a record (R265). -/
def recHomes (p : Plan) (r : Rec) : List Nat :=
  ((List.range (min (recSplits r) p.homes)).map (fun j => (j + r.homeBase) % p.homes)).eraseDups

/-- Cores that hold splits of a record (R266). -/
def recCores (s : State) (p : Plan) (r : Rec) : List Nat := ((recHomes p r).filterMap (homeCore s p)).eraseDups

/-- Cores that hold the trays of a page set (R246). -/
def trayCores (s : State) (p : Plan) (x : PageSet) : List Nat :=
  (((List.range x.trayCount).map (trayHome p x)).eraseDups.filterMap (homeCore s p)).eraseDups

/-- Whether a record touches sealed data in the clear (R82, R84). -/
def recSealed (p : Plan) (r : Rec) : Bool := (recReads p r).any (fun i => (p.tensor i).sealed)

/-! ### Running -/

/-- What a plan is given for an uncorrectable word is not stated: free bytes (R75, notes/assumptions/6.md). -/
def State.blur (s : State) : State :=
  { s with mem := s.ecc.foldl (fun m x => match x.2 with
      | some (.double _) => putMem m (8 * x.1) ((List.range 8).map (fun i => Config.freeByte s.free (8 * x.1 + i)))
      | _ => m) s.mem }

/-- The table set of a record (R195, R198): of its job's generation, where it names ACTIVE. -/
def tableSetOf (s : State) (gen code : Nat) : TableSet :=
  match code with
  | 1 => .standard
  | 2 => .c12
  | _ => if gen = s.tables.generation then s.tables.active else s.tables.old.getD s.tables.active

/-- A record of a slot's run, as it runs. -/
def recordCtx (s : State) (n r : Nat) : Option (Ctx × Run) :=
  match (s.slot n).plan, (s.slot n).run with
  | some p, some q =>
    match p.records[r]? with
    | some rc => some (⟨s.blur, n, p, r, rc, q.seed, tableSetOf s q.gen rc.tableSet⟩, q)
    | none => none
  | _, _ => none

/-- Whether a fault has escaped on a core of a record: the record goes no further there (R131, R183). -/
def coresEscaped (c : Ctx) : Bool := (recCores c.s c.plan c.r).any (fun k => (c.s.core k).escaped)

/-- A record whose body is due: in flight, not carried out, of an opcode, and no fault has escaped on its cores. -/
def bodyDue (s : State) (n r op : Nat) : Option (Ctx × Run) :=
  match recordCtx s n r with
  | some (c, q) => if c.r.opcode = op ∧ q.inFlight.contains r ∧ ¬ q.bodyDone.contains r ∧ coresEscaped c = false then some (c, q)
    else none
  | none => none

/-! ### What the splits of a record read -/

/-- A stretch that a split reads: elements of a tensor by flat index, up to one past the last, in the copy of a home; bytes of the
device's memory; codes without their scales; or the elements whose reference alone is read, by the encoder (R97). -/
inductive Part where
  | codes (home tensor lo hi : Nat)
  | elems (home tensor lo hi : Nat)
  | bytes (a n : Nat)
  | encoder (home tensor lo hi : Nat)

/-- A whole tensor, if it is named. -/
def wholePart (c : Ctx) (home i : Nat) : List Part := if i = 0xFFFF then [] else [.elems home i 0 (c.plan.tensor i).count]

/-- What the encoder reads for the elements of a tensor that a split writes. -/
def encoderPart (c : Ctx) (home i lo hi : Nat) : List Part := if (c.plan.tensor i).comp = 0 then [] else [.encoder home i lo hi]

/-- Splits of a record: (q0, q1, q2), with their homes (R264, R265). -/
def splitsWithHomes (c : Ctx) : List ((Nat × Nat × Nat) × Nat) :=
  (List.range (recSplits c.r)).map (fun j =>
    ((j / (c.r.split1 * c.r.split2), j / c.r.split2 % c.r.split1, j % c.r.split2), (j + c.r.homeBase) % c.plan.homes))

/-- Bytes that element `f` of a plain tensor takes: address and length. -/
def elemSpan (c : Ctx) (home i f : Nat) : Nat × Nat :=
  let t := c.plan.tensor i
  let o := t.offset (t.index f)
  let b := c.base home t
  if t.fmt.width = 4 then (b + o / 2, 1) else (b + o * (t.fmt.width / 8), t.fmt.width / 8)

/-- Bytes that the reading of crate `q` takes: its payload, of at most its declared size, and its entries (R93, R100, R101). -/
def crateSpans (c : Ctx) (home i q : Nat) : List (Nat × Nat) :=
  let t := c.plan.tensor i
  let b := c.base home t
  if t.comp = 3 then
    let w := memBytes c.s (b + 4 * q) 8
    let o := fieldLE w 0 4
    let len := fieldLE (memBytes c.s (t.headerStart b + 8 * q) 8) 4 2
    [(b + 4 * q, 8), (t.headerStart b + 8 * q, 8), (t.payloadStart b + 128 * o, min len (128 * (fieldLE w 4 4 - o)))]
  else [(b + q * t.crateBytes, t.crateBytes), (t.sideStart b + q * t.sideBytes, t.sideBytes)]

/-- Crates that a stretch of elements lies in. -/
def cratesIn (lo hi : Nat) : List Nat := if lo < hi then List.range' (lo / 512) ((hi - 1) / 512 + 1 - lo / 512) else []

/-- Whether reading a stretch of a tensor, its scales aside, touches the 8-byte word at an address of the tensor's view. -/
def touchesWord (c : Ctx) (home i lo hi v : Nat) : Bool :=
  let meets8 (x : Nat × Nat) : Bool := decide (x.1 < v + 8) && decide (v < x.1 + x.2)
  if (c.plan.tensor i).comp = 0 then (List.range' lo (hi - lo)).any (fun f => meets8 (elemSpan c home i f))
  else (cratesIn lo hi).any (fun q => (crateSpans c home i q).any meets8)

/-- Words with an error that a stretch of a tensor's own elements reads: address and held word. -/
def stretchErrors (c : Ctx) (home i lo hi : Nat) : List (Nat × Nat × Ecc) :=
  if i = 0xFFFF then [] else
  (eccIn c.s (c.base home (c.plan.tensor i)) (c.plan.tensor i).extent).filter (fun x => touchesWord c home i lo hi x.1)

/-- Words with an error that a part reads: with its elements their scales, and the crates of their reference (R47, R92). -/
def partErrors (c : Ctx) : Part → List (Nat × Nat × Ecc)
  | .bytes a n => eccIn c.s a n
  | .codes home i lo hi => stretchErrors c home i lo hi
  | .elems home i lo hi =>
    let t := c.plan.tensor i
    stretchErrors c home i lo hi
      ++ (if t.scaled then (eccIn c.s (c.base home (c.plan.tensor t.scale)) (c.plan.tensor t.scale).extent).filter (fun x =>
            (List.range' lo (hi - lo)).any (fun f => touchesWord c home t.scale (c.scaleFlat i f) (c.scaleFlat i f + 1) x.1)) else [])
      ++ (if t.comp ≠ 0 then stretchErrors c home t.ref lo hi else [])
  | .encoder home i lo hi => stretchErrors c home (c.plan.tensor i).ref lo hi

/-- Crates that a part reads: home, tensor and crate, those of the reference among them (R92, R101). -/
def partCrates (c : Ctx) : Part → List (Nat × Nat × Nat)
  | .bytes _ _ => []
  | .codes _ _ _ _ => []
  | .elems home i lo hi =>
    let t := c.plan.tensor i
    let l (k : Nat) : List (Nat × Nat × Nat) := if (c.plan.tensor k).comp = 0 then [] else (cratesIn lo hi).map (fun q => (home, k, q))
    if t.comp = 0 then [] else l i ++ (if t.ref = 0xFFFF then [] else l t.ref)
  | .encoder home i lo hi =>
    let r := (c.plan.tensor i).ref
    if r = 0xFFFF ∨ (c.plan.tensor r).comp = 0 then [] else (cratesIn lo hi).map (fun q => (home, r, q))

/-- Malformed crates that the parts of a record read: core, home's copy, tensor, crate, and the event's detail (R104, R106). -/
def badCrates (c : Ctx) (ps : List Part) : List (Nat × Nat × Nat × Nat × Nat) :=
  ((ps.flatMap (partCrates c)).filterMap (fun x =>
    let t := c.plan.tensor x.2.1
    let k := match readCrate c.s t (c.base x.1 t) x.2.2 with
      | .overrun => 2
      | .badCrc => 3
      | .fields .. => 0
    if k = 0 then none else some ((homeCore c.s c.plan x.1).getD 0, if t.shelf then x.1 else 0, x.2.1, x.2.2, k))).eraseDups

/-- Events of malformed crates: for each tensor and detail the lowest crate and their number (R107). -/
def badCrateEvents (c : Ctx) (bad : List (Nat × Nat × Nat × Nat × Nat)) : List Malformed :=
  let items := (bad.map (·.2)).eraseDups
  ((items.map (fun x => (x.2.2.2, x.2.1))).eraseDups).map (fun k =>
    let l := (items.filter (fun x => (x.2.2.2, x.2.1) == k)).map (·.2.2.1)
    ⟨k.1, c.record, k.2, l.foldl min (l.headD 0), min l.length 0xFFFFFFFF⟩)

/-- What a body does: element writes, malformed events, what it reads, and effects of its own. -/
structure Body where
  writes : List ElemW
  events : List Malformed
  reads : List Part
  extra : Act

/-- Malformed crates of a tensor in the landing set that fail their CRC: these restart the job (R106). -/
def landingCrates (c : Ctx) (ps : List Part) : List (Nat × Nat × Nat × Nat × Nat) :=
  if c.plan.landing.every = 0 then []
  else (badCrates c ps).filter (fun x => x.2.2.2.2 == 3 && c.plan.landing.list.contains x.2.2.1)

/-- Whether a read meets an error that escapes to the job's landing (R75 step 3, R106). -/
def landingEscape (c : Ctx) (ps : List Part) : Bool :=
  c.plan.landing.every != 0
    && (!(landingCrates c ps).isEmpty
      || ps.any (fun x => (partErrors c x).any (fun e => (match e.2.2 with
          | .double _ => true
          | _ => false)
        && (landingRanges c.s c.slot c.plan).any (fun x => (eccIn c.s x.1 x.2).any (fun y => y.2.1 == e.2.1)))))

/-- Counts of malformed crates, at the cores whose expanders met them (R104, R106, R438). A crate of the landing set that fails its CRC
restarts the job instead. -/
def crateCounts (c : Ctx) (ps : List Part) : Act :=
  let esc := landingCrates c ps
  let bad := (badCrates c ps).filter (fun x => !esc.contains x)
  Act.of (((bad.map (fun x => (x.1, x.2.2.2.2))).eraseDups).map (fun k =>
    .count (counterId (srcCore k.1) (if k.2 = 2 then 0x0B else 0x0C)) (bad.filter (fun x => (x.1, x.2.2.2.2) == k)).length))

/-- Crates that fail their CRC once: the second reading passes, a transient fault of the reader's core (R106). DEDUCED: it is a fault mark
of that core too, as R375 counts every fault event (notes/assumptions/36.md). -/
def crateGlitches (c : Ctx) (ps : List Part) : Act := fun s =>
  let met := (ps.flatMap (partCrates c)).filterMap (fun x =>
    let t := c.plan.tensor x.2.1
    let b := c.base x.1 t
    let a := phys (if t.comp = 3 then t.headerStart b + 8 * x.2.2 else t.sideStart b + x.2.2 * t.sideBytes)
    let whole := match readCrate c.s t b x.2.2 with
      | .fields .. => true
      | _ => false
    if whole && s.glitches.contains a then some (a, (homeCore c.s c.plan x.1).getD 0) else none)
  let once := ((met.map (·.1)).eraseDups).filterMap (fun a => met.find? (fun x => x.1 == a))
  Act.seq
    (Act.of (if once.isEmpty then [] else [.glitches (s.glitches.filter (fun a => !(once.map (·.1)).contains a))]))
    (Act.each (fun x => Act.seq (fun s => [.ledger 0x0100 (srcCore x.2) (toLE 8 (s.core x.2).health.ops ++ [6]),
        .count (counterId (srcCore x.2) 9) 1]) (coreFault x.2)) once) s

/-- Conversion counts of a record (R45, R437, R438). -/
def convCounts (n r sat nan0 : Nat) : Act :=
  Act.of ((if sat = 0 then [] else [.count (counterId (0xB000 + 2 * n) r) sat, .count (counterId (srcSlot n) 6) sat])
    ++ (if nan0 = 0 then [] else [.count (counterId (0xB000 + 2 * n + 1) r) nan0, .count (counterId (srcSlot n) 7) nan0]))

/-- Malformed events join the run's, and are counted (R107, R438): one event is what one tensor of a record meets of one detail code,
however many items of it are malformed (notes/assumptions/48.md). -/
def reportEvents (n : Nat) (evs : List Malformed) : Act :=
  if evs.isEmpty then Act.none else fun s =>
  match (s.slot n).run with
  | none => []
  | some q => [.slot n { s.slot n with run := some { q with reports := q.reports ++ evs } },
      .count (counterId (srcSlot n) 5) evs.length]

/-- A record's body is done. -/
def markBody (n r : Nat) : Act := fun s =>
  match (s.slot n).run with
  | none => []
  | some q => [.slot n { s.slot n with run := some { q with bodyDone := r :: q.bodyDone } }]

/-- Region IDs of the sealed tensors that a record names. The region of a tensor on another device is that device's: its ID is a value of
Config (notes/assumptions/47.md). -/
def sealedRids (c : Ctx) : List Dword :=
  (((recReads c.plan c.r ++ recWrites c.plan c.r).filter (fun i => (c.plan.tensor i).sealed)).filterMap (fun i =>
    let b := (c.plan.tensor i).base
    if isLocal c.s b then (regionAt c.s (phys (localPart b))).map (·.2.rid)
    else some (Config.remoteRegion (domainDevice b) (localPart b)))).eraseDups

/-- Region IDs join the taint of some shelves (R84). -/
def taintShelves (ids : List Dword) (cores : List Nat) : Act := fun s =>
  if ids.isEmpty then [] else (cores.eraseDups).map (fun k => .taint k (((Tab.look [] s.taint k) ++ ids).eraseDups))

/-- A record brings sealed plaintext into its cores' shelves, and an append into those of its tray holders; what the shelves of an
attention or append record hold may reach them too (R84, R255). -/
def taintAct (c : Ctx) : Act := fun s =>
  let cs := recCores s c.plan c.r
  taintShelves ((if recSealed c.plan c.r then sealedRids c else [])
      ++ (if c.r.opcode = 7 ∨ c.r.opcode = 8 then cs.flatMap (Tab.look [] s.taint) else []))
    (cs ++ (if c.r.opcode = 8 then (c.plan.pageSet c.r).elim [] (trayCores s c.plan) else [])) s

/-- The events of a record's reads (R75, R104, R106): each uncorrectable word, and malformed crates. -/
def inputEvents (c : Ctx) (ps : List Part) : List Malformed :=
  (((ps.flatMap (partErrors c)).filterMap (fun x => match x.2.2 with
      | .double _ => some x.1
      | _ => none)).eraseDups).map (fun a => ⟨1, c.record, a % 2 ^ 32, a / 2 ^ 32, 0⟩)
    ++ badCrateEvents c (badCrates c ps)

/-- Tensors that a part reads, in a home: with elements their scales and reference, for the encoder the reference alone. -/
def partTensors (c : Ctx) : Part → List (Nat × Nat)
  | .elems home i _ _ => (withRef c.plan i).map (fun k => (home, k))
  | .codes home i _ _ => [(home, i)]
  | .encoder home i _ _ => if (c.plan.tensor i).ref = 0xFFFF then [] else [(home, (c.plan.tensor i).ref)]
  | .bytes _ _ => []

/-- The parts of a record are read: gated cellars and shelves wake, words with an error are met, and malformed crates counted (R31, R74,
R104, R106). -/
def readParts (c : Ctx) (ps : List Part) : Act :=
  Act.all [
    Act.each (fun x => wakeRange (c.base x.1 (c.plan.tensor x.2)) (c.plan.tensor x.2).extent) ((ps.flatMap (partTensors c)).eraseDups),
    Act.each (fun x => match x with
      | .bytes a n => wakeRange a n
      | _ => Act.none) ps,
    Act.each (fun x => meetWord x) (((ps.flatMap (partErrors c)).map (·.2.1)).eraseDups),
    crateGlitches c ps, crateCounts c ps]

/-- A drawn free value where memory holds an uncorrectable word. -/
def blurDraw : Act := fun s => if s.ecc.any (fun x => match x.2 with
  | some (.double _) => true
  | _ => false) then [.fresh] else []

/-- A record's writes and what they count. -/
def storeOutputs (c : Ctx) (b : Body) : Act := fun s =>
  let bad := (storeBad c s b.writes).map (fun a => (⟨1, c.record, a % 2 ^ 32, a / 2 ^ 32, 0⟩ : Malformed))
  Act.all [storeElems c b.writes, b.extra, convCounts c.slot c.record (satCount c b.writes) (nanCount b.writes),
    reportEvents c.slot (inputEvents c b.reads ++ b.events ++ bad), taintAct c] s

/-- The body of a record of opcode `op`, carried out whole while the record is in flight. An error of the landing set stops
it: the job restarts (R75, R106, JOB_RESTART). -/
def recordBody (n r op : Nat) (f : Ctx → Body) : Act := fun s =>
  match bodyDue s n r op with
  | none => []
  | some (c, _) =>
    let b := f c
    if landingEscape c b.reads then readParts c b.reads s
    else Act.all [blurDraw, readParts c b.reads, storeOutputs c b, markBody n r] s

end Sys2Proof.Machine
end

