-- ==== Sys2Proof/Machine/Sheets.lean ====
section
/-! DEFINITION. Sys2Proof/Machine/Sheets.lean: fault counts of cores, the retirement of a core under a dust sheet, and the
positions that the remaining cores serve (R15, R266, R375, R376, R378). -/
namespace Sys2Proof.Machine

/-- Good cores of a tile. -/
def Tile.goodCores (t : Tile) : Nat := ((List.range 13).filter (fun c => !t.sheeted.getLsbD c)).length

/-- Positions shared by the first `n` of them (R266). -/
def sharePositions (n : Nat) (own : List (Option Nat)) : List (Option Nat) :=
  (List.range 12).map (fun p => own.getD (if p < n then p else p % n) none)

/-- A tile after core `c` of it, of instance 16 × t + c, is sheeted (R15, R266); an exchange in progress with it is abandoned (R33). -/
def sheetTile (t : Tile) (ix c : Nat) : Tile :=
  let me : Option Nat := some (16 * ix + c)
  let t1 := { t with
    sheeted := t.sheeted ||| BitVec.ofNat 13 (2 ^ c)
    exchange := match t.exchange with
      | some (a, b) => if a.val = c ∨ b.val = c then Option.none else some (a, b)
      | Option.none => Option.none }
  match t.spare with
  | some sp =>
    if sp.val = c then { t1 with spare := none }
    else { t1 with spare := none, positions := t.positions.map (fun p => if p = me then some (16 * ix + sp.val) else p) }
  | none =>
    let n := t1.goodCores
    if n = 0 then { t1 with positions := List.replicate 12 none }
    else
      let last := t.positions.getD n none
      { t1 with positions := sharePositions n ((t.positions.take n).map (fun p => if p = me then last else p)) }

/-- The next higher-numbered tile with a good core, wrapping from T19 to T0 (R266). -/
def nextGood (s : State) (t : Nat) : Option Nat :=
  ((List.range 19).map (fun i => (t + 1 + i) % 20)).find? (fun u => decide (0 < (s.tile u).goodCores))

/-- Positions of tiles without a good core are served by the next tile that has one (R266). -/
def borrowPositions : Act := fun s =>
  ((List.range 20).filter (fun t => (s.tile t).goodCores == 0)).filterMap (fun t =>
    (nextGood s t).map (fun u => .tile t { s.tile t with positions := (s.tile u).positions }))

/-- A core is sheeted: the spare or the sharing of positions takes its place, and the flash records it (R376, R378). -/
def sheetCore (c reason : Nat) : Act := fun s =>
  if !goodCore s c then []
  else
    Act.seq (Act.of [.tile (c / 16) (sheetTile (s.tile (c / 16)) (c / 16) (c % 16)),
      .core c { s.core c with
        array := MatArray.reset
        live := none
        laneRuns := []
        busy := []
        probe := false
        condemned := false
        escaped := false
        failed := false
        doubted := false },
      .ledger 0x0101 (srcCore c) (toLE 2 0 ++ [BitVec.ofNat 8 reason]), sheetCount s]) borrowPositions s

/-- Fault marks join a core's (R375). -/
def Health.faultN : Nat → Health → Health
  | 0, h => h
  | n + 1, h => Health.faultN n h.fault

/-- Whether a fault among `n` further ones makes the core's faults permanent (R375). -/
def Health.permanent : Nat → Health → Bool
  | 0, _ => false
  | n + 1, h => thirdFault h || Health.permanent n h.fault

/-- `issues` operations of a core, `n` of which faulted (R375, R376). A permanent fault condemns the core: it is sheeted once
no job has work in flight on it (R378). -/
def coreOps (c issues n : Nat) : Act := fun s =>
  let k := s.core c
  let h : Health := { k.health with ops := k.health.ops + issues }
  [.core c { k with health := h.faultN n, condemned := k.condemned || Health.permanent n h }]

/-- A core's second failure of one operation: a fault escapes local retry (R131, R183). -/
def escapeCore (c : Nat) : Act := Act.seq (coreOps c 2 2) (fun s => [.core c { s.core c with escaped := true }])

/-! ### Bridge edges (R376) -/

/-- The number of the edge that leaves a tile in a direction: 0 toward row − 1, 1 toward column + 1, 2 toward row + 1, 3 toward column − 1,
the edges of the outer columns being those to the hubs (R379). -/
def edgeKey (t dir : Nat) : Nat := if dir = 0 then 4 * (t - 5) + 2 else if dir = 3 ∧ t % 5 ≠ 0 then 4 * (t - 1) + 1 else 4 * t + dir

/-- Whether a tile has a bridge in a direction. -/
def edgeExists (t dir : Nat) : Bool := !(dir == 0 && decide (t < 5)) && !(dir == 2 && decide (15 ≤ t))

/-- The tile and direction of an edge as its other end sees it, where that is a tile. -/
def edgeOther (t dir : Nat) : Option (Nat × Nat) :=
  match dir with
  | 0 => some (t - 5, 2)
  | 1 => if t % 5 = 4 then none else some (t + 1, 3)
  | 2 => some (t + 5, 0)
  | _ => if t % 5 = 0 then none else some (t - 1, 1)

/-- A tile has used the spare wire group of an edge. -/
def edgeSpareUsed (t dir : Nat) : Act := fun s => [.tile t { s.tile t with edgeSpare := (s.tile t).edgeSpare.set dir 0 }]

/-- A wire group that is permanently faulty gives way to the spare group; without one the edge runs at half rate (R376). -/
def retireGroup (t dir group : Nat) : Act := fun s =>
  let k := edgeKey t dir
  let v := s.edge k
  if (s.tile t).edgeSpare.getD dir 0 = 1 then
    Act.all [Act.of [.edge k { v with groups := Tab.put Health.reset v.groups group Health.reset },
        .ledger 0x0101 (srcTile t) (toLE 2 (16 * dir + group) ++ [1]), sheetCount s],
      edgeSpareUsed t dir, (edgeOther t dir).elim Act.none (fun x => edgeSpareUsed x.1 x.2)] s
  else if v.half then []
  else [.edge k { v with half := true }, .ledger 0x0101 (srcTile t) (toLE 2 (16 * dir + group) ++ [1]), sheetCount s]

/-- What a wire group has carried: a slot that fails its CRC-32 is sent again, which is a contained fault (R375, R376, R438). R436 lists no
kind of TRANSIENT record for it, so the kind is free, and the index of its SHEETED record is the model's (notes/assumptions/36.md). -/
def edgeSlots (x : EdgeSlots) : Act := fun s =>
  let t := x.tile.val
  let k := edgeKey t x.dir.val
  let v := s.edge k
  let h : Health := { Tab.look Health.reset v.groups x.group.val with ops := (Tab.look Health.reset v.groups x.group.val).ops + x.slots }
  if !edgeExists t x.dir.val then []
  else if !x.failed then [.edge k { v with groups := Tab.put Health.reset v.groups x.group.val h }]
  else Act.seq (Act.of [.edge k { v with groups := Tab.put Health.reset v.groups x.group.val h.fault }, .count (counterId (srcTile t) 6) 1,
      .ledger 0x0100 (srcTile t) (toLE 8 h.ops ++ [BitVec.ofNat 8 (Config.free s.free)]), .fresh])
    (if thirdFault h then retireGroup t x.dir.val x.group.val else Act.none) s

end Sys2Proof.Machine
end

