-- ==== Sys2Proof/Machine/Lanes.lean ====
section
/-! DEFINITION. Sys2Proof/Machine/Lanes.lean: the lane engine (R169 to R186): the effect of each lane instruction on its lane,
work units, row reductions and the order in which units are dealt. -/
namespace Sys2Proof.Machine

/-! ### Registers -/

/-- Register `r` of a lane. -/
def Lane.get (l : Lane) (r : Nat) : Word := Tab.look 0 l.regs r

/-- A write by an instruction other than a reduction: element registers v0 to v47 only (R171). -/
def Lane.set (l : Lane) (r : Nat) (v : Word) : Lane := if r < 48 then { l with regs := Tab.put 0 l.regs r v } else l

/-- Row registers alone: every element register is +0 (R171). -/
def Lane.rowRegs (t : Tab Word) : Tab Word := t.filter (fun x => 48 ≤ x.1)

/-! ### What an instruction sees -/

/-- A split of a CONV record on the lane path (R163, R263): its products, its first group, its rows of M, and its split of K. -/
structure ConvPart where
  p : Prod
  g0 : Nat
  m0 : Nat
  m1 : Nat
  q2 : Nat

/-- The plan, program and home that a lane's work unit belongs to. -/
structure LaneEnv where
  ctx : Ctx
  prog : LaneProg
  home : Nat
  conv : Option ConvPart

/-- Whether a record is a CONV record of the lane path (R163). -/
def laneConv (r : Rec) : Bool := r.opcode == 2 && r.geometry.kind == 1 && r.geometry.engine

/-- What the units of a split see. On the lane convolution path a row is a row of outputs of one group, in ascending group and row, and
its elements are the group's output channels (notes/assumptions/15.md). -/
def splitEnv (c : Ctx) (split : Nat) : LaneEnv :=
  if laneConv c.r then
    let p := c.convolution
    let q0 := split / (c.r.split1 * c.r.split2)
    let q1 := split / c.r.split2 % c.r.split1
    let m := splitRange p.m c.r.split0 q0
    let g := splitRange p.groups c.r.split1 q1
    ⟨c, ⟨0, 1, p.n, (g.2 - g.1) * (m.2 - m.1), [], 0, [], [], true⟩, splitHome c.plan c.r q0 q1 (split % c.r.split2),
      some ⟨p, g.1, m.1, m.2, split % c.r.split2⟩⟩
  else ⟨c, c.plan.program c.r, splitHome c.plan c.r split 0 0, none⟩

/-- A plan with nothing in it. -/
def Plan.empty : Plan := ⟨0, 0, 0, 1, [], [], [], ⟨0, 0, 0, 0, [], true⟩, ⟨0, 0, 0, 0, 0, 0, true⟩, [], [], [], true⟩

/-- A record with every field unused. -/
def Rec.empty : Rec :=
  ⟨0, 0, 0, false, false, 0, 0, 0, 0xFFFF, 0xFFFF, 0xFFFF, 0xFFFF, 0xFFFF, 0xFFFF, 0xFFFF, 0, 1, 1, 1, 0, [], 0xFFFF, 0xFFFF,
    0, 0, [], true⟩

/-- What the instructions of lane `i` see: nothing of a plan where no work unit is bound. -/
def laneEnv (s : State) (i : Nat) : LaneEnv :=
  let l := s.lane i
  let none_ : LaneEnv := ⟨⟨s, 0, Plan.empty, 0, Rec.empty, 0, .standard⟩, Plan.empty.program Rec.empty, 0, none⟩
  if !l.busy then none_
  else match recordCtx s l.slot l.record with
    | none => none_
    | some (c, _) => splitEnv c l.split

/-- The output of a CONV unit's row and element: group, row of M, output channel of the group. -/
def ConvPart.output (x : ConvPart) (row elem : Nat) : Nat × Nat × Nat :=
  (x.g0 + row / (x.m1 - x.m0), x.m0 + row % (x.m1 - x.m0), elem)

/-- Flat logical index of the element that runs (R169), or on the lane convolution path of its output in OUT. -/
def LaneEnv.flat (e : LaneEnv) (l : Lane) : Nat :=
  match e.conv with
  | none => l.row * e.prog.l + l.elem
  | some x => let o := x.output l.row l.elem
    convFlat (e.ctx.plan.tensor e.ctx.r.out) x.p o.1 o.2.1 o.2.2

/-- On the lane convolution path the operands of position `kpos` arrive: their codes in v0 and v1, their block scales, and the anchor of
the output (R53, R163, R175). -/
def LaneEnv.deliver (e : LaneEnv) (l : Lane) : Lane :=
  match e.conv with
  | none => l
  | some x =>
    let o := x.output l.row l.elem
    if l.kpos < x.p.k then
      { (l.set 0 (BitVec.ofNat 32 (x.p.ca e.home o.1 o.2.1 l.kpos))).set 1 (BitVec.ofNat 32 (x.p.cb e.home o.1 l.kpos o.2.2)) with
        scaleA := x.p.xa e.home o.1 o.2.1 (l.kpos / 32)
        scaleB := x.p.xb e.home o.1 (l.kpos / 32) o.2.2
        anchor := (x.p.anchor e.home o.1 o.2.1 o.2.2).getD 0 }
    else l

/-- An element starts: on the lane convolution path with the first operands of its split of K. -/
def LaneEnv.begin (e : LaneEnv) (l : Lane) : Lane :=
  match e.conv with
  | none => l
  | some x => e.deliver { l with kpos := 256 * (splitRange x.p.chunks e.ctx.r.split2 x.q2).1 }

/-! ### Instructions -/

/-- FP32 with canonical NaN from bits (FABS, FNEG, R174). -/
def canon32 (w : Word) : Word := if (f32Val w).isNan then BitVec.ofNat 32 (Fmt.nan .fp32) else w

/-- Shift amount b[4:0] (R174). -/
def shiftBy (b : Word) : Nat := b.toNat % 32

/-- The 96-bit integer in registers A to A + 2 (R175). -/
def Lane.triple (l : Lane) (a : Nat) : BitVec 96 := (l.get (a + 2)) ++ (l.get (a + 1)) ++ (l.get a)

/-- The accumulator that XMAC adds into: the triple with its flags (R175). -/
def Lane.acc (l : Lane) (d : Nat) : Acc :=
  let f := Tab.look 0 l.flags d
  ⟨l.triple d, f.getLsbD 2, f.getLsbD 1, f.getLsbD 0, none⟩

/-- Exponent of the weight of bit 0 of the triple (R51, R53). -/
def LaneEnv.weight (e : LaneEnv) (l : Lane) : Int :=
  let ta := e.ctx.plan.tensor e.ctx.r.a
  let tb := e.ctx.plan.tensor e.ctx.r.b
  if ta.scaled || tb.scaled then l.anchor - 71 else ta.fmt.mExp + tb.fmt.mExp

/-- An operand of XMAC: its stored code with the block scale delivered with it (R175). -/
def LaneEnv.operand (t : Tensor) (x : Nat) (w : Word) : FV :=
  let v := decode t.fmt (w.toNat % 2 ^ t.fmt.width)
  if t.scaled then (if x = 0xFF then .nan else v.scale (Int.ofNat x - 127)) else v

/-- XMAC (R175): the product of the delivered operands joins the triple, and on the lane convolution path the operands of the next
position arrive. -/
def laneXmac (e : LaneEnv) (l : Lane) (d a b : Nat) : Lane :=
  let p := (LaneEnv.operand (e.ctx.plan.tensor e.ctx.r.a) l.scaleA (l.get a)).mul
    (LaneEnv.operand (e.ctx.plan.tensor e.ctx.r.b) l.scaleB (l.get b))
  let r := (l.acc d).exact (e.weight l) p
  let l' := ((l.set d (r.int.extractLsb' 0 32)).set (d + 1) (r.int.extractLsb' 32 32)).set (d + 2) (r.int.extractLsb' 64 32)
  e.deliver { l' with
    flags := Tab.put 0 l'.flags d (BitVec.ofNat 3 (4 * b2n r.nan + 2 * b2n r.pinf + b2n r.ninf))
    kpos := if e.conv.isSome then l.kpos + 1 else l.kpos }

/-- A conversion's counts join the unit's (R45). -/
def Lane.count (l : Lane) (c : Conv) : Lane := { l with sats := l.sats + b2n c.sat, nans := l.nans + b2n c.nan0 }

/-- XRND: the triple rounded once to the record's output format (R174, R56). -/
def laneXrnd (e : LaneEnv) (l : Lane) (d a : Nat) : Lane :=
  let t := e.ctx.plan.tensor e.ctx.r.out
  let c := convert t.fmt t.rnd (if t.rnd = .sr then e.ctx.draw e.ctx.r.out (e.flat l) else 0) t.ovfNan
    ((l.acc a).value false (e.weight l))
  (l.set d (BitVec.ofNat 32 c.code)).count c

/-- Whether a format may be the source or target of CVT (R176). -/
def cvtFmt (code : Nat) : Option Fmt := if code = 10 ∨ code = 11 then none else Fmt.ofCode code

/-- CVT (R176): source in B[5:2], target in C[5:2], rounding in B[1:0] and C[1], OVF_NAN in C[0]. -/
def laneCvt (e : LaneEnv) (l : Lane) (d a b c : Nat) : Lane :=
  match cvtFmt (b / 4), cvtFmt (c / 4), Rnd.ofCode (b % 4 * 2 + c / 2 % 2) with
  | some f, some g, some m =>
    let r := if m = .sr then genTop (genWord e.ctx.seed e.prog.streamBase (e.flat l)) else 0
    let k := convert g m r (bit c 0) (decode f ((l.get a).toNat % 2 ^ f.width))
    (l.set d (BitVec.ofNat 32 k.code)).count k
  | _, _, _ => l

/-- Input and output formats of a lane SFN (R177). -/
def sfnIn (c : Nat) : Option Fmt :=
  match bits c 4 3 with
  | 0 => some .fp32 | 1 => some .bf16 | 2 => some .fp16 | _ => none
def sfnOut (c : Nat) : Option Fmt :=
  match bits c 2 0 with
  | 0 => some .bf16 | 1 => some .fp16 | 2 => some .e4m3 | 3 => some .e5m2 | _ => none

/-- SFN (R177). -/
def laneSfn (e : LaneEnv) (l : Lane) (d a b c : Nat) : Lane :=
  match sfnIn c, sfnOut c with
  | some f, some g =>
    if sfCodes.contains b then
      let k := sfDeliver e.ctx.set b (decode f ((l.get a).toNat % 2 ^ f.width)) g false
      (l.set d (if bit c 5 then f32Bits (decode g k.code) else BitVec.ofNat 32 k.code)).count k
    else l
  | _, _ => l

/-- RAND (R178, R213 to R215). -/
def laneRand (e : LaneEnv) (l : Lane) (d a b c : Nat) : Lane :=
  let w := genWord e.ctx.seed ((e.prog.streamBase + c) % 2 ^ 32) (e.flat l)
  let u := uniform w
  match b / 4 with
  | 0 => (l.set d (w.extractLsb' 0 32)).set (d + 1) (w.extractLsb' 32 32)
  | 1 => l.set d (f32Bits u)
  | 2 => l.set d (if u.lt (f32Val (l.get a)) then 1 else 0)
  | 3 => let k := sfDeliver .standard 0x18 u .bf16 false
    (l.set d (BitVec.ofNat 32 k.code)).count k
  | 4 => let k := sfDeliver .standard 0x18 u .fp16 false
    (l.set d (BitVec.ofNat 32 k.code)).count k
  | _ => l

/-- Flat index that a slot's access takes (R180, R181). -/
def slotFlat (w row flat : Nat) : Nat :=
  match slotBcast w with
  | 1 => row
  | 3 => 0
  | _ => flat

/-- Address of a word-mode element (R181). -/
def LaneEnv.wordAddr (e : LaneEnv) (w f : Nat) : Nat :=
  let t := e.ctx.plan.tensor (slotTensor w)
  e.ctx.base e.home t + 8 * t.offset (t.index f)

/-- An 8-byte word as a lane reads it: control space (R67), or memory. -/
def LaneEnv.readWord (e : LaneEnv) (isSealed : Bool) (a : Nat) : Nat :=
  if controlBase ≤ a ∧ a < controlBase + 0x8000 then hookWord (e.ctx.s.hook ((a - controlBase) / 8))
  else if a = controlBase + 0x8000 then deviceNumber e.ctx.s
  else leNat (planBytes e.ctx.s isSealed a 8)

/-- LD (R181): slot in C[5:3], mode in C[2:0]. -/
def laneLoad (e : LaneEnv) (l : Lane) (d c : Nat) : Lane :=
  let w := e.prog.slots.getD (c / 8) 0
  if !slotUsed w || slotStore w then l
  else
    let i := slotTensor w
    let t := e.ctx.plan.tensor i
    let f := slotFlat w l.row (e.flat l)
    match c % 8 with
    | 0 => let k := convert .fp32 .rne 0 false (e.ctx.val e.home i f)
      (l.set d (BitVec.ofNat 32 k.code)).count k
    | 1 => l.set d (BitVec.ofNat 32 (e.ctx.code e.home i f))
    | 2 => l.set d (BitVec.ofInt 32 (decode t.fmt (e.ctx.code e.home i f)).floor)
    | 3 => let v := e.readWord t.sealed (e.wordAddr w f)
      (l.set d (BitVec.ofNat 32 v)).set (d + 1) (BitVec.ofNat 32 (v / 2 ^ 32))
    | 4 => l.set d (BitVec.ofNat 32 (e.ctx.scaleCode e.home i f))
    | _ => l

/-- ST (R181): the store is held until the unit completes (R183). -/
def laneStore (e : LaneEnv) (l : Lane) (a c : Nat) : Lane :=
  let w := e.prog.slots.getD (c / 8) 0
  if !slotUsed w || !slotStore w || 4 ≤ c % 8 then l
  else { l with stores := l.stores ++ [⟨c / 8, c % 8, slotFlat w l.row (e.flat l), l.get a, l.get (a + 1)⟩] }

/-- A partial with its first contribution, and a further one (R179, R202). -/
def Partial.first (k : Reduce) (a : Word) : Partial :=
  match k with
  | .wel => let w := welFirst (f32Val a)
    ⟨w.n, f32Bits w.mean, f32Bits w.m2⟩
  | _ => ⟨1, f32Bits (f32Val a), 0⟩
def Partial.next (k : Reduce) (p : Partial) (a : Word) : Partial :=
  match k with
  | .sum => ⟨p.count + 1, f32Add p.p a, 0⟩
  | .max => ⟨p.count + 1, f32Max p.p a, 0⟩
  | .min => ⟨p.count + 1, f32Min p.p a, 0⟩
  | .wel => let w := welStep ⟨p.count, f32Val p.p, f32Val p.q⟩ (f32Val a)
    ⟨w.n, f32Bits w.mean, f32Bits w.m2⟩

/-- A reduction's contribution of the element that runs (R179). -/
def laneReduce (l : Lane) (k : Reduce) (d a : Nat) : Lane :=
  let v := l.get a
  match l.partials.find? (fun x => x.1 == d) with
  | none => { l with partials := l.partials ++ [(d, k, Partial.first k v)] }
  | some _ => { l with partials := l.partials.map (fun x => if x.1 = d then (d, x.2.1, x.2.2.next x.2.1 v) else x) }

/-- PASS or END: the element ends, and the next element of the chunk starts, or the unit has run (R170, R171). -/
def laneEnd (e : LaneEnv) (l : Lane) : Lane :=
  let l' := { l with regs := Lane.rowRegs l.regs, flags := [] }
  if !l.busy then l'
  else if l.elem + 1 < min (32 * (l.elem / 32 + 1)) e.prog.l then e.begin { l' with elem := l.elem + 1 }
  else { l' with ended := true }

/-- Truth as a register value. -/
def flagWord (b : Bool) : Word := if b then 1 else 0

/-- The effect of an instruction on its lane, by opcode and fields (R173, R174). An opcode or sub-field that LOAD_PLAN
refuses has none. -/
def laneOp (e : LaneEnv) (l : Lane) (op d a b c : Nat) : Lane :=
  let x := l.get a
  let y := l.get b
  match op with
  | 0x01 => l.set d (BitVec.ofNat 32 (e.prog.consts.getD c 0))
  | 0x02 => l.set d x
  | 0x03 =>
    match c with
    | 0 => l.set d (BitVec.ofNat 32 l.elem)
    | 1 => l.set d (BitVec.ofNat 32 l.row)
    | 2 => l.set d (BitVec.ofNat 32 (l.row / 2 ^ 32 % 256))
    | 3 => l.set d (BitVec.ofNat 32 (e.flat l))
    | 4 => l.set d (BitVec.ofNat 32 (e.flat l / 2 ^ 32))
    | _ => l
  | 0x10 => l.set d (f32Add x y)
  | 0x11 => l.set d (f32Sub x y)
  | 0x12 => l.set d (f32Mul x y)
  | 0x13 => l.set d (f32Fma x y (l.get c))
  | 0x14 => l.set d (f32Min x y)
  | 0x15 => l.set d (f32Max x y)
  | 0x16 => l.set d (canon32 (x &&& 0x7FFFFFFF))
  | 0x17 => l.set d (canon32 (x ^^^ 0x80000000))
  | 0x18 => l.set d (bf16Add x y)
  | 0x19 => l.set d (bf16Mul x y)
  | 0x1A => l.set d (bf16Fma x y (l.get c))
  | 0x20 => l.set d (x + y)
  | 0x21 => l.set d (x - y)
  | 0x22 => l.set d (x * y)
  | 0x23 => l.set d (BitVec.ofInt 32 (x.toInt * y.toInt / 2 ^ 32))
  | 0x24 => l.set d (if x.toInt ≤ y.toInt then x else y)
  | 0x25 => l.set d (if y.toInt ≤ x.toInt then x else y)
  | 0x26 => l.set d (x &&& y)
  | 0x27 => l.set d (x ||| y)
  | 0x28 => l.set d (x ^^^ y)
  | 0x29 => l.set d (x <<< shiftBy y)
  | 0x2A => l.set d (x >>> shiftBy y)
  | 0x2B => l.set d (x.sshiftRight (shiftBy y))
  | 0x2C => laneXmac e l d a b
  | 0x2D => laneXrnd e l d a
  | 0x30 => l.set d (flagWord ((f32Val x).lt (f32Val y)))
  | 0x31 => l.set d (flagWord ((f32Val x).le (f32Val y)))
  | 0x32 => l.set d (flagWord ((f32Val x).eq (f32Val y)))
  | 0x33 => l.set d (flagWord (x.slt y))
  | 0x34 => l.set d (flagWord (x == y))
  | 0x35 => l.set d (if l.get c = 0 then y else x)
  | 0x40 => laneCvt e l d a b c
  | 0x50 => laneSfn e l d a b c
  | 0x58 => laneRand e l d a b c
  | 0x60 => laneLoad e l d c
  | 0x61 => laneStore e l a c
  | 0x70 => laneReduce l .sum d a
  | 0x71 => laneReduce l .max d a
  | 0x72 => laneReduce l .min d a
  | 0x73 => laneReduce l .wel d a
  | 0xF0 => laneEnd e l
  | 0xFF => laneEnd e l
  | _ => l

/-- An instruction word carried out (R173). -/
def laneWord (e : LaneEnv) (l : Lane) (w : Nat) : Lane :=
  laneOp e l (bits w 31 24) (bits w 23 18) (bits w 17 12) (bits w 11 6) (bits w 5 0)

/-! ### Work units -/

/-- The instructions of pass `p`, its PASS or END among them (R172). -/
def passInstrs : List Nat → Nat → List Nat
  | [], _ => []
  | w :: ws, p =>
    if bits w 31 24 = 0xF0 ∨ bits w 31 24 = 0xFF then (if p = 0 then [w] else passInstrs ws (p - 1))
    else if p = 0 then w :: passInstrs ws 0 else passInstrs ws p

/-- A lane that starts a work unit: chunk `ch` of a row in a pass, with the row's registers (R170, R171). -/
def Lane.start (slot record split row pass ch : Nat) (vrow : Tab Word) : Lane :=
  { Lane.reset with
    regs := Lane.rowRegs vrow
    busy := true
    slot := slot
    record := record
    split := split
    row := row
    pass := pass
    elem := 32 * ch }

/-- A work unit run to its end: `n` elements, each through the instructions of its pass (R170). -/
def runElems (e : LaneEnv) (instrs : List Nat) : Nat → Lane → Lane
  | 0, l => l
  | n + 1, l => runElems e instrs n (instrs.foldl (laneWord e) l)

/-- The lane at the end of a work unit. -/
def runUnit (e : LaneEnv) (slot record split row pass ch : Nat) (vrow : Tab Word) : Lane :=
  let l := Lane.start slot record split row pass ch vrow
  if e.conv.isSome then l
  else runElems e (passInstrs e.prog.instrs pass) (min (32 * ch + 32) e.prog.l - 32 * ch) l

/-- The outputs of a CONV unit (R163): formed with the split 0 of K, the bits that the array gives. -/
def ConvPart.writes (x : ConvPart) (c : Ctx) (row ch : Nat) : List ElemW :=
  if x.q2 ≠ 0 then []
  else
    let sum (g m n : Nat) : FV :=
      let w := x.p.weight (outHome c x.p true g m n 0) g m n
      x.p.value c.r.split2 w (fun q => x.p.splitSum c.r.split2 (outHome c x.p true g m n q) g m n w q
        (splitRange x.p.chunks c.r.split2 q).1 Acc.zero)
    c.convRows x.p sum ((List.range' (32 * ch) (min (32 * ch + 32) x.p.n - 32 * ch)).map (x.output row))

/-- What a unit's stores write (R181, R183): element writes, and words to memory or to the control space. -/
def unitWrites (e : LaneEnv) (l : Lane) : List ElemW :=
  match e.conv with
  | some x => x.writes e.ctx l.row (l.elem / 32)
  | none =>
  (List.range 8).flatMap (fun k =>
    let i := slotTensor (e.prog.slots.getD k 0)
    let t := e.ctx.plan.tensor i
    let mine := l.stores.filter (fun x => x.slot == k)
    e.ctx.outWrites i t.rnd ((mine.filter (fun x => x.mode == 0)).map (fun x =>
        e.ctx.outV i t.rnd t.ovfNan e.home x.flat (f32Val x.lo)))
      ++ (mine.filter (fun x => x.mode == 1 || x.mode == 2)).map (fun x =>
        ⟨i, e.home, x.flat, if x.mode = 1 then ⟨x.lo.toNat % 2 ^ t.fmt.width, false, false⟩
          else clampInt t.fmt x.lo.toInt⟩))

/-- The word stores of a unit: memory words, and hook releases with the slot as their source (R67, R181). -/
def unitWords (e : LaneEnv) (l : Lane) : Act :=
  Act.each (fun x =>
    let w := e.prog.slots.getD x.slot 0
    let a := e.wordAddr w x.flat
    if controlBase ≤ a ∧ a < controlBase + 0x8000 then
      (if x.lo = 0 then Act.none else releaseHook ((a - controlBase) / 8) x.lo.toNat (srcSlot e.ctx.slot) true)
    else if controlBase ≤ a then Act.none
    else planStore (e.ctx.plan.tensor (slotTensor w)).sealed a (toLE 4 x.lo.toNat ++ toLE 4 x.hi.toNat))
    (l.stores.filter (fun x => x.mode == 3))

/-! ### Rows and reductions -/

/-- Chunks of a row (R169). -/
def LaneProg.chunks (g : LaneProg) : Nat := ceilDiv g.l 32

/-- Two partials merged, left with right (R179, R202). A count of 0 stands for a chunk that a restored subtree to its left
holds (R186). -/
def Partial.merge (k : Reduce) (a b : Partial) : Partial :=
  if b.count = 0 then a else match k with
  | .sum => ⟨a.count + b.count, f32Add a.p b.p, 0⟩
  | .max => ⟨a.count + b.count, f32Max a.p b.p, 0⟩
  | .min => ⟨a.count + b.count, f32Min a.p b.p, 0⟩
  | .wel => let w := welMerge ⟨a.count, f32Val a.p, f32Val a.q⟩ ⟨b.count, f32Val b.p, f32Val b.q⟩
    ⟨w.n, f32Bits w.mean, f32Bits w.m2⟩

/-- Partials of one reduction in ascending chunk order. -/
def chunkParts (d : Nat) (ps : List (Nat × Reduce × Nat × Partial)) : List (Nat × Partial) :=
  (ps.filter (fun x => x.1 == d)).foldl (fun acc x => insertByFst (x.2.2.1, x.2.2.2) acc) []

/-- The row registers after a pass: the root of each reduction's tree (R179). -/
def rowRoots (vrow : Tab Word) (ps : List (Nat × Reduce × Nat × Partial)) : Tab Word :=
  ((ps.map (fun x => (x.1, x.2.1))).eraseDups).foldl (fun v x =>
    let root := treeRoot (Partial.merge x.2) ⟨0, 0, 0⟩ ((chunkParts x.1 ps).map (·.2))
    match x.2 with
    | .wel => Tab.put 0 (Tab.put 0 v x.1 root.p) (x.1 + 1)
        (f32Bits (welVar ⟨root.count, f32Val root.p, f32Val root.q⟩))
    | _ => Tab.put 0 v x.1 root.p) vrow

/-- A chunk that has completed joins its row; when the last one of the pass has, the pass ends (R170, R179). -/
def OpenRow.finishChunk (g : LaneProg) (o : OpenRow) (ch : Nat) (ps : List (Nat × Reduce × Partial)) : OpenRow :=
  let o := { o with completed := o.completed ++ [ch], partials := o.partials ++ ps.map (fun x => (x.1, x.2.1, ch, x.2.2)) }
  if o.completed.length < g.chunks then o
  else { o with pass := o.pass + 1, dealt := 0, completed := [], vrow := rowRoots o.vrow o.partials, partials := [] }

/-- A row that has just started (R171). -/
def OpenRow.start (row : Nat) : OpenRow := ⟨row, 0, 0, [], [], []⟩

/-- The next unit to deal: row, pass, chunk and row registers, with the split's progress after it (R170). -/
def LaneRun.deal (g : LaneProg) (q : LaneRun) : Option ((Nat × Nat × Nat × Tab Word) × LaneRun) :=
  match q.rows.find? (fun o => decide (o.dealt < g.chunks)) with
  | some o => some ((o.row, o.pass, o.dealt, o.vrow),
      { q with rows := q.rows.map (fun x => if x.row = o.row then { x with dealt := x.dealt + 1 } else x) })
  | none =>
    if q.nextRow < q.lastRow ∧ q.rows.length < 128 then
      some ((q.nextRow, 0, 0, []),
        { q with nextRow := q.nextRow + 1, rows := q.rows ++ [{ OpenRow.start q.nextRow with dealt := 1 }] })
    else none

/-- A completed chunk joins its split; a row whose last pass has ended leaves it. -/
def LaneRun.finish (g : LaneProg) (q : LaneRun) (row ch : Nat) (ps : List (Nat × Reduce × Partial)) : LaneRun :=
  { q with rows := (q.rows.map (fun o => if o.row = row then o.finishChunk g ch ps else o)).filter (fun o => o.pass < g.passes) }

/-- Every row of the split has run. `lastRow` is one past the split's last row. -/
def LaneRun.finished (q : LaneRun) : Bool := q.rows.isEmpty && decide (q.lastRow ≤ q.nextRow)

/-- Units not yet completed of a split, forgotten: they are dealt again (R183, R184). -/
def LaneRun.rewind (q : LaneRun) : LaneRun :=
  { q with rows := q.rows.map (fun o => { o with dealt := o.completed.length }) }

/-- A unit's results: element writes, the counts of its conversions, and its word stores. -/
structure UnitOut where
  writes : List ElemW
  sats : Nat
  nans : Nat
  words : List (LaneEnv × Lane)

/-- The rest of a split, unit after unit (R169, R170). `n` bounds the number of units. -/
def runSplit (e : LaneEnv) : Nat → LaneRun → UnitOut → LaneRun × UnitOut
  | 0, q, o => (q, o)
  | n + 1, q, o =>
    match q.deal e.prog with
    | none => (q, o)
    | some (u, q') =>
      let l := runUnit e q.slot q.record q.split u.1 u.2.1 u.2.2.1 u.2.2.2
      runSplit e n (q'.finish e.prog u.1 u.2.2.1 l.partials)
        ⟨o.writes ++ unitWrites e l, o.sats + l.sats, o.nans + l.nans, o.words ++ [(e, l)]⟩

/-- The splits of a record of the lane engine as they start, in ascending home order: rows of split q over the homes (R169, R264, R265,
R267). -/
def laneSplits (c : Ctx) : List (Nat × LaneRun) :=
  let l : List (Nat × LaneRun) := (List.range (recSplits c.r)).map (fun q =>
    let e := splitEnv c q
    let x := if e.conv.isSome then (0, e.prog.rows) else splitRange e.prog.rows c.r.split0 q
    (e.home, ⟨c.slot, c.record, q, x.1, x.2, []⟩))
  (List.range c.plan.homes).flatMap (fun h => l.filter (fun x => x.1 == h))

/-- Free lanes of a core take units while there are any (R170; which lane takes which unit is not specified,
notes/assumptions/15.md). -/
def dealLanes (core : Nat) (e : LaneEnv) : Nat → List Nat → LaneRun → List Eff × LaneRun
  | 0, _, q => ([], q)
  | _ + 1, [], q => ([], q)
  | n + 1, i :: is, q =>
    match q.deal e.prog with
    | none => ([], q)
    | some (u, q') =>
      let r := dealLanes core e n is q'
      (.lane (128 * core + i) (e.begin (Lane.start q.slot q.record q.split u.1 u.2.1 u.2.2.1 u.2.2.2)) :: r.1, r.2)

/-- Lanes of a core without a work unit. -/
def freeLanes (s : State) (core : Nat) : List Nat := (List.range 128).filter (fun i => !(s.lane (128 * core + i)).busy)

/-- A split's progress replaced in a core's list. -/
def Core.setRun (k : Core) (q : LaneRun) : Core :=
  { k with laneRuns := k.laneRuns.map (fun x => if x.slot = q.slot ∧ x.record = q.record ∧ x.split = q.split then q else x) }

/-- The class of a plan slot. -/
def slotClass (s : State) (n : Nat) : Nat := ((s.slot n).plan.map (·.cls)).getD 3

/-- Whether the lane-program record of a split stops at the next unit boundary: its plan is paused or saved (R184). -/
def laneStops (s : State) (q : LaneRun) : Bool :=
  match recordCtx s q.slot q.record with
  | none => true
  | some (c, r) => c.r.opcode == 9 && (r.paused || r.saving.isSome)

/-- Whether a split of a lower class gives way to a LIVE lane-program record on its core (R184). -/
def laneYields (s : State) (core : Nat) (q : LaneRun) : Bool :=
  slotClass s q.slot != 0 && (s.core core).laneRuns.any (fun x => slotClass s x.slot == 0 && !x.finished && !laneStops s x)

/-- Whether nothing is dealt on a core: a fault has escaped there, or a rotation or a retirement moves its splits (R131, R183, R184). -/
def laneHeld (s : State) (core : Nat) : Bool :=
  (s.core core).escaped || (s.core core).condemned || (s.core core).failed || (s.tile (core / 16)).exchange.any (fun x => core % 16 == x.1.val || core % 16 == x.2.val)

/-- The engine deals units of a record on a core to its free lanes: of its first split that has not finished, in ascending home order
(R170, R267). -/
def dealRecord (core : Nat) (key : Nat × Nat) : Act := fun s =>
  match (s.core core).laneRuns.find? (fun q => q.slot == key.1 && q.record == key.2 && !q.finished) with
  | none => []
  | some q => match recordCtx s q.slot q.record with
    | none => []
    | some (c, _) =>
      if laneStops s q || laneYields s core q then []
      else
        let d := dealLanes core (splitEnv c q.split) 128 (freeLanes s core) q
        .core core ((s.core core).setRun d.2) :: d.1

/-- The engine deals on a core, unless something holds it: to each record that has splits there (R170, R184). -/
def dealCore (core : Nat) : Act := fun s =>
  if laneHeld s core then []
  else Act.each (dealRecord core) ((((s.core core).laneRuns).map (fun q => (q.slot, q.record))).eraseDups) s

/-- Whether the units of a record go on: on no core that holds one of its splits is the dealing held, or do they yield (R184). -/
def laneGoes (c : Ctx) : Bool :=
  c.s.cores.all (fun x => (x.2.laneRuns.filter (fun q => q.slot == c.slot && q.record == c.record)).all (fun q =>
    !laneHeld c.s x.1 && !laneYields c.s x.1 q))

/-! ### Crates of lane stores (R97, R101) -/

/-- What element writes add to the crates that are not yet whole, and the crates that they complete. -/
def gatherCrates (c : Ctx) (held : List CratePart) (ws : List ElemW) : List CratePart × List ElemW :=
  let all := held ++ ((ws.filter (fun e => (c.plan.tensor e.tensor).comp != 0)).map (fun e =>
    (⟨c.record, e.tensor, e.home, e.flat, e.conv.code⟩ : CratePart)))
  let key (x : CratePart) : Nat × Nat × Nat × Nat := (x.record, x.tensor, x.home, x.flat / 512)
  let whole (x : CratePart) : Bool :=
    x.record == c.record && (all.filter (fun y => key y == key x)).length == min 512 ((c.plan.tensor x.tensor).count - x.flat / 512 * 512)
  (all.filter (fun x => !whole x), (all.filter whole).map (fun x => ⟨x.tensor, x.home, x.flat, ⟨x.code, false, false⟩⟩))

/-- Element writes of lane units: plain elements are stored, and crates once all their elements have come (R90, R97). -/
def storeUnit (c : Ctx) (ws : List ElemW) : Act := fun s =>
  match (s.slot c.slot).run with
  | none => []
  | some q =>
    let g := gatherCrates c q.crates ws
    Act.seq (Act.of (if g.1 = q.crates then [] else [.slot c.slot { s.slot c.slot with run := some { q with crates := g.1 } }]))
      (storeElems c (ws.filter (fun e => (c.plan.tensor e.tensor).comp == 0) ++ g.2)) s

/-- Elements of a record's crates that never became whole go: a crate that a restored context had begun takes free codes for the rest
(notes/assumptions/15.md). -/
def endCrates (c : Ctx) (held : List CratePart) : Act :=
  let mine := held.filter (fun x => x.record == c.record)
  let keys := (mine.map (fun x => (x.tensor, x.home, x.flat / 512))).eraseDups
  let ws : List ElemW := keys.flatMap (fun k =>
    (List.range (min 512 ((c.plan.tensor k.1).count - 512 * k.2.2))).map (fun j =>
      ⟨k.1, k.2.1, 512 * k.2.2 + j,
        ⟨((mine.find? (fun x => x.tensor == k.1 && x.home == k.2.1 && x.flat == 512 * k.2.2 + j)).map (·.code)).getD
          (Config.free (c.s.free + 512 * k.2.2 + j) % 2 ^ 16), false, false⟩⟩))
  Act.seq (storeElems c ws) (fun s => match (s.slot c.slot).run with
    | none => []
    | some q =>
      let rest := q.crates.filter (fun x => x.record != c.record)
      (if keys.isEmpty then [] else [.fresh])
        ++ (if rest = q.crates then [] else [.slot c.slot { s.slot c.slot with run := some { q with crates := rest } }]))

/-! ### What the units read -/

/-- Blocks of 256 in each split of `x` units over `f` splits: split, first unit, one past the last. -/
def blockList (x f : Nat) : List (Nat × Nat × Nat) :=
  (List.range f).flatMap (fun q =>
    let r := splitRange x f q
    (List.range (ceilDiv (r.2 - r.1) 256)).map (fun b => (q, r.1 + 256 * b, min (r.1 + 256 * b + 256) r.2)))

/-- The stored rows of a tensor that windows reach, each from its smallest to its largest reached element, in bursts of 512 bytes (R161):
`l` are the index tuples reached. -/
def rowSpans (c : Ctx) (home i : Nat) (l : List (List Nat)) : List Part :=
  let t := c.plan.tensor i
  ((l.map (·.drop 1)).eraseDups).map (fun row =>
    let ws := (l.filter (fun ix => ix.drop 1 == row)).map (·.headD 0)
    let lo := elemSpan c home i (t.flat (ws.foldl min (ws.headD 0) :: row))
    let hi := elemSpan c home i (t.flat (ws.foldl max 0 :: row))
    .bytes (lo.1 / 512 * 512) (roundUp 512 (hi.1 + hi.2) - lo.1 / 512 * 512))

/-- What the splits of a CONV record read: row spans of the input, each over what one instruction (group, m-block, k-chunk) reaches, and the
weights of their groups with their scales (R112, R158, R161). -/
def convParts (c : Ctx) : List Part :=
  let p := c.convolution
  let g := c.r.geometry
  let tx := c.plan.tensor c.r.a
  let tw := c.plan.tensor c.r.b
  let dst := c.plan.tensor c.r.out
  let ext := viewDims g.view g.ratio tx.size
  let kw := g.kernel.getD 0 1
  let kh := g.kernel.getD 1 1
  let kt := g.kernel.getD 2 1
  let reached (gi m0 m1 kc : Nat) : List (List Nat) := (List.range' m0 (m1 - m0)).flatMap (fun r =>
    (List.range' (256 * kc) (min (256 * kc + 256) p.k - 256 * kc)).filterMap (fun kk =>
      match g.source ext 0 (r % dst.dim 0) (kk % kw), g.source ext 1 (r / dst.dim 0 % dst.dim 1) (kk / kw % kh),
          g.source ext 2 (r / (dst.dim 0 * dst.dim 1) % dst.dim 2) (kk / (kw * kh) % kt) with
      | some w, some h, some t => some (viewIndex g.view g.ratio w h t (gi * tw.dim 3 + kk / (kw * kh * kt))
          (r / (dst.dim 0 * dst.dim 1 * dst.dim 2)))
      | _, _, _ => none))
  (splitsWithHomes c).flatMap (fun x =>
    let gs := splitRange p.groups c.r.split1 x.1.2.1
    let k := splitRange p.chunks c.r.split2 x.1.2.2
    ((List.range' gs.1 (gs.2 - gs.1)).flatMap (fun gi => ((blockList p.m c.r.split0).filter (fun b => b.1 == x.1.1)).flatMap (fun b =>
      (List.range' k.1 (k.2 - k.1)).flatMap (fun kc => rowSpans c x.2 c.r.a (reached gi b.2.1 b.2.2 kc)))))
    ++ [.codes x.2 c.r.b (p.k * p.n * gs.1) (p.k * p.n * gs.2)] ++ wholePart c x.2 tw.scale)

/-- What the units of a lane-engine record read, split by split (R161, R169, R180). -/
def laneParts (c : Ctx) : List Part :=
  if laneConv c.r then convParts c else
  (laneSplits c).flatMap (fun x =>
    let e := splitEnv c x.2.split
    e.prog.slots.flatMap (fun w =>
      if !slotUsed w then []
      else
        let lo := if slotBcast w = 1 then x.2.nextRow else if slotBcast w = 3 then 0 else x.2.nextRow * e.prog.l
        let hi := if slotBcast w = 1 then x.2.lastRow else if slotBcast w = 3 then 1 else x.2.lastRow * e.prog.l
        if slotStore w then encoderPart c x.1 (slotTensor w) lo hi else [.elems x.1 (slotTensor w) lo hi]))

/-- Work units that a core has run (R376, R438). -/
def unitsRun (core : Option Nat) (n : Nat) : Act := fun s =>
  match core with
  | none => []
  | some k => if n = 0 then [] else [.core k { s.core k with health := { (s.core k).health with ops := (s.core k).health.ops + n } },
      .count (counterId (srcCore k) 3) n]

/-- A LANE record's body, from the units already completed to its end (R169, R186). Lanes that run its units stop. -/
def laneBody (c : Ctx) : Body :=
  let s := c.s
  let cores := (s.cores.filter (fun x => x.2.laneRuns.any (fun q => q.slot == c.slot && q.record == c.record)))
  let live := cores.flatMap (fun x => x.2.laneRuns.filter (fun q => q.slot == c.slot && q.record == c.record))
  let runs := (laneSplits c).map (fun x => (x.1, match live.find? (fun q => q.split == x.2.split) with
    | some q => q.rewind
    | none => x.2))
  let outs := runs.map (fun x =>
    let e := splitEnv c x.2.split
    (runSplit e ((x.2.lastRow - x.2.nextRow + x.2.rows.length) * e.prog.passes * e.prog.chunks) x.2 ⟨[], 0, 0, []⟩).2)
  let g := gatherCrates c (((s.slot c.slot).run.map (·.crates)).getD []) (outs.flatMap (·.writes))
  { writes := (outs.flatMap (·.writes)).filter (fun e => (c.plan.tensor e.tensor).comp == 0) ++ g.2
    events := []
    reads := laneParts c
    extra := Act.all [endCrates c g.1, Act.each (fun x => unitsRun (((cores.find? (fun k => k.2.laneRuns.any (fun q => q.slot == c.slot
          && q.record == c.record && q.split == x.1.2.split))).map (·.1)).or (homeCore s c.plan x.1.1)) x.2.words.length) (runs.zip outs), Act.each (fun w => unitWords w.1 w.2) (outs.flatMap (·.words)),
      convCounts c.slot c.record ((outs.map (·.sats)).sum) ((outs.map (·.nans)).sum),
      Act.of (cores.map (fun x => .core x.1 { x.2 with
        laneRuns := x.2.laneRuns.filter (fun q => !(q.slot == c.slot && q.record == c.record)) })),
      Act.of ((s.lanes.filter (fun x => x.2.busy && x.2.slot == c.slot && x.2.record == c.record)).map
        (fun x => .lane x.1 Lane.reset))] }

/-! ### LANE_WORK_UNIT_COMPLETE (R183) -/

/-- Number of a core (R302), and of a lane. -/
def coreIx (c : CoreId) : Nat := 16 * c.tile.val + c.core.val
def laneIx (u : LaneId) : Nat := 128 * coreIx u.core + u.lane.val

/-- A record of the lane engine whose body is due. -/
def laneDue (s : State) (n r : Nat) : Option (Ctx × Run) :=
  match bodyDue s n r 9 with
  | some x => some x
  | none => (bodyDue s n r 2).filter (fun x => laneConv x.1.r)

/-- A record of the lane engine all of whose splits have run ends its body, with the events of its reads (R75, R104, R106); an error of
the landing set stops it. -/
def endLane (n r : Nat) : Act := fun s =>
  match laneDue s n r with
  | none => []
  | some (c, q) =>
    let on (x : LaneRun) : Bool := x.slot == n && x.record == r
    if q.laneContexts.any on || s.cores.any (fun x => x.2.laneRuns.any (fun y => on y && !y.finished)) then []
    else
      let ps := laneParts c
      Act.all [blurDraw, readParts c ps, taintAct c, endCrates c q.crates,
        if landingEscape c ps then Act.none
        else Act.all [reportEvents n (inputEvents c ps),
          Act.of ((s.cores.filter (fun x => x.2.laneRuns.any on)).map (fun x =>
            .core x.1 { x.2 with laneRuns := x.2.laneRuns.filter (fun y => !on y) })),
          markBody n r]] s

/-- A unit whose checks pass releases its stores and its partial; the lane takes the next unit (R170, R183). -/
def releaseUnit (i : Nat) : Act := fun s =>
  let l := s.lane i
  let core := i / 128
  let e := laneEnv s i
  let ws := unitWrites e l
  let run := (s.core core).laneRuns.find? (fun q => q.slot == l.slot && q.record == l.record && q.split == l.split)
  Act.all [storeUnit e.ctx ws, unitWords e l, taintAct e.ctx,
    convCounts l.slot l.record (l.sats + satCount e.ctx ws) (l.nans + nanCount ws),
    Act.of [.lane i Lane.reset, .count (counterId (srcCore core) 3) 1],
    match run with
    | none => Act.none
    | some q =>
      let q' := q.finish e.prog l.row (l.elem / 32) l.partials
      Act.seq (fun s => [.core core ((s.core core).setRun q')]) (dealCore core),
    endLane l.slot l.record] s

/-- An instruction on its lane (R174). -/
def laneAct (u : LaneId) (op d a b c : Nat) : Act := fun s =>
  [.lane (laneIx u) (laneOp (laneEnv s (laneIx u)) (s.lane (laneIx u)) op d a b c)]

end Sys2Proof.Machine
end

