-- ==== Sys2Proof/Machine/Arrays.lean ====
section
/-! DEFINITION. Sys2Proof/Machine/Arrays.lean: what an array instruction does (R110 to R131): blocks and issue order, the shadow load,
the sums, the checksum line and its comparisons, the epilogue buffer (R146, R150), parking and restoring (R124, R148), and the outputs of
PRODUCT and CONV records formed from what the epilogue holds. -/
namespace Sys2Proof.Machine

/-- Whether a block belongs to a record. -/
def BlockId.of (b : BlockId) (n r : Nat) : Bool := b.slot == n && b.record == r

/-- An array without a record's tiles, sums, held values, partials, parked state and progress. -/
def MatArray.forget (a : MatArray) (n r : Nat) : MatArray :=
  let keep (b : BlockId) : Bool := !b.of n r
  { a with
    owner := a.owner.filter (fun o => o != (n, r))
    active := a.active.filter (fun v => keep v.block)
    shadow := a.shadow.filter (fun v => keep v.block)
    carry0 := a.carry0.filter (fun x => keep x.1)
    carry1 := a.carry1.filter (fun x => keep x.1)
    epilogue := a.epilogue.filter (fun x => keep x.1)
    partials := a.partials.filter (fun x => keep x.1)
    parts := a.parts.filter (fun x => keep x.1)
    outs := a.outs.filter (fun x => keep x.1)
    parked := a.parked.filter (fun x => keep x.block)
    parkedOwner := a.parkedOwner.filter (fun o => o != (n, r))
    issued := a.issued.filter (fun x => !(x.1 == n && x.2.1 == r)) }

/-- A record's work leaves every array. -/
def clearArrays (n r : Nat) : Act := fun s => s.cores.map (fun x => .core x.1 { x.2 with array := x.2.array.forget n r })

/-! ### Blocks (R112, R264): numbered over the splits in ascending order -/

/-- A product as array instructions see it: the product, whether it is a convolution, and of which B operand. -/
structure ArrayJob where
  p : Prod
  conv : Bool

/-- The product of an array record (R112, R157): of its first or second B operand. -/
def arrayProduct (c : Ctx) (second : Bool) : Option ArrayJob :=
  if c.r.opcode = 1 then
    (if second && c.r.b2 == 0xFFFF then none else some ⟨c.product (if second then c.r.b2 else c.r.b), false⟩)
  else if c.r.opcode = 2 ∧ c.r.geometry.kind = 1 ∧ c.r.geometry.engine = false ∧ second = false then
    some ⟨c.convolution, true⟩
  else none

/-- A block of columns: split, group, first column, one past the last (R112, R157). -/
def ArrayJob.columns (j : ArrayJob) (r : Rec) : List (Nat × Nat × Nat × Nat) :=
  if j.conv then
    (List.range j.p.groups).flatMap (fun g => (List.range (ceilDiv j.p.n 256)).map (fun b =>
      (splitOf j.p.groups r.split1 g, g, 256 * b, min (256 * b + 256) j.p.n)))
  else (blockList j.p.n r.split1).map (fun b => (b.1, 0, b.2.1, b.2.2))

/-- Where an array instruction works. -/
structure Place where
  home : Nat
  group : Nat
  m0 : Nat
  m1 : Nat
  n0 : Nat
  n1 : Nat
  /-- The split of K, its first k-chunk and one past its last. -/
  q : Nat
  k0 : Nat
  k1 : Nat

/-- The place of instruction (mblock, nblock, kchunk). -/
def ArrayJob.place (j : ArrayJob) (c : Ctx) (mb nb kc : Nat) : Option Place :=
  match (blockList j.p.m c.r.split0)[mb]?, (j.columns c.r)[nb]? with
  | some m, some n =>
    if kc < j.p.chunks then
      let q := splitOf j.p.chunks c.r.split2 kc
      let k := splitRange j.p.chunks c.r.split2 q
      some ⟨splitHome c.plan c.r m.1 n.1 q, n.2.1, m.2.1, m.2.2, n.2.2.1, n.2.2.2, q, k.1, k.2⟩
    else none
  | _, _ => none

/-- Whether SKIP_EMPTY omits the instruction of k-chunk `kc` (R139). -/
def skipped (c : Ctx) (j : ArrayJob) (x : Place) (kc : Nat) : Bool :=
  maskSkip c.r.mask && c.r.opcode == 1
    && (List.range (if maskTarget c.r.mask then x.n1 - x.n0 else x.m1 - x.m0)).all (fun i =>
      (List.range (min (256 * kc + 256) j.p.k - 256 * kc)).all (fun k =>
        !c.patternKeeps x.home ((if maskTarget c.r.mask then x.n0 else x.m0) + i) (256 * kc + k)))

/-! ### Issue order (R112, R123, R150, R267) -/

/-- Splits (q0, q1, q2) of a record on a core, in ascending home order (R265, R267). -/
def splitsOn (c : Ctx) (core : Nat) : List (Nat × Nat × Nat) :=
  ((List.range c.plan.homes).filter (fun h => homeCore c.s c.plan h == some core)).flatMap (fun h =>
    ((List.range (recSplits c.r)).filter (fun i => (i + c.r.homeBase) % c.plan.homes == h)).map (fun i =>
      (i / (c.r.split1 * c.r.split2), i / c.r.split2 % c.r.split1, i % c.r.split2)))

/-- Blocks of one split, group by group in ascending order (R157): by n-block first, or by m-block first in C_STILL and for a row hold
(R112, R150). -/
def ArrayJob.blocks (j : ArrayJob) (c : Ctx) (q0 q1 : Nat) : List (Nat × Nat) :=
  let ms := ((((blockList j.p.m c.r.split0).map (·.1)).zipIdx).filter (fun x => x.1 == q0)).map (·.2)
  (List.range j.p.groups).flatMap (fun g =>
    let ns := ((j.columns c.r).zipIdx.filter (fun x => x.1.1 == q1 && x.1.2.1 == g)).map (·.2)
    if c.r.dataflow = 1 ∨ c.r.rowHold = true then ms.flatMap (fun m => ns.map (fun n => (m, n)))
    else ns.flatMap (fun n => ms.map (fun m => (m, n))))

/-- The instructions of a PRODUCT or CONV record on a core, in issue order: k-chunks ascend within a block, and two B operands
alternate (R112, R123). -/
def Ctx.productIssues (c : Ctx) (core : Nat) : List BlockId :=
  match arrayProduct c false with
  | none => []
  | some j =>
    (splitsOn c core).flatMap (fun q =>
      let k := splitRange j.p.chunks c.r.split2 q.2.2
      (j.blocks c q.1 q.2.1).flatMap (fun b => match j.place c b.1 b.2 k.1 with
        | none => []
        | some x => ((List.range' k.1 (k.2 - k.1)).filter (fun i => !skipped c j x i)).flatMap (fun i =>
            (if c.r.opcode = 1 ∧ c.r.b2 ≠ 0xFFFF then [false, true] else [false]).map (fun second =>
              ⟨c.slot, c.record, b.1, b.2, i, second⟩))))

/-- How many instructions of a record an array has completed. -/
def MatArray.count (a : MatArray) (n r : Nat) : Nat := ((a.issued.find? (fun x => x.1 == n && x.2.1 == r)).map (·.2.2)).getD 0

/-- Whether every instruction of a record has completed, on each of its cores (R112, R120). -/
def arrayDone (c : Ctx) (issues : Nat → List BlockId) : Bool :=
  (recCores c.s c.plan c.r).all (fun k => decide ((issues k).length ≤ (c.s.core k).array.count c.slot c.record))

/-- The body of a record that the array computes, once all its instructions have completed (R120, R131). -/
def arrayBody (n r op : Nat) (issues : Ctx → Nat → List BlockId) (f : Ctx → Body) : Act := fun s =>
  match bodyDue s n r op with
  | none => []
  | some (c, _) => if arrayDone c (issues c) then recordBody n r op f s else []

/-! ### What an instruction does in the array -/

/-- An array instruction as the array sees it: the product, where, which k-chunk, the dataflow (R114), and whether the chunk is the
last of its block. -/
structure View where
  p : Prod
  x : Place
  kc : Nat
  flow : Nat
  last : Bool

/-- Positions of K in the chunk that are not padding (R112). -/
def View.ks (v : View) : List Nat := List.range' (256 * v.kc) (min 256 (v.p.k - 256 * v.kc))

/-- Whether the held operand spans m: in A_STILL (R114). -/
def View.holdsA (v : View) : Bool := v.flow == 2

/-- Indices of the outputs across a line of held elements, and of the output lines that are compared (R114, R127). -/
def View.across (v : View) : List Nat := if v.holdsA then List.range' v.x.m0 (v.x.m1 - v.x.m0) else List.range' v.x.n0 (v.x.n1 - v.x.n0)
def View.lines (v : View) : List Nat := if v.holdsA then List.range' v.x.n0 (v.x.n1 - v.x.n0) else List.range' v.x.m0 (v.x.m1 - v.x.m0)

/-- Code and scale code of held element (k, o), and of the moving vector's element k of line `l`. -/
def View.heldCode (v : View) (k o : Nat) : Nat := if v.holdsA then v.p.ca v.x.home v.x.group o k else v.p.cb v.x.home v.x.group k o
def View.heldScale (v : View) (k o : Nat) : Nat :=
  if v.holdsA then v.p.xa v.x.home v.x.group o (k / 32) else v.p.xb v.x.home v.x.group (k / 32) o
def View.moveCode (v : View) (l k : Nat) : Nat := if v.holdsA then v.p.cb v.x.home v.x.group k l else v.p.ca v.x.home v.x.group l k
def View.moveScale (v : View) (l k : Nat) : Nat :=
  if v.holdsA then v.p.xb v.x.home v.x.group (k / 32) l else v.p.xa v.x.home v.x.group l (k / 32)
def View.heldFmt (v : View) : Fmt := if v.holdsA then v.p.fa else v.p.fb
def View.moveFmt (v : View) : Fmt := if v.holdsA then v.p.fb else v.p.fa

/-- Whether the product of output line `l` and position `o` across is kept at k (R135, R138). -/
def View.keep (v : View) (l o k : Nat) : Bool := if v.holdsA then v.p.keep v.x.home o l k else v.p.keep v.x.home l o k

/-- The significand q of an element, an integer: value = q × 2^m × scale (R127). -/
def significand (f : Fmt) (code : Nat) : Int := ((decode f code).scale (-f.mExp)).floor

/-- One line of the held tile as it enters a register set (R121): its codes and its cell of the checksum line. In C_STILL the row of B
passes by, masked if it is the mask's target. -/
def View.line (v : View) (masked : Bool) (k : Nat) : List Nat × CheckCell :=
  let l := v.across.map (fun o => (v.heldCode k o, v.heldScale k o, !masked || v.keep (v.lines.headD 0) o k))
  let val (x : Nat × Nat × Bool) : FV := if x.2.2 then scaledVal v.heldFmt x.2.1 x.1 else FV.zero
  (l.map (·.1),
    { int := if v.p.bf16 then 0 else BitVec.ofInt 112 ((l.map (fun x => if x.2.2 then significand v.heldFmt x.1 else 0)).sum)
      exact := if v.p.bf16 then (l.map val).foldl FV.add FV.zero else FV.zero
      bad := l.any (fun x => !(val x).isFin) })

/-- The shadow load of a tile, line by line in ascending k, with the checksum line's sums (R121). In C_STILL nothing is loaded. -/
def View.load (v : View) (id : BlockId) : RegSet :=
  if v.flow = 1 then ⟨id, [], [], []⟩
  else
    let ls := v.ks.map (v.line false)
    ⟨id, ls.flatMap (·.1), ls.map (·.2), []⟩

/-- A product whose held operand comes from the register set (R110, R114). -/
def View.fromSet (v : View) (r : RegSet) : Prod :=
  let at_ (k o : Nat) : Nat := r.held.getD ((k - 256 * v.kc) * v.across.length + (o - v.across.headD 0)) 0
  if v.flow = 1 then v.p
  else if v.holdsA then { v.p with ca := fun _ _ m k => at_ k m } else { v.p with cb := fun _ _ k n => at_ k n }

/-- The error that upsets give to the product of a cell (R127 to R131). -/
def upsetAt (u : List Upset) (m n k : Nat) : Int :=
  ((u.filter (fun x => x.m == m && x.n == n && x.k == k)).map (·.delta)).sum

/-- Whether a cell's position is padding, which enters as zeros (R112, R130). -/
def View.padded (v : View) (m n k : Nat) : Bool := decide (v.x.m1 ≤ m) || decide (v.x.n1 ≤ n) || decide (v.p.k ≤ k)

/-- Padded positions of K, across a line and among the lines that an upset falls on: elsewhere padding adds nothing (R57, R130). -/
def View.padKs (v : View) (u : List Upset) : List Nat :=
  (((u.map (·.k)).eraseDups).filter (fun k => decide (v.ks.length ≤ k) && decide (k < 256))).map (256 * v.kc + ·)
def View.padRows (v : View) (u : List Upset) : List Nat :=
  (((u.map (·.m)).eraseDups).filter (fun m => decide (v.x.m1 - v.x.m0 ≤ m) && decide (m < 256))).map (v.x.m0 + ·)
def View.padCols (v : View) (u : List Upset) : List Nat :=
  (((u.map (·.n)).eraseDups).filter (fun n => decide (v.x.n1 - v.x.n0 ≤ n) && decide (n < 256))).map (v.x.n0 + ·)

/-- One product, wrong by an error in significands (on the BF16 path in units of 2^-149), joins an accumulator. -/
def Prod.upset (p : Prod) (home g m n : Nat) (w : Int) (d : Int) (a : Acc) (k : Nat) : Acc :=
  if d = 0 then p.step home g m n w a k
  else if p.bf16 then a.running ((p.term home g m n k).add ((FV.ofInt d).scale (-149)))
  else a.exact w ((p.term home g m n k).add ((FV.ofInt d).scale
    (p.unit + Int.ofNat (p.xa home g m (k / 32)) + Int.ofNat (p.xb home g (k / 32) n) - 254)))

/-- The same at a padded position: zeros, and the error alone (R112, R130). -/
def Prod.stray (p : Prod) (d : Int) (a : Acc) : Acc :=
  if d = 0 then a
  else if p.bf16 then a.running ((FV.ofInt d).scale (-149))
  else a.exact p.unit ((FV.ofInt d).scale p.unit)

/-- The running values of an output through one instruction, its carry first (R57, R115), and through the padded positions that an upset
falls on. -/
def View.trail (v : View) (p : Prod) (u : List Upset) (m n : Nat) (a : Acc) : List Acc :=
  (v.ks ++ v.padKs u).foldl (fun l k =>
    let d := upsetAt u (m - v.x.m0) (n - v.x.n0) (k - 256 * v.kc)
    let b := l.getLast?.getD a
    l ++ [if v.padded m n k then p.stray d b
      else p.upset v.x.home v.x.group m n (v.p.weight v.x.home v.x.group m n) d b k]) [a]

/-- The sums of the block after the instruction, row by row: each output's carry with the products of one k-chunk. -/
def View.sums (v : View) (p : Prod) (u : List Upset) (carry : List Acc) : List Acc :=
  (List.range' v.x.m0 (v.x.m1 - v.x.m0)).flatMap (fun m => (List.range' v.x.n0 (v.x.n1 - v.x.n0)).map (fun n =>
    ((v.trail p u m n (carry.getD ((m - v.x.m0) * (v.x.n1 - v.x.n0) + (n - v.x.n0)) Acc.zero)).getLast?).getD Acc.zero))

/-! ### The checksum line (R127 to R130) -/

/-- Whether an output is NaN or infinite as it stands (R55, R130). -/
def Acc.special (bf16 : Bool) (a : Acc) : Bool :=
  if bf16 then !(f32Val (a.fp.getD 0)).isFin else a.nan || a.pinf || a.ninf

/-- Coordinates (m, n) of position `o` across output line `l`. -/
def View.mn (v : View) (l o : Nat) : Nat × Nat := if v.holdsA then (o, l) else (l, o)

/-- Whether the moving element of line `l` at k enters as itself: one that the mask takes enters as +0 (R138). In C_STILL a mask of B falls
on the rows that pass the checksum line. -/
def View.enters (v : View) (maskB : Bool) (l k : Nat) : Bool := maskB || v.keep l (v.across.headD 0) k

/-- Whether the comparison of line `l` is skipped (R130). A K-block whose elements are all masked is not seen (R138). -/
def View.skips (v : View) (maskB : Bool) (cells : List CheckCell) (outs : List Acc) (l : Nat) : Bool :=
  outs.any (Acc.special v.p.bf16)
  || (v.lines.contains l && v.ks.any (fun k => v.enters maskB l k && !(scaledVal v.moveFmt (v.moveScale l k) (v.moveCode l k)).isFin))
  || cells.any (·.bad)

/-- The significand product that a cell formed (R128). -/
def View.cellProduct (v : View) (p : Prod) (u : List Upset) (l o k : Nat) : Int :=
  let x := v.mn l o
  (if !v.padded x.1 x.2 k && v.keep l o k then significand p.fa (p.ca v.x.home v.x.group x.1 k) * significand p.fb (p.cb v.x.home v.x.group k x.2) else 0)
    + upsetAt u (x.1 - v.x.m0) (x.2 - v.x.n0) (k - 256 * v.kc)

/-- Whether the moving element of line `l` at k is there: neither masked nor padding (R112, R138). -/
def View.moves (v : View) (maskB : Bool) (l k : Nat) : Bool := v.lines.contains l && decide (k < v.p.k) && v.enters maskB l k

/-- The moving significands of some positions times the checksum line's sums (R128). -/
def View.lineProduct (v : View) (maskB : Bool) (cells : List CheckCell) (l : Nat) (ks : List Nat) : Int :=
  (ks.map (fun k => (if v.moves maskB l k then significand v.moveFmt (v.moveCode l k) else 0)
    * ((cells.getD (k - 256 * v.kc) ⟨0, FV.zero, false⟩).int).toInt)).sum

/-- Whether the comparison of output line `l` passes (R128, R129, R130). DESIGN CHOICE: the running sums that pass a padded position of K
do not join the sum of magnitudes, as R57 adds nothing there (notes/assumptions/36.md). -/
def View.passes (v : View) (p : Prod) (maskB : Bool) (cells : List CheckCell) (u : List Upset) (carry : List Acc) (l : Nat) : Bool :=
  let cols := v.x.n1 - v.x.n0
  let line := v.across ++ (if v.holdsA then v.padRows u else v.padCols u)
  let ks := v.ks ++ v.padKs u
  let trails := line.map (fun o => let x := v.mn l o
    v.trail p u x.1 x.2 (if v.padded x.1 x.2 0 then Acc.zero
      else carry.getD ((x.1 - v.x.m0) * cols + (x.2 - v.x.n0)) Acc.zero))
  let first (t : List Acc) : Acc := t.headD Acc.zero
  let last (t : List Acc) : Acc := (t.getLast?).getD Acc.zero
  if v.skips maskB cells (trails.map last) l then true
  else if v.p.bf16 then
    let value (a : Acc) : FV := f32Val (a.fp.getD 0)
    let d := (trails.map (fun t => (value (last t)).sub (value (first t)))).foldl FV.add FV.zero
    let x := (v.ks.map (fun k => (if v.moves maskB l k then scaledVal v.moveFmt (v.moveScale l k) (v.moveCode l k) else FV.zero).mul
      (cells.getD (k - 256 * v.kc) ⟨0, FV.zero, false⟩).exact)).foldl FV.add FV.zero
    let sigma := (trails.flatMap (fun t => (t.tail.take v.ks.length).map (fun a => (value a).abs))).foldl FV.add FV.zero
    ((d.sub x).abs).le ((sigma.scale (-24)).add (.fin false 1 (-133)))
  else if v.p.scaled then
    (List.range 8).all (fun b =>
      let kb := ks.filter (fun k => k / 32 == 8 * v.kc + b)
      (line.map (fun o => (kb.map (v.cellProduct p u l o)).sum)).sum == v.lineProduct maskB cells l kb)
  else
    (trails.map (fun t => ((last t).int - (first t).int).toInt)).sum == v.lineProduct maskB cells l v.ks

/-- Whether every comparison of an instruction passes (R127). -/
def View.checks (v : View) (p : Prod) (maskB : Bool) (cells : List CheckCell) (u : List Upset) (carry : List Acc) : Bool :=
  (v.lines ++ (if v.holdsA then v.padCols u else v.padRows u)).all (v.passes p maskB cells u carry)

/-! ### The epilogue buffer (R146, R147, R150) -/

/-- The chain of a record: only a PRODUCT record has one (R141, R144, R147). -/
def Rec.chain (r : Rec) : List StageWord := if r.opcode = 1 then chainOf r.stages else []

/-- The stage of a chain of one kind. -/
def stageAt (chain : List StageWord) (kind : Nat) : Option Nat := chain.findIdx? (fun g => g.kind == kind)

/-- The stage at whose entry a block waits: a GATE, until the second product has joined, or a ROWSTAT, until its rows are whole (R146,
R150). -/
def waitStage (chain : List StageWord) (joined : Bool) : Option Nat :=
  match (if joined then none else stageAt chain 4), stageAt chain 7 with
  | some g, some k => some (min g k)
  | g, k => g.or k

/-- Format of the chain value on entry to stage `i` (R142, R147). -/
def entryFmt (r : Rec) (chain : List StageWord) (i : Nat) : Fmt :=
  if i = 0 then (Fmt.ofCode r.pfmt).getD .fp32 else ((chain[i - 1]?).map StageWord.fmt).getD .fp32

/-- A chain value as the epilogue holds it, and back. -/
def Cell.hold (f pf : Fmt) (x : Cell) : HeldCell := ⟨encode f x.v, encode pf x.p2, x.sat, x.nan0⟩
def HeldCell.cell (f pf : Fmt) (home flat : Nat) (h : HeldCell) : Cell := ⟨home, flat, decode f h.code, decode pf h.p2, h.sat, h.nan0⟩

/-- Stages that work element by element, one after another (R142, R152). -/
def Ctx.passStages (c : Ctx) (out : Nat) : List StageWord → List Cell → List Cell
  | [], l => l
  | g :: gs, l => c.passStages out gs ((List.zip l (c.stageRow g out l)).map (fun (x, r) =>
      { x with v := decode g.fmt r.2.1.code, sat := x.sat || r.2.1.sat, nan0 := x.nan0 || r.2.1.nan0 }))

/-- Format of the product (R132). -/
def Rec.productFmt (r : Rec) : Fmt := (Fmt.ofCode r.pfmt).getD .fp32

/-- The product value of an output as the first stage's input (R132). -/
def Ctx.entry (c : Ctx) (home flat : Nat) (v : FV) : Cell :=
  let x := convert c.r.productFmt ((Rnd.ofCode c.r.prnd).getD .rne) 0 false v
  ⟨home, flat, decode c.r.productFmt x.code, FV.zero, x.sat, x.nan0⟩

/-- The second product joins a chain value (R146). -/
def Ctx.join (c : Ctx) (x : Cell) (v : FV) : Cell :=
  let y := convert c.r.productFmt ((Rnd.ofCode c.r.prnd).getD .rne) 0 false v
  { x with p2 := decode c.r.productFmt y.code, sat := x.sat || y.sat, nan0 := x.nan0 || y.nan0 }

/-- Coordinates of a block's outputs, row by row. -/
def Place.outputs (x : Place) : List (Nat × Nat) :=
  (List.range' x.m0 (x.m1 - x.m0)).flatMap (fun m => (List.range' x.n0 (x.n1 - x.n0)).map (fun n => (m, n)))

/-- Flat index in OUT of an output of a block (R158, R451). -/
def ArrayJob.outFlat (j : ArrayJob) (c : Ctx) (x : Place) (y : Nat × Nat) : Nat :=
  if j.conv then convFlat (c.plan.tensor c.r.out) j.p x.group y.1 y.2 else y.2 + j.p.n * y.1

/-- Stages up to entry to stage `k` of a chain, from entry to stage `i`. -/
def between (chain : List StageWord) (i k : Nat) : List StageWord := (chain.take k).drop i

/-- Splits of K of a block of which some instruction is issued (R139). -/
def ArrayJob.runSplits (j : ArrayJob) (c : Ctx) (mb nb : Nat) : List Nat :=
  (List.range c.r.split2).filter (fun q =>
    let k := splitRange j.p.chunks c.r.split2 q
    match j.place c mb nb k.1 with
    | none => false
    | some x => (List.range' k.1 (k.2 - k.1)).any (fun i => !skipped c j x i))

/-- Values of a block's outputs before rounding, from the sums of its splits of K (R54, R57); 0 for a split that has none (R115, R139). -/
def Ctx.blockValues (c : Ctx) (j : ArrayJob) (second : Bool) (mb nb : Nat) (x : Place) (parts : List (BlockId × List Acc)) :
    List ((Nat × Nat) × FV) :=
  let sums := (List.range c.r.split2).map (fun q =>
    ((parts.find? (fun y => decide (y.1 = ⟨c.slot, c.record, mb, nb, q, second⟩))).map (·.2)).getD [])
  (x.outputs.zipIdx).map (fun (y : (Nat × Nat) × Nat) => (y.1, j.p.value c.r.split2 (j.p.weight x.home x.group y.1.1 y.1.2) (fun q =>
    (sums.getD q []).getD y.2 Acc.zero)))

/-- Outputs of a block of a record without a chain (R56, R132, R159). -/
def Ctx.plainOuts (c : Ctx) (j : ArrayJob) (x : Place) (vals : List ((Nat × Nat) × FV)) : List OutV :=
  let t := c.plan.tensor c.r.out
  let mode := if j.conv then t.rnd else (Rnd.ofCode c.r.prnd).getD .rne
  vals.map (fun y => c.outV c.r.out mode t.ovfNan x.home (j.outFlat c x y.1) y.2)

/-- What the epilogue holds of chain values on entry to stage `i`: with those of the second product while a GATE is still ahead. -/
def Ctx.holdCells (c : Ctx) (joined : Bool) (i : Nat) (l : List Cell) : HeldBlock :=
  let chain := c.r.chain
  let f := entryFmt c.r chain i
  let two := joined && c.r.b2 != 0xFFFF && decide (i ≤ (stageAt chain 4).getD 0)
  ⟨i, joined, f.width, if two then c.r.productFmt.width else 0,
    l.map (fun x => let h := x.hold f c.r.productFmt
      if two then h else { h with p2 := 0 })⟩

/-- Chain values that the epilogue holds of a block. -/
def Ctx.heldCells (c : Ctx) (j : ArrayJob) (x : Place) (h : HeldBlock) : List Cell :=
  List.zipWith (fun (k : HeldCell) y => k.cell (entryFmt c.r (c.r.chain) h.stage) c.r.productFmt x.home (j.outFlat c x y))
    h.cells x.outputs

/-- Chain values on entry to stage `i` go on: to where they wait, or to the end of the chain (R142, R146, R150). -/
def Ctx.goOn (c : Ctx) (joined : Bool) (i : Nat) (l : List Cell) : HeldBlock ⊕ List OutV :=
  let chain := c.r.chain
  match waitStage chain joined with
  | some k => .inl (c.holdCells joined k (c.passStages c.r.out (between chain i k) l))
  | none => .inr (c.runChain c.r.out (chain.drop i) l)

/-- Chain values of a block whose sums are all zero: no instruction of it was issued (R139). -/
def Ctx.zeroCells (c : Ctx) (j j2 : ArrayJob) (mb nb : Nat) (x : Place) : List Cell :=
  let l := (c.blockValues j false mb nb x []).map (fun y => c.entry x.home (j.outFlat c x y.1) y.2)
  if c.r.b2 = 0xFFFF then l else List.zipWith (fun a y => c.join a y.2) l (c.blockValues j2 true mb nb x [])

/-- The chain values that the epilogue holds of a block. -/
def MatArray.heldAt (a : MatArray) (id : BlockId) : Option HeldBlock :=
  (a.epilogue.find? (fun x => decide (x.1 = id))).bind (fun x => match x.2 with
    | .chain h => some h
    | .scores _ => none)

/-- A block's values take their place: in the epilogue, or among the outputs. -/
def MatArray.settle (a : MatArray) (id : BlockId) (x : HeldBlock ⊕ List OutV) : MatArray :=
  match x with
  | .inl h => { a with epilogue := a.epilogue ++ [(id, .chain h)] }
  | .inr l => { a with outs := a.outs ++ [(id, l)] }

/-- The second B operand's product, or the first's where there is none. -/
def Ctx.secondJob (c : Ctx) (j : ArrayJob) : ArrayJob := (arrayProduct c true).getD j

/-- Rows of an m-block through the ROWSTAT and the rest of the chain: of each block what is held, or zeros (R150 steps 3 and 4). -/
def Ctx.rowOuts (c : Ctx) (j : ArrayJob) (mb st : Nat) (held : Nat → Option HeldBlock) : List OutV :=
  let chain := c.r.chain
  let cells := (List.range (j.columns c.r).length).flatMap (fun nb => match j.place c mb nb 0 with
    | none => []
    | some x => match held nb with
      | some h => c.heldCells j x h
      | none => c.passStages c.r.out (between chain 0 st) (c.zeroCells j (c.secondJob j) mb nb x))
  match (blockList j.p.m c.r.split0)[mb]? with
  | none => []
  | some b => (List.range' b.2.1 (b.2.2 - b.2.1)).flatMap (fun m =>
      c.runChain c.r.out (chain.drop st) (cells.filter (fun y => y.flat / j.p.n == m)))

/-- Once the last n-block of an m-block is whole, its rows leave the epilogue (R150). -/
def Ctx.finishRows (c : Ctx) (j : ArrayJob) (mb : Nat) (a : MatArray) : MatArray :=
  match stageAt (c.r.chain) 7 with
  | none => a
  | some st =>
    let id (nb : Nat) : BlockId := ⟨c.slot, c.record, mb, nb, 0, false⟩
    let held (nb : Nat) : Option HeldBlock := (a.heldAt (id nb)).filter (·.whole)
    if (List.range (j.columns c.r).length).all (fun nb => (j.runSplits c mb nb).isEmpty || (held nb).isSome) then
      { a with
        epilogue := a.epilogue.filter (fun x => !(x.1.of c.slot c.record && x.1.mblock == mb))
        outs := a.outs ++ [(id 0, c.rowOuts j mb st held)] }
    else a

/-- A block all of whose sums have come to the core that forms its outputs goes into the epilogue (R131, R133, R146, R150). The sums of a
record without a chain, and of a CONV record, go straight to the outputs. -/
def Ctx.enterBlock (c : Ctx) (j : ArrayJob) (second : Bool) (mb nb : Nat) (a : MatArray) : MatArray :=
  let id (b : Bool) (q : Nat) : BlockId := ⟨c.slot, c.record, mb, nb, q, b⟩
  if !(j.runSplits c mb nb).all (fun q => a.parts.any (fun x => decide (x.1 = id second q))) then a
  else match j.place c mb nb 0 with
    | none => a
    | some x =>
      let vals := c.blockValues j second mb nb x a.parts
      let b := { a with parts := a.parts.filter (fun y => !decide (({ y.1 with kchunk := 0 } : BlockId) = id second 0)) }
      if j.conv || (c.r.chain).isEmpty then b.settle (id false 0) (.inr (c.plainOuts j x vals))
      else if !second then
        c.finishRows j mb (b.settle (id false 0) (c.goOn (c.r.b2 == 0xFFFF) 0 (vals.map (fun (y : (Nat × Nat) × FV) =>
          c.entry x.home (j.outFlat c x y.1) y.2))))
      else match b.heldAt (id false 0) with
        | none => b
        | some h =>
          let d := { b with epilogue := b.epilogue.filter (fun y => decide (y.1 ≠ id false 0)) }
          c.finishRows j mb (d.settle (id false 0)
            (c.goOn true h.stage (List.zipWith (fun a y => c.join a y.2) (c.heldCells j x h) vals)))

/-- A finished block of a PRODUCT or CONV record leaves the array (R131): its sums go to the core of split 0 of K, which forms the final
sums (R54, R57) and runs the chain (R133). -/
def Ctx.releaseBlock (c : Ctx) (id : BlockId) (q : Nat) (sums : List Acc) : Act :=
  match arrayProduct c id.second with
  | none => Act.none
  | some j => match (j.place c id.mblock id.nblock 0).bind (fun x => homeCore c.s c.plan x.home) with
    | none => Act.none
    | some k => fun s =>
      let a := (s.core k).array
      let b := { a with parts := a.parts ++ [({ id with kchunk := q }, sums)] }
      [.core k { s.core k with array := c.enterBlock j id.second id.mblock id.nblock b }]

/-! ### Preemption (R124, R148) -/

/-- Whether the array is held by a LIVE record that preempted this one (R124). -/
def preempted (k : Core) (n r : Nat) : Bool := k.live.isSome && k.live != some (n, r)

/-- Bytes of a parked sum: 12 for each output (R124). -/
def Acc.bytes (a : Acc) : List Byte := match a.fp with
  | none => toLE 12 a.int.toNat
  | some w => toLE 12 w.toNat
/-- What is kept beside the parked bytes of a sum: its flags. -/
def Acc.flags (a : Acc) : Acc := { a with int := 0, fp := a.fp.map (fun _ => 0) }
/-- A sum from its parked bytes and its flags. -/
def Acc.restore (f : Acc) (b : List Byte) : Acc :=
  match f.fp with
  | none => { f with int := BitVec.ofNat 96 (leNat b) }
  | some _ => { f with fp := some (BitVec.ofNat 32 (leNat b)) }

/-- Codes of a width in bits one after another, two of 4 bits to a byte, and code `i` of them. -/
def packCodes (w : Nat) (l : List Nat) : List Byte :=
  if w = 4 then (List.range (ceilDiv l.length 2)).map (fun i => BitVec.ofNat 8 (l.getD (2 * i) 0 % 16 + 16 * l.getD (2 * i + 1) 0))
  else l.flatMap (toLE (w / 8))
def packedBytes (w n : Nat) : Nat := if w = 4 then ceilDiv n 2 else w / 8 * n
def codeIn (w : Nat) (b : List Byte) (i : Nat) : Nat :=
  if w = 4 then fieldLE b (i / 2) 1 / 16 ^ (i % 2) % 16 else fieldLE b (w / 8 * i) (w / 8)

/-- The bytes of what is parked: chain values at the width at which the epilogue holds them (R147, R148). -/
def Held.bytes : Held → List Byte
  | .scores l => l.flatMap (fun w => toLE 4 w.toNat)
  | .chain b => packCodes b.width (b.cells.map (·.code)) ++ (if b.width2 = 0 then [] else packCodes b.width2 (b.cells.map (·.p2)))
def Held.size : Held → Nat
  | .scores l => 4 * l.length
  | .chain b => packedBytes b.width b.cells.length + packedBytes b.width2 b.cells.length
def parkBytes (sums : List Acc) (held : Option Held) : List Byte := sums.flatMap Acc.bytes ++ (held.map Held.bytes).getD []
/-- What is kept beside the bytes. -/
def Held.flags : Held → Held
  | .scores l => .scores (l.map (fun _ => 0))
  | .chain b => .chain { b with cells := b.cells.map (fun h => { h with code := 0, p2 := 0 }) }

/-- What is to be parked of an array's record: place, block, sums or held values. -/
def MatArray.toPark (a : MatArray) (n r : Nat) : List (ParkPlace × BlockId × List Acc × Option Held) :=
  let mine (b : BlockId) : Bool := b.of n r
  (a.carry0.filter (fun x => mine x.1)).toList.map (fun x => (.carry0, x.1, x.2, none))
    ++ (a.carry1.filter (fun x => mine x.1)).toList.map (fun x => (.carry1, x.1, x.2, none))
    ++ (a.active.filter (fun v => mine v.block && !v.sums.isEmpty)).toList.map (fun v => (.cells, v.block, v.sums, none))
    ++ (a.epilogue.filter (fun x => mine x.1)).map (fun x => (.epilogue, x.1, [], some x.2))

/-- Parked state comes back from its bytes (R124 step 6, R148), or from what is kept where there are none. -/
def Parked.sums (m : List Byte) (x : Parked) : List Acc :=
  if x.addr.isNone then x.flags else x.flags.mapIdx (fun i f => f.restore (slice m (12 * i) 12))
def Parked.heldBack (m : List Byte) (x : Parked) : Option Held :=
  if x.addr.isNone then x.held else x.held.map (fun h => match h with
    | .scores l => .scores ((List.range l.length).map (fun i => BitVec.ofNat 32 (fieldLE m (4 * i) 4)))
    | .chain b => .chain { b with cells := b.cells.mapIdx (fun i f => { f with
        code := codeIn b.width m i
        p2 := if b.width2 = 0 then 0 else codeIn b.width2 (m.drop (packedBytes b.width b.cells.length)) i }) })
def Parked.size (x : Parked) : Nat := if x.addr.isNone then 0 else 12 * x.flags.length + (x.held.map Held.size).getD 0

/-- One piece of parked state goes back to its place, from bytes `m`. -/
def MatArray.unpark (a : MatArray) (x : Parked) (m : List Byte) : MatArray :=
  match x.place with
  | .carry0 => { a with carry0 := some (x.block, x.sums m) }
  | .carry1 => { a with carry1 := some (x.block, x.sums m) }
  | .cells => { a with active := some ⟨x.block, [], [], x.sums m⟩ }
  | .epilogue => { a with epilogue := a.epilogue ++ (x.heldBack m).toList.map (fun h => (x.block, h)) }

/-- The array goes back to the work that a LIVE record preempted: what was parked is restored (R124 step 6). -/
def unparkCore (k : Nat) : Act := fun s =>
  let a := (s.core k).array
  Act.seq (Act.each (fun x => meetRange (x.addr.getD 0) x.size) a.parked)
    (fun s => [.core k { s.core k with
      live := none
      array := (a.parked.foldl (fun b x => b.unpark x (memBytes s.blur (x.addr.getD 0) x.size)) { a with
        owner := a.parkedOwner
        parked := []
        parkedOwner := none }) }]) s

/-- The arrays that a LIVE record had taken go back. -/
def restoreParked (n r : Nat) : Act := fun s =>
  Act.each unparkCore ((s.cores.filter (fun x => x.2.live == some (n, r))).map (·.1)) s

/-! ### Outputs -/

/-- Outputs of a block of which no instruction was issued (R139). -/
def Ctx.zeroOuts (c : Ctx) (j : ArrayJob) (mb nb : Nat) : List OutV :=
  match j.place c mb nb 0 with
  | none => []
  | some x =>
    if j.conv || (c.r.chain).isEmpty then c.plainOuts j x (c.blockValues j false mb nb x [])
    else c.runChain c.r.out (c.r.chain) (c.zeroCells j (c.secondJob j) mb nb x)

/-- What has left the epilogue of a block or an m-block. -/
def Ctx.leftAt (c : Ctx) (mb nb : Nat) : Option (List OutV) :=
  c.s.cores.findSome? (fun y => (y.2.array.outs.find? (fun x => decide (x.1 = ⟨c.slot, c.record, mb, nb, 0, false⟩))).map (·.2))

/-- Every output of a PRODUCT or CONV record that the array computes (R132, R157, R451). -/
def Ctx.arrayOut (c : Ctx) : List ElemW :=
  match arrayProduct c false with
  | none => []
  | some j =>
    let chain := c.r.chain
    let mode := if j.conv then (c.plan.tensor c.r.out).rnd else if chain.isEmpty then (Rnd.ofCode c.r.prnd).getD .rne else lastRnd chain
    c.outWrites c.r.out mode ((List.range (blockList j.p.m c.r.split0).length).flatMap (fun mb =>
      match stageAt chain 7 with
      | some st => (c.leftAt mb 0).getD (c.rowOuts j mb st (fun _ => none))
      | none => (List.range (j.columns c.r).length).flatMap (fun nb => (c.leftAt mb nb).getD (c.zeroOuts j mb nb))))

end Sys2Proof.Machine
end

