-- ==== Sys2Proof/Machine/Attention.lean ====
section
/-! DEFINITION. Sys2Proof/Machine/Attention.lean: page sets, trays and sequence tables (R237 to R246), the attention record
(R220 to R234) and the append record in both modes (R245 to R251). -/
namespace Sys2Proof.Machine

/-! ### Page sets -/

/-- Formats of keys and values (R237). -/
def pageFmt (code : Nat) : Fmt := (Fmt.ofCode code).getD .int8
/-- Whether pages of a format carry scales (R239). -/
def pageMx (code : Nat) : Bool := code == 3 || code == 5
/-- Bytes of the codes of a page, and of a whole page (R239). -/
def codeBytes (d code : Nat) : Nat := 256 * d * (pageFmt code).width / 8
def pageBytes (d code : Nat) : Nat := codeBytes d code + (if pageMx code then 8 * d else 0)
/-- Bytes of a key page and a value page of one head group, and of a pool slot (R240). -/
def PageSet.pair (x : PageSet) : Nat := pageBytes x.d x.kfmt + pageBytes x.d x.vfmt
def PageSet.z (x : PageSet) : Nat := x.hg * x.pair
/-- Key and value rounding (R237). -/
def PageSet.krnd (x : PageSet) : Rnd := (Rnd.ofCode (x.rnd % 8)).getD .rne
def PageSet.vrnd (x : PageSet) : Rnd := (Rnd.ofCode (x.rnd / 8 % 8)).getD .rne

/-- A sequence-table entry (R243). -/
structure SeqEntry where
  length : Nat
  flushed : Nat
  pfill : Nat
  ok : Bool

/-- Tray fill (R246). -/
def SeqEntry.fill (e : SeqEntry) : Nat := e.length - 256 * e.flushed

/-- Entry of sequence `q`, and whether it keeps R243's conditions. -/
def Ctx.seqEntry (c : Ctx) (home : Nat) (x : PageSet) (q : Nat) : SeqEntry :=
  let bs := (List.range 16).map (fun i => BitVec.ofNat 8 (c.code home x.seqtab (16 * q + i)))
  let l := fieldLE bs 0 8
  let f := fieldLE bs 8 4
  let p := fieldLE bs 12 1
  ⟨l, f, p, decide (l ≤ 2 ^ 32) && f == l / 256 && decide (p ≤ l - 256 * f) && allZero (bs.drop 13)⟩

/-- Pool slot of page `p` of sequence `q`, if it has a valid one (R242). -/
def Ctx.pageSlot (c : Ctx) (home : Nat) (x : PageSet) (q p : Nat) : Option Nat :=
  if p < x.maxPages then
    let v := c.code home x.ptab (p + x.maxPages * q)
    if v < x.slots then some v else none
  else none

/-- Index of a record's page set in its plan. -/
def setIndex (p : Plan) (r : Rec) : Nat := (p.pageSets.findIdx? (fun x => x.tensor == recKvset r)).getD 0

/-- A key (`val` false) or value of a tray: row `col`, element `k` (R246). -/
def Ctx.trayElem (c : Ctx) (i : Nat) (x : PageSet) (q h : Nat) (val : Bool) (col k : Nat) : FV :=
  let a := trayAddr c.s c.slot c.plan i (q * x.hg + h) + (if val then 512 * x.d else 0) + 2 * (col * x.d + k)
  decode .bf16 (leNat (memBytes c.s a 2))

/-- Stored code, and scale code, of a key or value of a page in a pool slot (R239, R240). -/
def Ctx.pageCode (c : Ctx) (home : Nat) (x : PageSet) (sl h : Nat) (val : Bool) (col k : Nat) : Nat × Nat :=
  let code := if val then x.vfmt else x.kfmt
  let b := sl * x.z + h * x.pair + (if val then pageBytes x.d x.kfmt else 0)
  let e := if val then col * x.d + k else k * 256 + col
  let sc := if val then col * (x.d / 32) + k / 32 else k / 32 * 256 + col
  let v := if (pageFmt code).width = 4 then
      let y := c.code home x.pool (b + e / 2)
      if e % 2 = 0 then y % 16 else y / 16
    else c.code home x.pool (b + e)
  (v, if pageMx code then c.code home x.pool (b + codeBytes x.d code + sc) else 127)

/-! ### Partials (R227, R228) -/

/-- (−∞, +0, +0 … +0). -/
def AttPart.none (d : Nat) : AttPart := ⟨.inf true, FV.zero, List.replicate d FV.zero, false⟩

/-- R228: left with right. -/
def AttPart.merge (set : TableSet) (d : Nat) (x y : AttPart) : AttPart :=
  let bad := x.bad || y.bad
  if x.m = .inf true ∧ y.m = .inf true then { AttPart.none d with bad := bad }
  else if !(x.m.lt y.m) then
    let a := softExp set y.m x.m
    ⟨x.m, fma32 x.l y.l a, List.zipWith (fun p q => fma32 p q a) x.o y.o, bad⟩
  else
    let a := softExp set x.m y.m
    ⟨y.m, fma32 y.l x.l a, List.zipWith (fun p q => fma32 q p a) x.o y.o, bad⟩

/-- Where a page is read: a pool slot, or the tray. -/
inductive PageAt where
  | pool (sl : Nat)
  | tray

/-- Whether the pattern keeps (i, j): the k origin is not used (R224). -/
def Ctx.attKeeps (c : Ctx) (i j : Nat) (listed : List Nat) : Bool :=
  let p := maskParam c.r.mask
  match maskPattern c.r.mask with
  | 1 => decide (j ≤ i)
  | 2 => decide (j / p ≤ i / p)
  | 3 => decide (i ≤ j + 256 * bits p 23 12) && decide (j ≤ i + 256 * bits p 11 0)
  | 4 => listed.contains (j / 256)
  | _ => true

/-- Page numbers in ascending order, each once. -/
def sortPages (l : List Nat) : List Nat := (l.eraseDups.foldl (fun acc p => insertByFst (p, ()) acc) []).map (·.1)

/-- The distinct listed pages of a query chunk in ascending order, or none for a bad row (R136, R225). -/
def Ctx.listedPages (c : Ctx) (home i : Nat) : Option (List Nat) :=
  match c.pageRow home (maskTensor c.r.mask) (i / maskParam c.r.mask) with
  | none => none
  | some l => if 16384 < l.length then none else some (sortPages l)

/-- Sequence number and position of a token (R221). -/
def Ctx.token (c : Ctx) (home t : Nat) : Nat × Nat :=
  if attForm c.r then (c.code home (attQmap c.r) (2 * t), c.code home (attQmap c.r) (2 * t + 1))
  else (recSeq c.r, (c.origins home).1 + t)

/-- Effective length (R244). -/
def SeqEntry.effective (e : SeqEntry) (tray : Bool) : Nat := if tray then e.length else 256 * e.flushed + e.pfill

/-- What attention knows of one query row: its sequence and position, the sequence's length, the page that its tray takes the place of,
the pages it may need, and whether its sequence is malformed (R225, R244, R251). -/
structure AttRow where
  q : Nat
  pos : Nat
  len : Nat
  tray : Option Nat
  pages : List Nat
  broken : Bool

/-- Query row `m`, as a split in `home` reads it. -/
def Ctx.attRow (c : Ctx) (x : PageSet) (home m : Nat) : AttRow :=
  let tk := c.token home (m / attHpg c.r)
  let e := c.seqEntry home x tk.1
  if tk.1 < x.seqs ∧ e.ok = true then
    let len := e.effective (attTray c.r)
    ⟨tk.1, tk.2, len, if attTray c.r then some e.flushed else none,
      if maskPattern c.r.mask = 4 then (c.listedPages home tk.2).getD [] else List.range (ceilDiv len 256), false⟩
  else ⟨tk.1, tk.2, 0, none, [], true⟩

/-- Whether the score of a row against column `n` of page `p` is kept (R224), and whether the row needs the page at all. -/
def Ctx.rowKeeps (c : Ctx) (w : AttRow) (p n : Nat) : Bool :=
  decide (256 * p + n < w.len) && c.attKeeps w.pos (256 * p + n) w.pages
def Ctx.rowNeeds (c : Ctx) (w : AttRow) (p : Nat) : Bool := (List.range 256).any (c.rowKeeps w p)

/-- Where page `p` of a row's sequence is read (R225, R242). -/
def Ctx.pageAt (c : Ctx) (home : Nat) (x : PageSet) (w : AttRow) (p : Nat) : Option PageAt :=
  if w.tray = some p then some .tray else (c.pageSlot home x w.q p).map .pool

/-- Whether a row is poisoned before any score (R251). -/
def Ctx.rowFails (c : Ctx) (home : Nat) (x : PageSet) (w : AttRow) : Bool :=
  w.broken || w.pages.any (fun p => c.rowNeeds w p && (c.pageAt home x w p).isNone)

/-! ### Query blocks (R225, R226, R229, R232) -/

/-- Rows of a record, tokens of them, and query blocks of a head group: the last may be partial. -/
def Ctx.attRows (c : Ctx) : Nat := (c.plan.tensor c.r.out).dim 1
def Ctx.attTokens (c : Ctx) : Nat := ceilDiv c.attRows (attHpg c.r)
def Ctx.attBlockCount (c : Ctx) : Nat := if attForm c.r then c.attTokens else ceilDiv c.attRows 256

/-- Rows of a query block: 256, or the HPG rows of one token. -/
def Ctx.attBlockSize (c : Ctx) : Nat := if attForm c.r then attHpg c.r else 256
def Ctx.blockRows (c : Ctx) (b : Nat) : List Nat :=
  (List.range c.attBlockSize).map (c.attBlockSize * b + ·) |>.filter (· < c.attRows)

/-- Home of split (h, q, s) that serves query block `b` (R226). -/
def Ctx.attHome (c : Ctx) (h b s : Nat) : Nat := splitHome c.plan c.r h (splitOf c.attBlockCount c.r.split1 b) s

/-- The pages of a row that page group `s` takes, in ascending ordinal (R225, R226): dealt by the row's own page sequence, so that the
chunk form and the batched form group alike (R236). -/
def Ctx.rowGroup (c : Ctx) (w : AttRow) (s : Nat) : List Nat :=
  (w.pages.zipIdx.filter (fun y => y.2 % c.r.split2 == s)).map (·.1)

/-- The pages that page group `s` takes of a query block, in ascending order. Where a block's rows lie in several query chunks, those of all
of them (notes/assumptions/16.md). -/
def Ctx.groupPages (c : Ctx) (x : PageSet) (home b s : Nat) : List Nat :=
  sortPages ((c.blockRows b).flatMap (fun m => c.rowGroup (c.attRow x home m) s))

/-- The first row of a block that is not poisoned, has a page in page group `s` and needs it; with none the (query block, page) pair is not
run (R229, R251). -/
def Ctx.pairRow (c : Ctx) (x : PageSet) (home b s p : Nat) : Option AttRow :=
  ((c.blockRows b).map (c.attRow x home)).find? (fun w => !c.rowFails home x w && (c.rowGroup w s).contains p && c.rowNeeds w p)

/-- Score and value instructions of `n` pairs: score(0), score(1), value(0), score(2), value(1) … (R232). -/
def pairOrder (l : List Nat) : List (Nat × Bool) :=
  match l with
  | [] => []
  | p :: ps => (p, false) :: go p ps
where
  /-- The value of one page follows the score of the next. -/
  go : Nat → List Nat → List (Nat × Bool)
  | p, [] => [(p, true)]
  | p, r :: rs => (r, false) :: (p, true) :: go r rs

/-- The instructions of an ATTEND record on a core, in issue order (R232): the m-block is the query block of its head group, the n-block
the page's place among those of its page group, the k-chunk the page group, and the value product is the second. -/
def Ctx.attendIssues (c : Ctx) (core : Nat) : List BlockId :=
  match c.plan.pageSet c.r with
  | none => []
  | some x =>
    (splitsOn c core).flatMap (fun q =>
      ((List.range c.attBlockCount).filter (fun b => splitOf c.attBlockCount c.r.split1 b == q.2.1)).flatMap (fun b =>
        let home := c.attHome q.1 b q.2.2
        let run := (c.groupPages x home b q.2.2).zipIdx.filter (fun y => (c.pairRow x home b q.2.2 y.1).isSome)
        (pairOrder (run.map (·.2))).map (fun y =>
          ⟨c.slot, c.record, q.1 * c.attBlockCount + b, y.1, q.2.2, y.2⟩)))

/-! ### Scores, weights and values (R222, R223, R227) -/

/-- Code and scale code of a key or value at a page's place. -/
def Ctx.heldCode (c : Ctx) (home : Nat) (x : PageSet) (w : PageAt) (q h : Nat) (val : Bool) (col k : Nat) : Nat × Nat :=
  match w with
  | .pool sl => c.pageCode home x sl h val col k
  | .tray => (encode .bf16 (c.trayElem (setIndex c.plan c.r) x q h val col k), 127)

/-- The score product of a query block with the 256 columns of a page (R222, R223). -/
def Ctx.scores (c : Ctx) (x : PageSet) (h b q : Nat) (w : PageAt) : Prod :=
  let tq := c.plan.tensor c.r.a
  let at_ (m k : Nat) : Nat := k + x.d * ((c.blockRows b).getD m 0 + tq.dim 1 * h)
  { m := (c.blockRows b).length
    n := 256
    k := x.d
    groups := 1
    fa := tq.fmt
    fb := match w with
      | .pool _ => pageFmt x.kfmt
      | .tray => .bf16
    scaled := tq.scaled || pageMx x.kfmt
    ca := fun home _ m k => c.code home c.r.a (at_ m k)
    cb := fun home _ k n => (c.heldCode home x w q h false n k).1
    xa := fun home _ m j => c.scaleCode home c.r.a (at_ m (32 * j))
    xb := fun home _ j n => (c.heldCode home x w q h false n (32 * j)).2
    keep := fun _ _ _ _ => true }

/-- What the normalisation unit makes of a row's scores on a page: the poisoned mark, the maximum, the weights and their sum (R227). -/
structure RowWeights where
  bad : Bool
  mp : FV
  e : List FV
  lp : FV

/-- The weights of a row from its 256 scores as FP32. -/
def Ctx.rowWeights (c : Ctx) (w : AttRow) (p : Nat) (scores : List FV) : RowWeights :=
  let z := scores.zipIdx.map (fun y => if c.rowKeeps w p y.2 then mul32 y.1 (f32Val (attScale c.r)) else FV.inf true)
  let bad := z.zipIdx.any (fun y => c.rowKeeps w p y.2 && !y.1.isFin)
  let mp := z.foldl (fun a v => if a.lt v then v else a) (.inf true)
  let e := if mp = .inf true then List.replicate 256 FV.zero
    else z.map (fun v => if v = .inf true then FV.zero else decode .bf16 (encode .bf16 (softExp c.set v mp)))
  ⟨bad, mp, e, if mp = .inf true then FV.zero else e.foldl add32 FV.zero⟩

/-- The value product of a query block's weights with a page, its values widened to BF16 (R223). -/
def Ctx.values (c : Ctx) (x : PageSet) (h : Nat) (w : PageAt) (p : Nat) (rows : List (AttRow × RowWeights)) : Prod :=
  let e := rows.map (fun r => r.2.e.map (encode .bf16))
  { m := rows.length
    n := x.d
    k := 256
    groups := 1
    fa := .bf16
    fb := .bf16
    scaled := false
    ca := fun _ _ m k => (e.getD m []).getD k 0
    cb := fun home _ k n =>
      let y := c.heldCode home x w ((rows.head?.map (·.1.q)).getD 0) h true k n
      match w with
      | .pool _ => encode .bf16 (scaledVal (pageFmt x.vfmt) y.2 y.1)
      | .tray => y.1
    xa := fun _ _ _ _ => 127
    xb := fun _ _ _ _ => 127
    keep := fun _ m _ k => (rows[m]?).elim false (fun r => c.rowKeeps r.1 p k) }

/-- The place of an ATTEND instruction: a whole block in one k-chunk. -/
def attPlace (home : Nat) (p : Prod) : Place := ⟨home, 0, 0, p.m, 0, p.n, 0, 0, 1⟩

/-- A page's partial of a row, from its weights and the value product (R227). -/
def RowWeights.part (w : RowWeights) (o : List FV) : AttPart :=
  if w.mp = .inf true then ⟨.inf true, FV.zero, o.map (fun _ => FV.zero), w.bad⟩ else ⟨w.mp, w.lp, o, w.bad⟩

/-- A page's partial joins the running one, as right; the first page's starts it (R228). -/
def foldPart (set : TableSet) (d : Nat) (acc : Option AttPart) (p : AttPart) : AttPart :=
  match acc with
  | none => p
  | some l => AttPart.merge set d l p

/-- What an ATTEND instruction works on: the page set, the head group, query block and page group, the home of the split, the page
number, where it is, and the block's rows. -/
structure AttWork where
  x : PageSet
  h : Nat
  b : Nat
  home : Nat
  page : Nat
  at_ : PageAt
  rows : List AttRow

def Ctx.attWork (c : Ctx) (id : BlockId) : Option AttWork :=
  match c.plan.pageSet c.r with
  | none => none
  | some x =>
    let h := id.mblock / c.attBlockCount
    let b := id.mblock % c.attBlockCount
    let home := c.attHome h b id.kchunk
    match (c.groupPages x home b id.kchunk)[id.nblock]? with
    | none => none
    | some p => match c.pairRow x home b id.kchunk p with
      | none => none
      | some w => (c.pageAt home x w p).map (fun a => ⟨x, h, b, home, p, a, (c.blockRows b).map (c.attRow x home)⟩)

/-- The score product of an instruction's page. -/
def Ctx.scoreProd (c : Ctx) (k : AttWork) : Prod := c.scores k.x k.h k.b ((k.rows.head?.map (·.q)).getD 0) k.at_

/-- The scores of a page as FP32, row by row (R227). -/
def Ctx.scoreConvs (c : Ctx) (k : AttWork) (sums : List Acc) : List Conv :=
  let sp := c.scoreProd k
  (List.range k.rows.length).flatMap (fun m => (List.range 256).map (fun n =>
    convert .fp32 .rne 0 false ((sums.getD (256 * m + n) Acc.zero).value sp.bf16 (sp.weight k.home 0 m n))))

/-- Rows of a block with their weights, from the scores that the epilogue holds (R227). -/
def Ctx.weights (c : Ctx) (k : AttWork) (scores : List Word) : List (AttRow × RowWeights) :=
  k.rows.zipIdx.map (fun r => (r.1, c.rowWeights r.1 k.page ((List.range 256).map (fun n => f32Val (scores.getD (256 * r.2 + n) 0)))))

/-- The product of an ATTEND instruction, given what the epilogue holds of the scores. -/
def Ctx.attProd (c : Ctx) (k : AttWork) (second : Bool) (scores : List Word) : Prod :=
  if second then c.values k.x k.h k.at_ k.page (c.weights k scores) else c.scoreProd k

/-- Conversions of an instruction's page that overflow from finite values (R45): scores to FP32, of the rows whose page group has the page
(R227), or values of the page to BF16 (R223). -/
def Ctx.pageSats (c : Ctx) (id : BlockId) (sums : List Acc) : Nat :=
  match c.attWork id with
  | none => 0
  | some k =>
    if !id.second then
      ((c.scoreConvs k sums).zipIdx.map (fun y => b2n (y.1.sat && ((k.rows[y.2 / 256]?).elim false (fun w =>
        !c.rowFails k.home k.x w && (c.rowGroup w id.kchunk).contains k.page))))).sum
    else match k.at_ with
      | .tray => 0
      | .pool sl => ((List.range 256).flatMap (fun col => (List.range k.x.d).map (fun n =>
          let y := c.pageCode k.home k.x sl k.h true col n
          b2n (convert .bf16 .rne 0 false (scaledVal (pageFmt k.x.vfmt) y.2 y.1)).sat))).sum

/-- The running partials of a query block's rows after a page's value product. A row folds the pages of its own group, those not run with
the partial of R229; folding that partial twice is folding it once. -/
def Ctx.attMerge (c : Ctx) (k : AttWork) (id : BlockId) (scores : List Word) (sums : List Acc) (acc : List (Option AttPart)) :
    List (Option AttPart) :=
  let d := k.x.d
  let runs (p : Nat) : Bool := (c.pairRow k.x k.home k.b id.kchunk p).isSome
  let skips (b : Bool) (a : Option AttPart) : Option AttPart := if b then some (foldPart c.set d a (AttPart.none d)) else a
  (c.weights k scores).zipIdx.map (fun r =>
    let old := (acc[r.2]?).getD none
    let l := c.rowGroup r.1.1 id.kchunk
    match l.findIdx? (· == k.page) with
    | none => old
    | some i =>
      let gapBefore := (((l.take i).getLast?).map (fun p => !runs p)).getD false
      let tail := l.drop (i + 1)
      skips (!tail.isEmpty && !tail.any runs) (some (foldPart c.set d (skips gapBefore old)
        (r.1.2.part ((List.range d).map (fun n => (sums.getD (d * r.2 + n) Acc.zero).value true 0))))))

/-! ### What a record writes (R228, R230, R234) -/

/-- The merged partial of row `m` of head group `h`: the running partials of its S page groups, by the fixed tree (R228). -/
def Ctx.rowPart (c : Ctx) (x : PageSet) (h m : Nat) : AttPart :=
  let b := m / c.attBlockSize
  let group (s : Nat) : AttPart :=
    ((c.s.cores.findSome? (fun y => y.2.array.partials.find? (fun z =>
        decide (z.1 = ⟨c.slot, c.record, h * c.attBlockCount + b, 0, s, true⟩)))).bind (fun z => (z.2[m % c.attBlockSize]?).getD none)).getD
      (AttPart.none x.d)
  treeRoot (AttPart.merge c.set x.d) (AttPart.none x.d) ((List.range c.r.split2).map group)

/-- The elements of a row of Y, before conversion (R230). -/
def AttPart.result (p : AttPart) : List FV :=
  p.o.map (fun v => if p.bad then FV.nan else if p.l.isZero then FV.zero else v.div32 p.l)

/-- A value times e^m for m = t / log2(e), as WIDE48 (R234): where |t| ≥ 2^23, t is integral and p = 1, and a t beyond ±2^20
lies beyond the exponents of WIDE48, as a product of finite FP32 values does. -/
def scaleExp (t v : FV) : Conv :=
  let n : Int := match t with
    | .inf s => if s then -(2 ^ 20) else 2 ^ 20
    | _ => t.floor
  let p := if t.isFin then interp .standard .exp2t (t.sub (FV.ofInt n)) else FV.one
  convert .wide48 .rne 0 false ((v.mul p).scale (max (-(2 ^ 20)) (min (2 ^ 20) n)))

/-- The WIDE48 contribution of a row (R234). -/
def AttPart.contribution (p : AttPart) : List Conv :=
  if p.bad then List.replicate (p.o.length + 1) ⟨Fmt.nan .wide48, false, false⟩
  else if p.m = .inf true then List.replicate (p.o.length + 1) ⟨0, false, false⟩
  else (p.o ++ [p.l]).map (scaleExp (mul32 p.m cL2E))

/-- Distinct failing sequences, lowest first, as an event of detail `code` (R250, R251). -/
def failEvent (c : Ctx) (code : Nat) (qs : List Nat) : List Malformed :=
  match qs.eraseDups with
  | [] => []
  | q :: t => [⟨code, c.record, recKvset c.r, t.foldl min q, min (t.length + 1) 0xFFFFFFFF⟩]

/-- Bad rows of the page list that tokens of the record meet, each as its own split's home reads it (R136, R225, R260). -/
def Ctx.badLists (c : Ctx) : List Nat :=
  if maskPattern c.r.mask = 4 then
    (((List.range c.attTokens).map (fun t =>
      let home := c.attHome 0 (t * attHpg c.r / c.attBlockSize) 0
      (home, (c.token home t).2))).filter (fun y => (c.listedPages y.1 y.2).isNone)).map (fun y => y.2 / maskParam c.r.mask) |>.eraseDups
  else []

/-- What the encoder reads for the rows of Y of a query block (R97). -/
def yParts (c : Ctx) (x : PageSet) (home h b : Nat) : List Part :=
  let ms := c.blockRows b
  let lo := x.d * (ms.headD 0 + c.attRows * h)
  encoderPart c home c.r.out lo (lo + x.d * ms.length)

/-- What an ATTEND record reads: queries, tokens and masks, entries of its sequences, and the pages and trays of the pairs that run. -/
def attendParts (c : Ctx) (x : PageSet) : List Part :=
  let rows := c.attRows
  (splitsWithHomes c).flatMap (fun q =>
    ((attQmap c.r :: maskTensors c.r.mask).flatMap (wholePart c q.2))
    ++ ((List.range c.attBlockCount).filter (fun b => splitOf c.attBlockCount c.r.split1 b == q.1.2.1)).flatMap (fun b =>
      let ms := c.blockRows b
      let seqs := (ms.map (fun m => (c.attRow x q.2 m).q)).eraseDups
      [.elems q.2 c.r.a (x.d * (ms.headD 0 + rows * q.1.1)) (x.d * (ms.headD 0 + ms.length + rows * q.1.1))]
      ++ seqs.map (fun n => .elems q.2 x.seqtab (16 * n) (16 * n + 16))
      ++ (if q.1.2.2 = 0 ∧ attXdev c.r = false then yParts c x q.2 q.1.1 b else [])
      ++ (c.groupPages x q.2 b q.1.2.2).flatMap (fun p => match c.pairRow x q.2 b q.1.2.2 p with
        | none => []
        | some w => match c.pageAt q.2 x w p with
          | none => []
          | some (.pool sl) => [.elems q.2 x.ptab (p + x.maxPages * w.q) (p + x.maxPages * w.q + 1),
              .elems q.2 x.pool (sl * x.z + q.1.1 * x.pair) (sl * x.z + (q.1.1 + 1) * x.pair)]
          | some .tray => [.bytes (trayAddr c.s c.slot c.plan (setIndex c.plan c.r) (w.q * x.hg + q.1.1)) x.trayBytes])))

/-- ATTEND (R220 to R234): Y of every row, or with XDEV the contributions that the collective sums. -/
def attendBody (c : Ctx) : Body :=
  match c.plan.pageSet c.r with
  | none => ⟨[], [], [], Act.none⟩
  | some x =>
    let ty := c.plan.tensor c.r.out
    let rows := c.attRows
    let home (h m : Nat) : Nat := c.attHome h (m / c.attBlockSize) 0
    let res := (List.range x.hg).flatMap (fun h => (List.range rows).map (fun m =>
      let w := c.attRow x (home h m) m
      let fails := c.rowFails (home h m) x w
      let part := c.rowPart x h m
      (h, m, { part with bad := part.bad || fails }, fails, w.q)))
    let fails := failEvent c 6 ((res.filter (fun y => y.2.2.2.1)).map (fun y => y.2.2.2.2))
    let lists : List Malformed := match c.badLists with
      | [] => []
      | q :: t => [⟨4, c.record, maskTensor c.r.mask, t.foldl min q, min (t.length + 1) 0xFFFFFFFF⟩]
    let ws : List ElemW :=
      if attXdev c.r then
        res.flatMap (fun y => (y.2.2.1.contribution).zipIdx.map (fun v =>
          ⟨attWout c.r, home y.1 y.2.1, v.2 + (x.d + 1) * (y.2.1 + rows * y.1), v.1⟩))
      else c.outWrites c.r.out ty.rnd (res.flatMap (fun y => (y.2.2.1.result).zipIdx.map (fun v =>
          c.outV c.r.out ty.rnd ty.ovfNan (home y.1 y.2.1) (v.2 + x.d * (y.2.1 + rows * y.1)) v.1)))
    ⟨ws, fails ++ lists, attendParts c x, clearArrays c.slot c.record⟩

def execAttend (slot : SlotId) (r : Nat) (s : State) : Host.Outcome State Fault Refusal :=
  (arrayBody slot.val r 7 Ctx.attendIssues attendBody).run s

/-! ### Append (R245 to R250) -/

/-- One head group's keys or values of one position, quantised on their own: codes and scales (R241). -/
def quantise (code : Nat) (mode : Rnd) (xs : List FV) : List Conv × List Nat :=
  let f := pageFmt code
  if pageMx code then
    let blocks := chunks32 xs
    let sc := blocks.map (blockScale f)
    ((List.zip blocks sc).flatMap (fun b => blockElems f mode b.2 (b.1.map (fun v => (v, 0)))), sc)
  else (xs.map (convert f mode 0 false), [])

/-- The bytes of a page from its 256 quantised columns (R239). -/
def pageImage (d code : Nat) (val : Bool) (cols : List (List Conv × List Nat)) : List Byte :=
  let cs := cols.map (fun x => x.1.map (·.code))
  let el (e : Nat) : Nat := if val then (cs.getD (e / d) []).getD (e % d) 0 else (cs.getD (e % 256) []).getD (e / 256) 0
  let codes := if (pageFmt code).width = 4 then
      (List.range (128 * d)).map (fun i => BitVec.ofNat 8 (el (2 * i) + 16 * el (2 * i + 1)))
    else (List.range (256 * d)).map (fun i => BitVec.ofNat 8 (el i))
  let sc (i : Nat) : Nat := if val then ((cols.map (·.2)).getD (i / (d / 32)) []).getD (i % (d / 32)) 0
    else ((cols.map (·.2)).getD (i % 256) []).getD (i / 256) 0
  codes ++ (if pageMx code then (List.range (8 * d)).map (fun i => BitVec.ofNat 8 (sc i)) else [])

/-- A quantised column of padding (R241). -/
def padColumn (d code : Nat) : List Conv × List Nat :=
  (List.replicate d ⟨0, false, false⟩, if pageMx code then List.replicate (d / 32) 0 else [])

/-- What one sequence's appends write. -/
structure AppendOut where
  acts : List Act
  sats : Nat
  nans : Nat

/-- Local address of the key page of head group `h` in pool slot `sl`. -/
def Ctx.poolAddr (c : Ctx) (home : Nat) (x : PageSet) (sl h : Nat) : Nat :=
  c.base home (c.plan.tensor x.pool) + sl * x.z + h * x.pair

/-- A page pair of head group `h` written whole; `col` gives the BF16 values of a column's key or value, or padding. -/
def Ctx.writePage (c : Ctx) (home : Nat) (x : PageSet) (sl h : Nat) (col : Bool → Nat → Option (List FV)) : AppendOut :=
  let q (val : Bool) : List (List Conv × List Nat) := (List.range 256).map (fun n =>
    match col val n with
    | some vs => quantise (if val then x.vfmt else x.kfmt) (if val then x.vrnd else x.krnd) vs
    | none => padColumn x.d (if val then x.vfmt else x.kfmt))
  let ks := q false
  let vs := q true
  let all := (ks ++ vs).flatMap (·.1)
  ⟨[planStore (c.plan.tensor x.pool).sealed (c.poolAddr home x sl h) (pageImage x.d x.kfmt false ks ++ pageImage x.d x.vfmt true vs)],
    (all.map (fun k => b2n k.sat)).sum, (all.map (fun k => b2n k.nan0)).sum⟩

/-- A sequence-table entry rewritten (R243, R248). -/
def Ctx.writeEntry (c : Ctx) (home : Nat) (x : PageSet) (q : Nat) (len fl pf : Nat) : Act :=
  let t := c.plan.tensor x.seqtab
  planStore t.sealed (c.base home t + 16 * q) (toLE 8 len ++ toLE 4 fl ++ toLE 4 pf)

/-- Home that reads the tokens of page `u` of `n` pages for head group `h` (R263). -/
def Ctx.appendHome (c : Ctx) (x : PageSet) (n u h : Nat) : Nat :=
  splitHome c.plan c.r (if c.r.split0 ≤ n then splitOf n c.r.split0 u else 0) (splitOf x.hg c.r.split1 h) 0

/-- Tokens of a sequence, each with the position it names, in ascending token order (R247). -/
def Ctx.appendTokens (c : Ctx) (home tokens q : Nat) (len : Nat) : List (Nat × Nat) :=
  if appForm c.r then
    ((List.range tokens).filter (fun t => c.code home (appTmap c.r) (2 * t) == q)).map (fun t =>
      (t, c.code home (appTmap c.r) (2 * t + 1)))
  else (List.range tokens).map (fun t => (t, len + t))

/-- Why an append of a sequence fails: detail 6 for the first two checks, detail 7 for the third alone (R250). -/
def Ctx.appendFails (c : Ctx) (home : Nat) (x : PageSet) (q : Nat) (e : SeqEntry) (toks : List (Nat × Nat)) : Option Nat :=
  if x.seqs ≤ q then some 7
  else
    let final := e.length + toks.length
    let pages := (List.range (final / 256 - e.length / 256)).map (e.length / 256 + ·)
    if !e.ok || pages.any (fun p => (c.pageSlot home x q p).isNone) then some 6
    else if toks.zipIdx.any (fun y => y.1.2 != e.length + y.2) || decide (min (2 ^ 32) (256 * x.maxPages) < final) then some 7
    else none

/-- The appends of one sequence (R247, R248): the positions that complete the open tray page go into the tray, whole pages to their
slots, and the rest into the tray. -/
def Ctx.appendSeq (c : Ctx) (home : Nat) (x : PageSet) (q : Nat) (e : SeqEntry) (toks : List (Nat × Nat)) : AppendOut :=
  let si := setIndex c.plan c.r
  let final := e.length + toks.length
  let first := e.length / 256
  let pages := ceilDiv final 256 - first
  let tk := c.plan.tensor c.r.a
  let row (h : Nat) (val : Bool) (pos : Nat) : List FV :=
    if pos < e.length then (List.range x.d).map (c.trayElem si x q h val (pos % 256))
    else
      let t := (toks.getD (pos - e.length) (0, 0)).1
      let hm := c.appendHome x pages (pos / 256 - first) h
      (List.range x.d).map (fun k => c.val hm (if val then c.r.b else c.r.a) (k + x.d * (t + tk.dim 1 * h)))
  let whole := (List.range (final / 256 - first)).flatMap (fun i => (List.range x.hg).map (fun h =>
    c.writePage home x ((c.pageSlot home x q (first + i)).getD 0) h (fun val n => some (row h val (256 * (first + i) + n)))))
  let trays (from_ upTo : Nat) : List Act := (List.range x.hg).flatMap (fun h => (List.range' from_ (upTo - from_)).flatMap (fun pos =>
    [false, true].map (fun val =>
      storeMem (trayAddr c.s c.slot c.plan si (q * x.hg + h) + (if val then 512 * x.d else 0) + 2 * (pos % 256 * x.d))
        ((row h val pos).flatMap (fun v => toLE 2 (encode .bf16 v))))))
  let pageEnd := 256 * (final / 256)
  ⟨trays e.length (if e.fill = 0 then e.length else min pageEnd (256 * (first + 1))) ++ whole.flatMap (·.acts)
      ++ trays (max e.length pageEnd) final
      ++ [c.writeEntry home x q final (final / 256) (if final / 256 = e.flushed then e.pfill else 0)],
    (whole.map (·.sats)).sum, (whole.map (·.nans)).sum⟩

/-- The padded flush of one sequence (R249), or why it fails. -/
def Ctx.pflushSeq (c : Ctx) (home : Nat) (x : PageSet) (q : Nat) : Except Nat AppendOut :=
  if x.seqs ≤ q then .error 7
  else
    let e := c.seqEntry home x q
    if !e.ok then .error 6
    else match c.pageSlot home x q e.flushed with
      | none => if e.fill ≠ 0 then .error 6
        else if min (2 ^ 32) (256 * x.maxPages) < e.length then .error 7 else .ok ⟨[], 0, 0⟩
      | some sl =>
        if min (2 ^ 32) (256 * x.maxPages) < e.length then .error 7
        else if e.fill = 0 then .ok ⟨[], 0, 0⟩ else
        let si := setIndex c.plan c.r
        let pages := (List.range x.hg).map (fun h => c.writePage home x sl h (fun val n =>
          if n < e.fill then some ((List.range x.d).map (c.trayElem si x q h val n)) else none))
        .ok ⟨pages.flatMap (·.acts) ++ [c.writeEntry home x q e.length e.flushed e.fill],
          (pages.map (·.sats)).sum, (pages.map (·.nans)).sum⟩

/-- Sequences that a record names: SEQ, or those of row 0 of TMAP in order of their first token (R247, R249). -/
def Ctx.appendSeqs (c : Ctx) (home tokens : Nat) : List Nat :=
  if appForm c.r then ((List.range tokens).map (fun t => c.code home (appTmap c.r) (2 * t))).eraseDups else [recSeq c.r]

/-- What an append record reads of its sequences: entries, page-table entries and open trays, and the tokens that name them. -/
def appendParts (c : Ctx) (x : PageSet) (home : Nat) (qs : List Nat) : List Part :=
  (if appForm c.r then wholePart c home (appTmap c.r) else [])
  ++ (qs.filter (· < x.seqs)).flatMap (fun q =>
    .elems home x.seqtab (16 * q) (16 * q + 16) :: .elems home x.ptab (x.maxPages * q) (x.maxPages * (q + 1))
      :: (if (c.seqEntry home x q).fill = 0 then [] else (List.range x.hg).map (fun h =>
        .bytes (trayAddr c.s c.slot c.plan (setIndex c.plan c.r) (q * x.hg + h)) x.trayBytes)))

/-- Keys and values that the appends of one sequence read: each in the home of its page and head group (R263). -/
def tokenParts (c : Ctx) (x : PageSet) (e : SeqEntry) (toks : List (Nat × Nat)) : List Part :=
  let first := e.length / 256
  let pages := ceilDiv (e.length + toks.length) 256 - first
  let tk := c.plan.tensor c.r.a
  toks.zipIdx.flatMap (fun y => (List.range x.hg).flatMap (fun h =>
    let home := c.appendHome x pages ((e.length + y.2) / 256 - first) h
    let lo := x.d * (y.1.1 + tk.dim 1 * h)
    [.elems home c.r.a lo (lo + x.d), .elems home c.r.b lo (lo + x.d)]))

/-- Results of the sequences of an append record, as a body. -/
def appendResult (c : Ctx) (parts : List Part) (res : List (Nat × Except Nat AppendOut)) : Body :=
  let oks := res.filterMap (fun y => match y.2 with
    | .ok o => some o
    | .error _ => none)
  let bad (k : Nat) : List Nat := res.filterMap (fun y => match y.2 with
    | .error e => if e = k then some y.1 else none
    | .ok _ => none)
  ⟨[], failEvent c 6 (bad 6) ++ failEvent c 7 (bad 7), parts,
    Act.seq (Act.all (oks.flatMap (·.acts))) (convCounts c.slot c.record ((oks.map (·.sats)).sum) ((oks.map (·.nans)).sum))⟩

/-- APPEND, mode APPEND (R247, R250). -/
def appendBody (c : Ctx) : Body :=
  match c.plan.pageSet c.r with
  | none => ⟨[], [], [], Act.none⟩
  | some x =>
    let home := splitHome c.plan c.r 0 0 0
    let tokens := (c.plan.tensor c.r.a).dim 1
    let l := (c.appendSeqs home tokens).map (fun q =>
      let e := if q < x.seqs then c.seqEntry home x q else ⟨0, 0, 0, false⟩
      (q, e, c.appendTokens home tokens q e.length))
    appendResult c
      (appendParts c x home (l.map (·.1)) ++ l.flatMap (fun y =>
        if (c.appendFails home x y.1 y.2.1 y.2.2).isNone then tokenParts c x y.2.1 y.2.2 else []))
      (l.map (fun y => (y.1, match c.appendFails home x y.1 y.2.1 y.2.2 with
        | some k => .error k
        | none => .ok (c.appendSeq home x y.1 y.2.1 y.2.2))))

/-- APPEND, mode PFLUSH (R249, R250). -/
def pflushBody (c : Ctx) : Body :=
  match c.plan.pageSet c.r with
  | none => ⟨[], [], [], Act.none⟩
  | some x =>
    let home := splitHome c.plan c.r 0 0 0
    let tokens := (c.plan.tensor (appTmap c.r)).dim 1
    appendResult c (appendParts c x home (c.appendSeqs home tokens)) ((c.appendSeqs home tokens).map (fun q => (q, c.pflushSeq home x q)))

/-- An append record of one mode. -/
def appendMode (n r mode : Nat) (f : Ctx → Body) : Act := fun s =>
  match bodyDue s n r 8 with
  | none => []
  | some (c, _) => if appMode c.r = mode then recordBody n r 8 f s else []

def execAppend (slot : SlotId) (r : Nat) (s : State) : Host.Outcome State Fault Refusal :=
  (appendMode slot.val r 0 appendBody).run s

def execPflush (slot : SlotId) (r : Nat) (s : State) : Host.Outcome State Fault Refusal :=
  (appendMode slot.val r 1 pflushBody).run s

end Sys2Proof.Machine
end

