-- ==== Sys2Proof/Machine/LaneInstr.lean ====
section
/-! DEFINITION. Sys2Proof/Machine/LaneInstr.lean: the lane instructions (R174), each on the lane that issues it. -/
namespace Sys2Proof.Machine

/-- LANE_NOP: no effect (R174). -/
def execLaneNop (u : LaneId) (s : State) : Host.Outcome State Fault Refusal := (laneAct u 0x00 0 0 0 0).run s

/-- CONST: d = constant[C] (R174). -/
def execConst (u : LaneId) (d : Reg) (c : Fin 64) (s : State) : Host.Outcome State Fault Refusal :=
  (laneAct u 0x01 d.val 0 0 c.val).run s

/-- MOV: d = a, all 32 bits (R174). -/
def execMov (u : LaneId) (d a : Reg) (s : State) : Host.Outcome State Fault Refusal :=
  (laneAct u 0x02 d.val a.val 0 0).run s

/-- IDX: d = the index that C selects (R174). -/
def execIdx (u : LaneId) (d : Reg) (c : Fin 64) (s : State) : Host.Outcome State Fault Refusal :=
  (laneAct u 0x03 d.val 0 0 c.val).run s

/-- FADD: FP32 a + b (R46). -/
def execFadd (u : LaneId) (d a b : Reg) (s : State) : Host.Outcome State Fault Refusal :=
  (laneAct u 0x10 d.val a.val b.val 0).run s

/-- FSUB: FP32 a − b (R46). -/
def execFsub (u : LaneId) (d a b : Reg) (s : State) : Host.Outcome State Fault Refusal :=
  (laneAct u 0x11 d.val a.val b.val 0).run s

/-- FMUL: FP32 a × b (R46). -/
def execFmul (u : LaneId) (d a b : Reg) (s : State) : Host.Outcome State Fault Refusal :=
  (laneAct u 0x12 d.val a.val b.val 0).run s

/-- FFMA: FP32 a × b + c, one rounding (R46). -/
def execFfma (u : LaneId) (d a b c : Reg) (s : State) : Host.Outcome State Fault Refusal :=
  (laneAct u 0x13 d.val a.val b.val c.val).run s

/-- FMIN (R174). -/
def execFmin (u : LaneId) (d a b : Reg) (s : State) : Host.Outcome State Fault Refusal :=
  (laneAct u 0x14 d.val a.val b.val 0).run s

/-- FMAX (R174). -/
def execFmax (u : LaneId) (d a b : Reg) (s : State) : Host.Outcome State Fault Refusal :=
  (laneAct u 0x15 d.val a.val b.val 0).run s

/-- FABS: bit 31 of a cleared; a NaN is canonical (R174). -/
def execFabs (u : LaneId) (d a : Reg) (s : State) : Host.Outcome State Fault Refusal :=
  (laneAct u 0x16 d.val a.val 0 0).run s

/-- FNEG: bit 31 of a inverted; a NaN is canonical (R174). -/
def execFneg (u : LaneId) (d a : Reg) (s : State) : Host.Outcome State Fault Refusal :=
  (laneAct u 0x17 d.val a.val 0 0).run s

/-- BADD: BF16 a + b (R174). -/
def execBadd (u : LaneId) (d a b : Reg) (s : State) : Host.Outcome State Fault Refusal :=
  (laneAct u 0x18 d.val a.val b.val 0).run s

/-- BMUL: BF16 a × b (R174). -/
def execBmul (u : LaneId) (d a b : Reg) (s : State) : Host.Outcome State Fault Refusal :=
  (laneAct u 0x19 d.val a.val b.val 0).run s

/-- BFMA: BF16 a × b + c (R174). -/
def execBfma (u : LaneId) (d a b c : Reg) (s : State) : Host.Outcome State Fault Refusal :=
  (laneAct u 0x1A d.val a.val b.val c.val).run s

/-- IADD: a + b modulo 2^32 (R174). -/
def execIadd (u : LaneId) (d a b : Reg) (s : State) : Host.Outcome State Fault Refusal :=
  (laneAct u 0x20 d.val a.val b.val 0).run s

/-- ISUB: a − b modulo 2^32 (R174). -/
def execIsub (u : LaneId) (d a b : Reg) (s : State) : Host.Outcome State Fault Refusal :=
  (laneAct u 0x21 d.val a.val b.val 0).run s

/-- IMUL: low 32 bits of a × b (R174). -/
def execImul (u : LaneId) (d a b : Reg) (s : State) : Host.Outcome State Fault Refusal :=
  (laneAct u 0x22 d.val a.val b.val 0).run s

/-- IMULH: high 32 bits of the signed product (R174). -/
def execImulh (u : LaneId) (d a b : Reg) (s : State) : Host.Outcome State Fault Refusal :=
  (laneAct u 0x23 d.val a.val b.val 0).run s

/-- IMIN: signed minimum (R174). -/
def execImin (u : LaneId) (d a b : Reg) (s : State) : Host.Outcome State Fault Refusal :=
  (laneAct u 0x24 d.val a.val b.val 0).run s

/-- IMAX: signed maximum (R174). -/
def execImax (u : LaneId) (d a b : Reg) (s : State) : Host.Outcome State Fault Refusal :=
  (laneAct u 0x25 d.val a.val b.val 0).run s

/-- AND (R174). -/
def execAnd (u : LaneId) (d a b : Reg) (s : State) : Host.Outcome State Fault Refusal :=
  (laneAct u 0x26 d.val a.val b.val 0).run s

/-- OR (R174). -/
def execOr (u : LaneId) (d a b : Reg) (s : State) : Host.Outcome State Fault Refusal :=
  (laneAct u 0x27 d.val a.val b.val 0).run s

/-- XOR (R174). -/
def execXor (u : LaneId) (d a b : Reg) (s : State) : Host.Outcome State Fault Refusal :=
  (laneAct u 0x28 d.val a.val b.val 0).run s

/-- SHL: a shifted left by b[4:0] (R174). -/
def execShl (u : LaneId) (d a b : Reg) (s : State) : Host.Outcome State Fault Refusal :=
  (laneAct u 0x29 d.val a.val b.val 0).run s

/-- SHR: a shifted right by b[4:0], logical (R174). -/
def execShr (u : LaneId) (d a b : Reg) (s : State) : Host.Outcome State Fault Refusal :=
  (laneAct u 0x2A d.val a.val b.val 0).run s

/-- SAR: a shifted right by b[4:0], arithmetic (R174). -/
def execSar (u : LaneId) (d a b : Reg) (s : State) : Host.Outcome State Fault Refusal :=
  (laneAct u 0x2B d.val a.val b.val 0).run s

/-- XMAC: exact product added into the triple at D (R175). -/
def execXmac (u : LaneId) (d a b : Reg) (s : State) : Host.Outcome State Fault Refusal :=
  (laneAct u 0x2C d.val a.val b.val 0).run s

/-- XRND: the triple at A rounded once to the output format (R56). -/
def execXrnd (u : LaneId) (d a : Reg) (s : State) : Host.Outcome State Fault Refusal :=
  (laneAct u 0x2D d.val a.val 0 0).run s

/-- FCMPLT (R174). -/
def execFcmplt (u : LaneId) (d a b : Reg) (s : State) : Host.Outcome State Fault Refusal :=
  (laneAct u 0x30 d.val a.val b.val 0).run s

/-- FCMPLE (R174). -/
def execFcmple (u : LaneId) (d a b : Reg) (s : State) : Host.Outcome State Fault Refusal :=
  (laneAct u 0x31 d.val a.val b.val 0).run s

/-- FCMPEQ (R174). -/
def execFcmpeq (u : LaneId) (d a b : Reg) (s : State) : Host.Outcome State Fault Refusal :=
  (laneAct u 0x32 d.val a.val b.val 0).run s

/-- ICMPLT (R174). -/
def execIcmplt (u : LaneId) (d a b : Reg) (s : State) : Host.Outcome State Fault Refusal :=
  (laneAct u 0x33 d.val a.val b.val 0).run s

/-- ICMPEQ (R174). -/
def execIcmpeq (u : LaneId) (d a b : Reg) (s : State) : Host.Outcome State Fault Refusal :=
  (laneAct u 0x34 d.val a.val b.val 0).run s

/-- SEL: a where c is not 0, otherwise b (R174). -/
def execSel (u : LaneId) (d a b c : Reg) (s : State) : Host.Outcome State Fault Refusal :=
  (laneAct u 0x35 d.val a.val b.val c.val).run s

/-- CVT (R176). -/
def execCvt (u : LaneId) (d a : Reg) (b c : Fin 64) (s : State) : Host.Outcome State Fault Refusal :=
  (laneAct u 0x40 d.val a.val b.val c.val).run s

/-- SFN (R177). -/
def execSfn (u : LaneId) (d a : Reg) (b c : Fin 64) (s : State) : Host.Outcome State Fault Refusal :=
  (laneAct u 0x50 d.val a.val b.val c.val).run s

/-- RAND (R178). -/
def execRand (u : LaneId) (d a : Reg) (b c : Fin 64) (s : State) : Host.Outcome State Fault Refusal :=
  (laneAct u 0x58 d.val a.val b.val c.val).run s

/-- LD (R181). -/
def execLd (u : LaneId) (d : Reg) (c : Fin 64) (s : State) : Host.Outcome State Fault Refusal :=
  (laneAct u 0x60 d.val 0 0 c.val).run s

/-- ST (R181). -/
def execSt (u : LaneId) (a : Reg) (c : Fin 64) (s : State) : Host.Outcome State Fault Refusal :=
  (laneAct u 0x61 0 a.val 0 c.val).run s

/-- RSUM (R179). -/
def execRsum (u : LaneId) (d a : Reg) (s : State) : Host.Outcome State Fault Refusal :=
  (laneAct u 0x70 d.val a.val 0 0).run s

/-- RMAX (R179). -/
def execRmax (u : LaneId) (d a : Reg) (s : State) : Host.Outcome State Fault Refusal :=
  (laneAct u 0x71 d.val a.val 0 0).run s

/-- RMIN (R179). -/
def execRmin (u : LaneId) (d a : Reg) (s : State) : Host.Outcome State Fault Refusal :=
  (laneAct u 0x72 d.val a.val 0 0).run s

/-- RWEL (R179, R202). -/
def execRwel (u : LaneId) (d a : Reg) (s : State) : Host.Outcome State Fault Refusal :=
  (laneAct u 0x73 d.val a.val 0 0).run s

/-- PASS: ends a pass (R172). -/
def execPass (u : LaneId) (s : State) : Host.Outcome State Fault Refusal :=
  (laneAct u 0xF0 0 0 0 0).run s

/-- END: ends the final pass (R172). -/
def execFinish (u : LaneId) (s : State) : Host.Outcome State Fault Refusal :=
  (laneAct u 0xFF 0 0 0 0).run s

end Sys2Proof.Machine
end

