-- ==== Sys2Proof/Machine/PlanImage.lean ====
section
/-! DEFINITION. Sys2Proof/Machine/PlanImage.lean: the parts of a plan image (R172, R256 to R273) read from its bytes, the
step and the order of its records (R269, R270), the bytes its tensors take (R64, R181, R259) and the shelf demand it
places on homes (R246, R275). -/
namespace Sys2Proof.Machine

/-! ### Reading an image -/

/-- A tensor descriptor (R258). -/
def parseTensor (b : List Byte) : Tensor :=
  let w := fieldLE b 0 8
  let fl := fieldLE b 60 2
  { fmtCode := bits w 63 60
    comp := bits w 59 56
    rndCode := bits w 55 53
    ovfNan := bit w 52
    base := bits w 51 0
    ref := fieldLE b 8 2
    scale := fieldLE b 10 2
    stream := fieldLE b 12 4
    size := (List.range 5).map (fun d => fieldLE b (16 + 4 * d) 4)
    stride := (List.range 5).map (fun d => fieldLE b (36 + 4 * d) 4)
    capacity := fieldLE b 56 4
    sealed := bit fl 15
    shelf := bit fl 14
    layout := bits fl 13 12
    blockDim := bits fl 11 9
    rsvOk := bits fl 8 0 == 0 && allZero (slice b 62 2) }

/-- An operation record (R262). -/
def parseRec (b : List Byte) : Rec :=
  let w := fieldLE b 0 8
  { opcode := bits w 63 48
    dataflow := bits w 47 46
    tableSet := bits w 45 44
    rowHold := bit w 43
    stepEnd := bit w 42
    tiers := bits w 41 38
    pfmt := bits w 37 34
    prnd := bits w 33 31
    a := fieldLE b 8 2
    b := fieldLE b 10 2
    b2 := fieldLE b 12 2
    out := fieldLE b 14 2
    aux0 := fieldLE b 16 2
    aux1 := fieldLE b 18 2
    program := fieldLE b 20 2
    func := fieldLE b 22 1
    split0 := fieldLE b 24 2
    split1 := fieldLE b 26 2
    split2 := fieldLE b 28 2
    homeBase := fieldLE b 30 2
    dep := (List.range 4).map (fun i => fieldLE b (32 + 2 * i) 2)
    waitHook := fieldLE b 40 2
    signalHook := fieldLE b 42 2
    stream := fieldLE b 44 4
    mask := fieldLE b 48 8
    stages := (List.range 8).map (fun i => fieldLE b (56 + 8 * i) 8)
    rsvOk := bits w 30 0 == 0 && allZero (slice b 23 1) && allZero (slice b 120 8) }

/-- A lane program (R172). -/
def parseProg (b : List Byte) : LaneProg :=
  let slots := (List.range 8).map (fun i => fieldLE b (16 + 4 * i) 4)
  { length := fieldLE b 0 2
    passes := fieldLE b 2 1
    l := fieldLE b 4 4
    rows := fieldLE b 8 8
    slots := slots
    streamBase := fieldLE b 48 4
    consts := (List.range 64).map (fun i => fieldLE b (64 + 4 * i) 4)
    instrs := (List.range (fieldLE b 0 2)).map (fun i => fieldLE b (320 + 4 * i) 4)
    rsvOk := allZero (slice b 3 1) && allZero (slice b 52 12) && slots.all (fun w => decide (w < 2 ^ 20)) }

/-- The landing declaration (R271). -/
def parseLanding (b : List Byte) : LandingDecl :=
  { every := fieldLE b 0 2
    copy0 := fieldLE b 8 8
    copy1 := fieldLE b 16 8
    copySize := fieldLE b 24 8
    list := (List.range (fieldLE b 2 2)).map (fun i => fieldLE b (64 + 2 * i) 2)
    rsvOk := allZero (slice b 4 4) && allZero (slice b 32 32) }

/-- The resource declaration (R273). -/
def parseResource (b : List Byte) : Resource :=
  { peakSums := fieldLE b 0 2
    hookBase := fieldLE b 2 2
    hookCount := fieldLE b 4 2
    trays := fieldLE b 8 4
    chainBytes := fieldLE b 12 4
    shelfBytes := fieldLE b 16 4
    rsvOk := allZero (slice b 6 2) && allZero (slice b 20 44) }

/-- Header fields that size and place the parts (R256). -/
structure PlanHeader where
  format : Nat
  length : Nat
  tensors : Nat
  records : Nat
  programs : Nat
  tensorOff : Nat
  recordOff : Nat
  programOff : Nat
  landingOff : Nat
  resourceOff : Nat
  deriving DecidableEq, Repr

/-- The header of an image. -/
def parseHeader (b : List Byte) : PlanHeader :=
  ⟨fieldLE b 0 2, fieldLE b 4 4, fieldLE b 16 2, fieldLE b 18 2, fieldLE b 20 2, fieldLE b 24 4, fieldLE b 28 4, fieldLE b 32 4,
    fieldLE b 36 4, fieldLE b 40 4⟩

/-- Offsets of the lane programs (R256). -/
def PlanHeader.progOffs (h : PlanHeader) (b : List Byte) : List Nat :=
  (List.range h.programs).map (fun i => fieldLE b (h.programOff + 4 * i) 4)

/-- Parts of an image, in the order in which R276 takes its items: the item's index and kind, the part's offset and size (R256). The
header, the tensor and record tables and the program directory are of the header item: their counts and offsets stand there. -/
def PlanHeader.parts (h : PlanHeader) (b : List Byte) : List ((Nat × Nat) × Nat × Nat) :=
  [((0, 0), 0, 128), ((0, 0), h.tensorOff, 64 * h.tensors), ((0, 0), h.recordOff, 128 * h.records)]
  ++ (if h.programs = 0 then [] else [((0, 0), h.programOff, 4 * h.programs)])
  ++ (h.progOffs b).mapIdx (fun i o => ((i, 3), o, 320 + 4 * fieldLE b o 2))
  ++ [((0, 5), h.landingOff, 64 + 2 * fieldLE b (h.landingOff + 2) 2), ((0, 6), h.resourceOff, 64)]

/-- Parts in order of their start. -/
def sortParts (l : List (Nat × Nat)) : List (Nat × Nat) := l.foldl (fun acc x => insertByFst x acc) []

/-- The first part that is not on a 64-byte boundary, ends outside the image or overlaps a part `seen` before it (R256). -/
def badPart (n : Nat) : List (Nat × Nat) → List ((Nat × Nat) × Nat × Nat) → Option (Nat × Nat)
  | _, [] => none
  | seen, x :: xs =>
    if x.2.1 % 64 = 0 ∧ x.2.1 + x.2.2 ≤ n ∧ seen.all (fun y => decide (y.1 + y.2 ≤ x.2.1) || decide (x.2.1 + x.2.2 ≤ y.1)) = true
    then badPart n (x.2 :: seen) xs else some x.1

/-- Whether the header's own numbers bound its parts (R256). -/
def PlanHeader.ok (h : PlanHeader) (n packetLength : Nat) : Bool :=
  h.format == 1 && h.length % 64 == 0 && decide (256 ≤ h.length) && decide (h.length ≤ 4 * 2 ^ 20) && h.length == packetLength
    && h.length == n
    && decide (1 ≤ h.tensors) && decide (1 ≤ h.records) && decide (h.records ≤ 32768) && decide (h.programs ≤ 4096)
    && (h.programs != 0 || h.programOff == 0) && decide (h.programOff + 4 * h.programs ≤ n)

/-- Step 1 of R276: what breaks the header and part bounds of R256, its index and its kind. -/
def boundsFault (b : List Byte) (packetLength : Nat) : Option (Nat × Nat) :=
  let h := parseHeader b
  if h.ok b.length packetLength then badPart b.length [] (h.parts b) else some (0, 0)

/-- The plan that an image gives, before page sets and member sets are read from device memory. -/
def parsePlan (b : List Byte) : Plan :=
  let h := parseHeader b
  { cls := fieldLE b 2 1
    imageLength := h.length
    seed := BitVec.ofNat 64 (fieldLE b 8 8)
    homes := fieldLE b 22 2
    tensors := (List.range h.tensors).map (fun i => parseTensor (slice b (h.tensorOff + 64 * i) 64))
    records := (List.range h.records).map (fun i => parseRec (slice b (h.recordOff + 128 * i) 128))
    programs := (h.progOffs b).map (fun o => parseProg (slice b o (320 + 4 * fieldLE b o 2)))
    landing := parseLanding (slice b h.landingOff (64 + 2 * fieldLE b (h.landingOff + 2) 2))
    resource := parseResource (slice b h.resourceOff 64)
    pageSets := []
    memberSets := []
    digest := slice b 64 64
    rsvOk := allZero (slice b 3 1) && allZero (slice b 44 20) }

/-- Whether DIGEST is the digest of the image with bytes 64 to 127 taken as zero (R257). -/
def digestOk (b : List Byte) : Bool := sha512 (patch b 64 (List.replicate 64 0)) == slice b 64 64

/-! ### Order of records -/

/-- Steps of a plan: the records of each (R269). -/
def stepsFrom : List Rec → Nat → List Nat → List (List Nat)
  | [], _, acc => if acc.isEmpty then [] else [acc.reverse]
  | r :: rs, i, acc => if r.stepEnd then (i :: acc).reverse :: stepsFrom rs (i + 1) [] else stepsFrom rs (i + 1) (i :: acc)

/-- The steps of a plan (R269). -/
def Plan.steps (p : Plan) : List (List Nat) := stepsFrom p.records 0 []

/-- Record `i` of a plan. -/
def Plan.record (p : Plan) (i : Nat) : Rec := p.records.getD i Rec.empty

/-- Records that record `i` names in DEP (R262). -/
def Rec.deps (r : Rec) : List Nat := r.dep.filter (· != 0xFFFF)

/-- For each record, every record it comes after through DEP fields (R270). -/
def depClosure : List Rec → List (List Nat) → List (List Nat)
  | [], acc => acc
  | r :: rs, acc => depClosure rs (acc ++ [(r.deps ++ r.deps.flatMap (fun d => acc.getD d [])).eraseDups])

/-- For each record, every record it comes after through DEP fields (R270). -/
def Plan.after (p : Plan) : List (List Nat) := depClosure p.records []

/-! ### Bytes of tensors -/

/-- A range of local bytes as ranges of held bytes: the interleaved view falls on up to 20 tiles (R64). -/
def heldRanges (a n : Nat) : List (Nat × Nat) :=
  if n = 0 then []
  else if isInter a then
    let o := a - interBase
    let g0 := o / 4096
    let g1 := (o + n - 1) / 4096
    (List.range 20).filterMap (fun t =>
      let k0 := (g0 + 19 - t) / 20
      let k1 := (g1 + 20 - t) / 20
      if k1 ≤ k0 then none
      else
        let first := if 20 * k0 + t = g0 then o % 4096 else 0
        let last := if 20 * (k1 - 1) + t = g1 then (o + n - 1) % 4096 + 1 else 4096
        some (t * tileBytes + k0 * 4096 + first, (k1 - 1 - k0) * 4096 + last - first))
  else [(a, n)]

/-- Whether two ranges share a byte. -/
def meets (x y : Nat × Nat) : Bool := decide (x.1 < y.1 + y.2) && decide (y.1 < x.1 + x.2) && x.2 != 0 && y.2 != 0

/-- Whether two lists of ranges share a byte. -/
def anyMeet (xs ys : List (Nat × Nat)) : Bool := xs.any (fun x => ys.any (meets x))

/-- The bytes of a tensor, in a space where shelf areas and other devices have addresses of their own. -/
def Plan.span (s : State) (p : Plan) (i : Nat) : List (Nat × Nat) :=
  let t := p.tensor i
  let dev := domainDevice t.base
  if t.shelf then [(2 ^ 60 + t.base, p.extent i)]
  else
    let off := if isLocal s t.base then 0 else 2 ^ 56 + dev * 2 ^ 42
    (heldRanges (localPart t.base) (p.extent i)).map (fun x => (off + x.1, x.2))

/-- Whether a tensor lies in this device's memory and outside the shelves' areas: neither a shelf tensor nor remote. -/
def Plan.isHere (s : State) (p : Plan) (i : Nat) : Bool := !(p.tensor i).shelf && isLocal s (p.tensor i).base

/-- Whether a tensor's extent touches the control space (R67). -/
def Plan.control (s : State) (p : Plan) (i : Nat) : Bool :=
  p.isHere s i && meets (localPart (p.tensor i).base, p.extent i) (controlBase, 0x10000)

/-- Every tensor the plan writes, and reads. -/
def Plan.written (p : Plan) : List Nat := (p.records.flatMap (recWrites p)).eraseDups
def Plan.readSet (p : Plan) : List Nat := (p.records.flatMap (recReads p)).eraseDups

/-! ### Epilogue and shelf demand -/

/-- M, N and K of a PRODUCT (R451). -/
def Plan.mnk (p : Plan) (r : Rec) : Nat × Nat × Nat :=
  let a := p.tensor r.a
  (a.count / a.dim 0, (p.tensor r.b).dim 1, a.dim 0)

/-- Bits held for a value of a format. -/
def heldBits (code : Nat) : Nat := ((Fmt.ofCode code).map Fmt.width).getD 0

/-- Bytes G and H that the stages of a chain hold, given the format that enters it and N (R147). -/
def chainHolds : List StageWord → Nat → Nat → Nat × Nat
  | [], _, _ => (0, 0)
  | g :: gs, f, n =>
    let t := chainHolds gs g.fmtCode n
    (t.1 + (if g.kind = 4 then 65536 * heldBits f / 8 else 0),
      t.2 + (if g.kind = 7 then 2 * 256 * roundUp 256 n * heldBits f / 8 else 0))

/-- G and H of a record (R147). -/
def Plan.holds (p : Plan) (r : Rec) : Nat × Nat :=
  if r.opcode = 1 then chainHolds (chainOf r.stages) r.pfmt (p.mnk r).2.1 else (0, 0)

/-- Epilogue demand E of a record (R147, R232). -/
def Plan.epilogue (p : Plan) (r : Rec) : Nat :=
  let h := p.holds r
  match r.opcode with
  | 1 => 524288 + h.1 + h.2
  | 2 => if r.geometry.kind = 1 ∧ r.geometry.engine = false then 524288 else 0
  | 7 => 1048576
  | _ => 0

/-- Whether a split issues products of more than one k-chunk (R124). -/
def manyChunks (k f2 q2 : Nat) : Bool := let x := splitRange (ceilDiv k 256) f2 q2; decide (x.1 + 1 < x.2)

/-- Work area of split `j` of a record other than LANE (R275). -/
def Plan.workArea (p : Plan) (r : Rec) (j : Nat) : Nat :=
  let q2 := j % r.split2
  let park := p.cls != 0
  match r.opcode with
  | 1 =>
    let h := p.holds r
    if park && (h.1 + h.2 != 0 || manyChunks (p.mnk r).2.2 r.split2 q2) then 786432 + h.1 + h.2 else 0
  | 2 =>
    let t := p.tensor r.b
    let k := t.dim 0 * t.dim 1 * t.dim 2 * t.dim 3
    if park && r.geometry.kind == 1 && !r.geometry.engine && manyChunks k r.split2 q2 then 786432 else 0
  | 7 =>
    let part := 256 * (attD r + 2) * 4
    part + (if q2 = 0 then 2 * r.split2 * part else 0) + (if park then 786432 else 0)
  | _ => 0

/-- Bytes that the splits of a record take in home `h`. -/
def Plan.homeWork (p : Plan) (f : Rec → Nat → Nat) (h : Nat) (r : Rec) : Nat :=
  ((List.range (recSplits r)).map (fun j => if (j + r.homeBase) % p.homes = h then f r j else 0)).sum

/-- Largest of a list. -/
def maxOf (l : List Nat) : Nat := l.foldl max 0

/-- Bytes of the trays of home `h` (R246). -/
def Plan.trayArea (p : Plan) (h : Nat) : Nat :=
  (p.pageSets.map (fun x => traysBelow p x h x.trayCount * x.trayBytes)).sum

/-- Shelf demand D_h of a plan on home `h` (R275). -/
def Plan.demand (p : Plan) (h : Nat) : Nat :=
  p.resource.shelfBytes + 2 * 2 ^ 20 + p.trayArea h
    + maxOf ((p.records.filter (fun r => r.opcode != 9)).map (p.homeWork p.workArea h))
    + maxOf ((p.records.filter (fun r => r.opcode == 9)).map (p.homeWork (fun _ _ => if p.cls = 0 then 0 else 133184) h))

/-- Bytes kept for home `h` from step to step: its shelf area and its trays. -/
def Plan.keptBytes (p : Plan) (h : Nat) : Nat := p.resource.shelfBytes + p.trayArea h

/-- Loaded plans: their slots and themselves. -/
def State.plans (s : State) : List (Nat × Plan) := s.slots.filterMap (fun x => x.2.plan.map (fun p => (x.1, p)))

/-- Homes of plans with the core that serves each. -/
def homesOf (s : State) (ps : List (Nat × Plan)) : List (Nat × Plan × Nat × Option Nat) :=
  ps.flatMap (fun x => (List.range x.2.homes).map (fun h => (x.1, x.2, h, homeCore s x.2 h)))

/-- Sum over the homes of plans on a core. -/
def coreSum (s : State) (ps : List (Nat × Plan)) (f : Plan → Nat → Nat) (c : Nat) : Nat :=
  ((homesOf s ps).map (fun x => if x.2.2.2 = some c then f x.2.1 x.2.2.1 else 0)).sum

/-- Cores that serve homes of plans. -/
def coresOf (s : State) (ps : List (Nat × Plan)) : List Nat := ((homesOf s ps).filterMap (fun x => x.2.2.2)).eraseDups

end Sys2Proof.Machine
end

