-- ==== Sys2Proof/Machine/Shelves.lean ====
section
/-! DEFINITION. Sys2Proof/Machine/Shelves.lean: where the stewards place the shelf areas and the trays of plans (R246, R260, R266,
notes/assumptions/16.md). -/
namespace Sys2Proof.Machine

/-- The area that a home of a plan keeps on a core: slot, home, plan-area offset and size (notes/assumptions/16.md). -/
structure ShelfArea where
  slot : Nat
  home : Nat
  base : Nat
  size : Nat
  deriving DecidableEq, Repr

/-- Areas on a core, by slot and home. -/
def areasOn (s : State) (c : Nat) : List ShelfArea :=
  ((homesOf s s.plans).filter (fun x => x.2.2.2 == some c)).map (fun x =>
    ⟨x.1, x.2.2.1, (s.slot x.1).shelfBase.getD x.2.2.1 0, x.2.1.keptBytes x.2.2.1⟩)

/-- Work areas of the homes on a core, which end its plan area (R124, R148, R275): what each plan's demand counts beside the areas that its
homes keep. -/
def workOn (s : State) (ps : List (Nat × Plan)) (c : Nat) : Nat :=
  coreSum s ps (fun p h => p.demand h - p.keptBytes h) c

/-- The part of a core's plan area that is left for areas of homes. -/
def seatRoom (s : State) (ps : List (Nat × Plan)) (c : Nat) : Nat := planArea - workOn s ps c

/-- Areas by rising base. -/
def byBase (l : List ShelfArea) : List ShelfArea :=
  (l.foldl (fun acc a => insertByFst (a.base, a) acc) []).map (·.2)

/-- The lowest place below `room` for `n` bytes among areas: the start, or the end of an area. -/
def firstFit (room : Nat) (l : List ShelfArea) (n : Nat) : Option Nat :=
  (sortParts ((0, 0) :: l.map (fun a => (a.base + a.size, 0)))).findSome? (fun x =>
    if x.1 + n ≤ room ∧ l.all (fun a => !meets (x.1, n) (a.base, a.size)) = true then some x.1 else none)

/-- Areas placed one after another in the holes that others leave, or none where a hole is missing or a kept area passes the room. -/
def fitAll (room : Nat) : List ShelfArea → List ShelfArea → Option (List ShelfArea)
  | kept, [] => if kept.all (fun a => decide (a.base + a.size ≤ room)) then some [] else none
  | kept, a :: as =>
    match firstFit room kept a.size with
    | none => none
    | some b => (fitAll room ({ a with base := b } :: kept) as).map ({ a with base := b } :: ·)

/-- Areas one after another from `b`. -/
def stackAreas : List ShelfArea → Nat → List ShelfArea
  | [], _ => []
  | a :: as, b => { a with base := b } :: stackAreas as (b + a.size)

/-- Where the areas of a new plan on core `c` would lie. -/
def newSeats (s : State) (p : Plan) (c : Nat) : List ShelfArea :=
  let kept := byBase (areasOn s c)
  let fresh : List ShelfArea := ((List.range p.homes).filter (fun h => homeCore s p h == some c)).map (fun h => ⟨16, h, 0, p.keptBytes h⟩)
  (fitAll (seatRoom s (s.plans ++ [(16, p)]) c) kept fresh).getD (stackAreas fresh ((kept.map (·.size)).sum))

/-- Plan-area offset of the trays of page set `i` within home `h`, and their bytes. -/
def Plan.trayPart (p : Plan) (i h : Nat) : Nat × Nat :=
  let bytes (y : PageSet) : Nat := traysBelow p y h y.trayCount * y.trayBytes
  (p.resource.shelfBytes + ((p.pageSets.take i).map bytes).sum, ((p.pageSets[i]?).map bytes).getD 0)

/-- Bytes that the trays of page set `i` of a new plan would take (R252). -/
def Plan.trayRanges (s : State) (p : Plan) (i : Nat) : List (Nat × Nat) :=
  (coresOf s [(16, p)]).flatMap (fun c => (newSeats s p c).map (fun a =>
    (shelfBase + c * shelfSlot + a.base + (p.trayPart i a.home).1, (p.trayPart i a.home).2)))

end Sys2Proof.Machine
end

