-- ==== Sys2Proof/Machine/PlanChecks.lean ====
section
/-! DEFINITION. Sys2Proof/Machine/PlanChecks.lean: the load checks of R276, one definition for each item and step: what a
tensor, a record, a lane program, a page set, the landing declaration and the resource declaration must satisfy. -/
namespace Sys2Proof.Machine

/-- Whether a tensor index names a tensor of the plan. -/
def Plan.has (p : Plan) (i : Nat) : Bool := decide (i < p.tensors.length)

/-- Whether a format code is one of those named. -/
def isFmt (code : Nat) (l : List Fmt) : Bool := match Fmt.ofCode code with
  | some f => l.contains f
  | none => false

/-- Formats of a block-scaled tensor, and targets of stochastic rounding (R42, R259). -/
def narrowFmts : List Fmt := [.e4m3, .e5m2, .e2m1]
/-- Formats of stage results and stage operands (R143, R144). -/
def stageFmts : List Fmt := [.fp32, .bf16, .fp16, .e4m3, .e5m2, .e2m1]

/-- A rounding code and its target (R42). -/
def rndOk (code fmtCode : Nat) : Bool := decide (code ≤ 3) || (code == 4 && isFmt fmtCode narrowFmts)

/-! ### Step 3: fields, codes and ranges -/

/-- Records that use a tensor outside a collective (R37). -/
def usesOutside (p : Plan) (i : Nat) (r : Rec) : Bool :=
  match r.opcode with
  | 10 => r.aux0 == i
  | 7 => (recReads p r).contains i || ((recWrites p r).filter (· != attWout r)).contains i || r.out == i
  | _ => (recReads p r ++ recWrites p r).contains i

/-- The reference of a compressed tensor (R92). -/
def refOk (p : Plan) (t : Tensor) : Bool :=
  t.ref == 0xFFFF
  || (t.comp != 0 && p.has t.ref
      && (let u := p.tensor t.ref
          u.size == t.size && ((u.comp == 0 && isFmt u.fmtCode [.bf16]) || (u.comp != 0 && u.ref == 0xFFFF))))

/-- Uses of a tensor by a record other than through word-mode slots, as the scale or reference of a slot's tensor too (R67, R181). -/
def plainUse (p : Plan) (i : Nat) (r : Rec) : Bool :=
  if r.opcode = 9 then
    let g := p.program r
    g.uses.any (fun u => u.2.1 != 3 && slotTensor (g.slots.getD u.1 0) == i && slotUsed (g.slots.getD u.1 0))
      || (List.range 8).any (fun k => slotUsed (g.slots.getD k 0) && slotTensor (g.slots.getD k 0) == i
        && !(g.uses.any (fun u => u.1 == k)))
      || g.slots.any (fun w => slotUsed w && ((withRef p (slotTensor w)).drop 1).contains i)
  else (recReads p r ++ recWrites p r ++ (if r.opcode = 7 ∨ r.opcode = 8 then [recKvset r] else [])
    ++ (if r.opcode = 10 then [r.aux0] else [])).contains i

/-- Whether a store slot of a program names a tensor. -/
def storeSlot (p : Plan) (i : Nat) : Bool :=
  p.programs.any (fun g => g.slots.any (fun w => slotUsed w && slotStore w && slotTensor w == i))

/-- Fields of tensor `i` (R36, R37, R42, R67, R89, R90, R92, R181, R258 to R260). The whole extent of a MANIFEST tensor of this
device is checked here (R100), before the addresses of the others (notes/assumptions/47.md). -/
def tensorFields (s : State) (p : Plan) (i : Nat) : Bool :=
  let t := p.tensor i
  let control := p.control s i
  t.rsvOk && decide (t.fmtCode ≤ 11) && decide (t.comp ≤ 3) && rndOk t.rndCode t.fmtCode
    && t.size.all (fun n => decide (1 ≤ n)) && decide (t.layout ≤ 1) && decide (t.blockDim ≤ 4)
    && (t.scaled || t.blockDim == 0) && (t.comp == 3 || t.capacity == 0)
    && (t.comp == 0 || isFmt t.fmtCode [.bf16]) && refOk p t
    && (!t.scaled || (p.has t.scale && isFmt t.fmtCode narrowFmts && isFmt (p.tensor t.scale).fmtCode [.e8m0]
        && !(p.tensor t.scale).scaled))
    && (t.fmtCode != 11 || p.tensors.any (fun u => u.scale == i))
    && (t.fmtCode != 10 || !p.records.any (usesOutside p i))
    && (t.comp != 3 || !p.written.contains i)
    && (!t.shelf || (!t.sealed && t.comp == 0 && decide (t.base < 2 ^ 40)))
    && (!(control || p.wordMode i) || !p.records.any (plainUse p i))
    && (!p.wordMode i || (t.base % 8 == 0 && t.comp == 0 && !t.scaled))
    && (!(control && storeSlot p i) || !meets (localPart t.base, p.extent i) (controlBase + 0x8000, 8))
    && (t.comp != 3 || !isLocal s t.base || rangeOk s (localPart t.base) (p.extent i))

/-- A mask word of a PRODUCT or of an ATTEND (R134 to R140, R224). -/
def maskOk (p : Plan) (r : Rec) : Bool :=
  let w := r.mask
  let mt := maskTensor w
  let og := maskOrigin w
  let pat := maskPattern w
  let prm := maskParam w
  w == 0
  || (decide (pat ≤ 4) && bits w 57 56 == 0
      && (mt == 0xFFFF || (p.has mt && isFmt (p.tensor mt).fmtCode [if pat = 4 then .int32 else .uint8]))
      && (pat != 4 || mt != 0xFFFF)
      && (og == 0xFFFF || (p.has og && isFmt (p.tensor og).fmtCode [.int32]))
      && (if pat = 2 ∨ pat = 4 then prm != 0 else pat == 3 || prm == 0))

/-- Whether a record's opcode allows a mask target and SKIP_EMPTY (R139, R140). -/
def maskFits (p : Plan) (r : Rec) : Bool :=
  r.mask == 0
  || ((if maskTarget r.mask then r.dataflow == 1 || r.dataflow == 2 else r.dataflow == 0 || r.dataflow == 1)
      && (!maskSkip r.mask || !isFmt (p.tensor r.a).fmtCode [.bf16]))

/-- Whether a stage word's fields fit its kind (R141 to R144, R187, R200). `last` says that it ends the chain. -/
def stageOk (p : Plan) (r : Rec) (w : Nat) (last : Bool) : Bool :=
  let g := stageOf w
  let operand := p.has g.operand && isFmt (p.tensor g.operand).fmtCode stageFmts && (p.tensor g.operand).comp == 0
  bits w 49 48 == 0 && bits w 23 0 == 0 && decide (g.kind ≤ 7)
    && (isFmt g.fmtCode (if g.kind = 3 then [.bf16, .fp16, .e4m3, .e5m2] else stageFmts) || (g.kind == 6 && g.fmtCode == 7))
    && rndOk g.rndCode g.fmtCode && (g.rndCode != 4 || last)
    && (g.kind == 1 || g.kind == 2 || g.bcast == 0)
    && (match g.kind with
        | 1 => operand && g.func == 0
        | 2 => operand && g.func == 0
        | 3 => g.operand == 0xFFFF && sfCodes.contains g.func && (r.tableSet != 2 || sfC12Codes.contains g.func)
        | 4 => g.operand == 0xFFFF && g.func == 0
        | 5 => operand && isFmt (p.tensor g.operand).fmtCode [.fp32] && g.func == 0
        | 6 => g.operand == 0xFFFF && g.func == 0
        | 7 => if g.func = 2 then g.operand == 0xFFFF
               else decide (g.func ≤ 1) && operand && isFmt (p.tensor g.operand).fmtCode [.fp32]
        | _ => false)

/-- A chain: every stage, zeros from its END on, at most one GATE and one ROWSTAT, and the last format (R141 to R144). -/
def chainOk (p : Plan) (r : Rec) (ws : List Nat) : Bool :=
  let n := (chainOf ws).length
  (ws.drop n).all (· == 0)
    && (List.range n).all (fun i => stageOk p r (ws.getD i 0) (i + 1 == n))
    && decide (((chainOf ws).filter (fun g => g.kind == 4)).length ≤ 1)
    && decide (((chainOf ws).filter (fun g => g.kind == 7)).length ≤ 1)
    && (match (chainOf ws).getLast? with
        | none => true
        | some g => g.fmtCode == (p.tensor r.out).fmtCode)

/-- Whether a pair of formats is of integers, and whether it takes the BF16 path (R49, R50). -/
def intPair (p : Plan) (r : Rec) : Bool :=
  isFmt (p.tensor r.a).fmtCode [.int8, .int4] && isFmt (p.tensor r.b).fmtCode [.int8, .int4]

/-- Product format and rounding (R50, R132). -/
def productFmtOk (p : Plan) (r : Rec) (empty : Bool) : Bool :=
  (isFmt r.pfmt stageFmts || (intPair p r && (r.pfmt == 7 || (r.pfmt == 6 && empty))))
    && rndOk r.prnd r.pfmt && (r.prnd != 4 || empty)
    && (!empty || r.pfmt == (p.tensor r.out).fmtCode)

/-- Which fields a record uses: A, B, B2, OUT, AUX0, AUX1 and PROGRAM as required (1), optional (2) or unused (0). -/
def indexUse (r : Rec) : List Nat :=
  match r.opcode with
  | 1 => [1, 1, 2, 1, 0, 0, 0]
  | 2 => [1, if r.geometry.kind = 1 then 1 else 0, 0, 1, 0, 0, 0]
  | 3 => [1, if bits (r.stages.getD 0 0) 63 60 = 4 then 1 else 0, 0, 1, 0, 0, 0]
  | 4 => [1, 0, 0, 1, 1, if r.func = 3 then 3 else 0, 0]
  | 5 => [1, 0, 0, 1, 1, 1, 0]
  | 6 => [1, 0, 0, 1, 1, 0, 0]
  | 7 => [1, 0, 0, 1, 0, 0, 0]
  | 8 => if appMode r = 0 then [1, 1, 0, 0, 0, 0, 0] else [0, 0, 0, 0, 0, 0, 0]
  | 9 => [0, 0, 0, 0, 0, 0, 4]
  | 10 => [1, 0, 0, 1, 2, 3, 0]
  | _ => [1, 0, 0, 1, 0, 0, 0]

/-- Index fields of a record against their use (R262): 3 is a value, 4 a program index. -/
def indexOk (p : Plan) (r : Rec) : Bool :=
  (List.zip (indexUse r) [r.a, r.b, r.b2, r.out, r.aux0, r.aux1, r.program]).all (fun x =>
    match x.1 with
    | 0 => x.2 == 0xFFFF
    | 1 => p.has x.2
    | 2 => x.2 == 0xFFFF || p.has x.2
    | 3 => true
    | _ => decide (x.2 < p.programs.length))

/-- Fields other than indices that a record does not use are 0 (R262, R263). -/
def unusedZero (r : Rec) : Bool :=
  let op := r.opcode
  (op == 4 || op == 5 || r.func == 0) && (op == 6 || r.stream == 0) && (op == 1 || op == 2 || op == 7 || r.mask == 0)
    && ((r.stages.drop (match op with
      | 1 => 8 | 2 => 2 | 3 => 1 | 7 => 2 | 8 => 2 | _ => 0)).all (· == 0))
    && (op == 1 || op == 2 || (op == 8 || r.dataflow == 0)) && (op == 1 || (!r.rowHold && r.prnd == 0))
    && (op == 1 || op == 2 || r.pfmt == 0)
    && (op == 1 || op == 3 || op == 4 || op == 5 || op == 7 || op == 9 || r.tableSet == 0)

/-- Field ranges of the geometry words (R155). -/
def geometryOk (r : Rec) : Bool :=
  let g := r.geometry
  let g1 := r.stages.getD 0 0
  let g2 := r.stages.getD 1 0
  let small (l : List Nat) : Bool := l.all (fun x => decide (1 ≤ x) && decide (x ≤ 64))
  let ones (l : List Nat) : Bool := l.all (· == 1)
  decide (1 ≤ g.kind) && decide (g.kind ≤ 3) && bits r.mask 7 0 == 0 && bits g1 15 0 == 0 && bits g2 15 0 == 0
    && decide (g.view ≤ 3) && decide (1 ≤ g.groups) && small g.kernel && small g.stride && small g.dil
    && (if g.view != 0 || g.kind == 3 then decide (2 ≤ g.ratio) && decide (g.ratio ≤ 8) else g.ratio == 0)
    && (match g.kind with
        | 1 => g.mode == 0
        | 2 => decide (g.mode ≤ 2) && g.groups == 1 && !g.engine && g.view == 0
        | _ => decide (g.mode ≤ 5) && !g.engine && g.view == 0 && g.groups == 1 && ones g.kernel && ones g.stride && ones g.dil
            && (g.pad0 ++ g.pad1).all (· == 0) && ((g.mode != 2 && g.mode != 3) || g.ratio == 2))

/-- The operand pairs of R49. -/
def pairOk (a b : Nat) : Bool :=
  match Fmt.ofCode a, Fmt.ofCode b with
  | some .bf16, some f => [Fmt.bf16, .e4m3, .e5m2, .e2m1, .int8, .int4].contains f
  | some .e4m3, some f => [Fmt.e4m3, .e5m2, .e2m1, .int8, .int4].contains f
  | some .e5m2, some f => [Fmt.e4m3, .e5m2, .e2m1, .int8, .int4].contains f
  | some .e2m1, some f => [Fmt.e4m3, .e5m2, .e2m1, .int8, .int4].contains f
  | some .int8, some f => [Fmt.int8, .int4].contains f
  | some .int4, some f => f == .int4
  | _, _ => false

/-- Whether the block scales of convolution weights run along K (R47, R154): K is dimensions 0 to 3 in flat order, so the blocked
dimension is the one of them that is longer than 1. Where several are, it is dimension 3, the channels, whose scale sizes give R154's 108
blocks; the scale of block j is element j of the output channel's section of the scale tensor (notes/assumptions/48.md). -/
def blockedAlongK (t : Tensor) : Bool :=
  !t.scaled || (match (List.range 4).filter (fun d => decide (1 < t.dim d)) with
    | [] => decide (t.blockDim ≤ 3)
    | [d] => t.blockDim == d
    | _ => t.blockDim == 3)

/-- A WINDOW record's codes and formats (R159, R165, R167). -/
def windowFields (p : Plan) (r : Rec) : Bool :=
  let a := p.tensor r.a
  let o := p.tensor r.out
  let g := r.geometry
  geometryOk r && a.comp == 0 && o.comp == 0
    && (match g.kind with
        | 1 => (p.tensor r.b).comp == 0 && (g.engine || r.dataflow == 0 || r.dataflow == 1) && !o.scaled
            && productFmtOk p r true && pairOk a.fmtCode (p.tensor r.b).fmtCode && blockedAlongK (p.tensor r.b)
        | 2 => isFmt a.fmtCode [.fp32, .bf16, .fp16, .e4m3, .e5m2, .int8, .uint8] && !o.scaled
            && !isFmt o.fmtCode [.wide48, .e8m0] && a.dim 3 == o.dim 3 && a.dim 4 == o.dim 4
        | _ => if g.mode = 2 ∨ g.mode = 3 then isFmt a.fmtCode [.fp32, .bf16, .fp16, .e4m3, .e5m2] else a.fmtCode == o.fmtCode)

/-- The attention words of a record (R220, R224); WOUT is a contribution, as R338 limits one (R235). -/
def attendFields (s : State) (p : Plan) (r : Rec) : Bool :=
  let a0 := r.stages.getD 0 0
  decide (bits a0 63 62 ≤ 2) && bits a0 58 56 == 0 && r.dataflow == 0
    && (if attForm r then p.has (attQmap r) && isFmt (p.tensor (attQmap r)).fmtCode [.int32] && recSeq r == 0
        else attQmap r == 0xFFFF)
    && (if attXdev r then p.has (attWout r) && (let w := p.tensor (attWout r)
          isFmt w.fmtCode [.wide48] && w.comp == 0 && !w.shelf && isLocal s w.base)
        else attWout r == 0xFFFF)
    && maskOk p r && !maskTarget r.mask && !maskSkip r.mask
    && (r.mask == 0 || maskPattern r.mask == 4 || maskTensor r.mask == 0xFFFF)
    && decide (1 ≤ r.split2) && decide (r.split2 ≤ 64)
    && (let o := p.tensor r.out
        if o.scaled then isFmt o.fmtCode [.e4m3] else isFmt o.fmtCode [.fp32, .bf16, .fp16])

/-- Whether the tensor that KVSET names can hold a page-set header (R237): it lies in device memory when the plan is checked, where
a shelf tensor has no place yet (R260, notes/assumptions/47.md). -/
def kvsetOk (p : Plan) (r : Rec) : Bool :=
  p.has (recKvset r) && !(p.tensor (recKvset r)).shelf && isFmt (p.tensor (recKvset r)).fmtCode [.uint8] && (p.tensor (recKvset r)).size == [64, 1, 1, 1, 1]

/-- Page-set tensors of a plan in order of first use (R237, R276). -/
def Plan.kvsets (p : Plan) : List Nat :=
  ((p.records.filter (fun r => (r.opcode == 7 || r.opcode == 8) && kvsetOk p r)).map recKvset).eraseDups

/-- The append words of a record (R245). -/
def appendFields (p : Plan) (r : Rec) : Bool :=
  let p0 := r.stages.getD 0 0
  decide (appMode r ≤ 1) && bits p0 60 48 == 0 && bits p0 15 0 == 0 && bits (r.stages.getD 1 0) 63 32 == 0
    && (if appForm r then p.has (appTmap r) && isFmt (p.tensor (appTmap r)).fmtCode [.int32] && recSeq r == 0
        else appTmap r == 0xFFFF)
    && (appMode r != 0 || (isFmt (p.tensor r.a).fmtCode [.bf16] && isFmt (p.tensor r.b).fmtCode [.bf16]))
    && (match p.pageSet r with
        | some x => x.trays != 0
        | none => true)

/-- Lane opcodes that only the lane convolution path uses (R175). -/
def usesXmac (g : LaneProg) : Bool := g.instrs.any (fun w => bits w 31 24 == 0x2C || bits w 31 24 == 0x2D)

/-- The member set of a SUM: every number of the domain table, a product of groups and positions, this device in it (R339). -/
def memberSetOk (s : State) (m : MemberSet) : Bool :=
  let l := m.members
  let me := deviceNumber s
  l.contains me && (List.zip l l.tail).all (fun x => decide (x.1 < x.2))
    && (match s.member with
        | none => l == [0xFFF]
        | some d =>
          let ix := l.map (fun n => d.devices.findIdx? (· == n))
          ix.all Option.isSome
            && (let js := ix.filterMap id
                let gs := (js.map (· / d.members)).eraseDups
                let ps := (js.map (· % d.members)).eraseDups
                gs.all (fun g => ps.all (fun q => js.contains (g * d.members + q)))))

/-- Fields of a SUM record (R338). -/
def sumFields (s : State) (p : Plan) (r : Rec) : Bool :=
  let ok (i : Nat) : Bool := let t := p.tensor i
    isFmt t.fmtCode [.fp32, .bf16, .wide48] && t.comp == 0 && !t.shelf && !t.scaled && isLocal s t.base
  ok r.a && ok r.out && decide ((p.tensor r.out).rndCode ≤ 3)
    && (r.aux0 == 0xFFFF || (isFmt (p.tensor r.aux0).fmtCode [.int32] && (p.tensor r.aux0).comp == 0 && !(p.tensor r.aux0).shelf
        && (match p.memberSets.find? (fun m => m.tensor == r.aux0) with
            | some m => memberSetOk s m
            | none => true)))

/-- What an opcode requires of its own fields. -/
def opcodeFields (s : State) (p : Plan) (r : Rec) : Bool :=
  let fmtOf (i : Nat) (l : List Fmt) : Bool := isFmt (p.tensor i).fmtCode l
  match r.opcode with
  | 1 =>
    let gs := chainOf r.stages
    let gate := gs.any (fun g => g.kind == 4)
    productFmtOk p r gs.isEmpty && maskOk p r && maskFits p r && chainOk p r r.stages
      && (gate == (r.b2 != 0xFFFF)) && (r.b2 == 0xFFFF || r.dataflow == 0)
  | 2 => windowFields p r
  | 3 =>
    let g := stageOf (r.stages.getD 0 0)
    g.kind != 0 && g.kind != 7 && stageOk p r (r.stages.getD 0 0) true && g.fmtCode == (p.tensor r.out).fmtCode
  | 4 => decide (r.func ≤ 3) && fmtOf r.a [.fp32, .bf16, .fp16, .e4m3, .e5m2] && fmtOf r.out stageFmts && fmtOf r.aux0 [.fp32]
      && (r.func != 3 || r.aux1 != 0)
  | 5 => decide (r.func ≤ 1) && fmtOf r.a [.fp32, .bf16, .fp16] && fmtOf r.aux0 [.int32] && fmtOf r.aux1 [.int32]
      && fmtOf r.out stageFmts && !(p.tensor r.out).scaled
  | 6 => fmtOf r.a [.fp32, .bf16, .fp16] && fmtOf r.aux0 [.fp32]
  | 7 => kvsetOk p r && attendFields s p r
  | 8 => kvsetOk p r && appendFields p r
  | 9 => !usesXmac (p.program r)
      && (r.tableSet != 2 || (p.program r).instrs.all (fun w => bits w 31 24 != 0x50 || sfC12Codes.contains (bits w 11 6)))
  | 10 => sumFields s p r
  | _ => true

/-- Whether two records touch the same byte, one of them writing it (R270). -/
def conflict (s : State) (p : Plan) (a b : Rec) : Bool :=
  let sp (l : List Nat) : List (Nat × Nat) := l.flatMap (p.span s)
  let wa := sp (recWrites p a)
  let wb := sp (recWrites p b)
  anyMeet wa (wb ++ sp (recReads p b)) || anyMeet wb (sp (recReads p a))

/-- Step index of a record. -/
def Plan.stepOf (p : Plan) (r : Nat) : Nat := (p.steps.findIdx? (·.contains r)).getD 0

/-- Fields of record `i` (R262 to R264, R270). The dataflow of a CONV with ENGINE = 1 is ignored (R163). -/
def recordFields (s : State) (p : Plan) (i : Nat) : Bool :=
  let r := p.record i
  r.rsvOk && decide (1 ≤ r.opcode) && decide (r.opcode ≤ 11) && r.tiers != 0 && decide (r.tableSet ≤ 2)
    && (r.opcode == 8 || (r.opcode == 2 && r.geometry.kind == 1 && r.geometry.engine) || decide (r.dataflow ≤ 2))
    && decide (1 ≤ r.split0) && decide (1 ≤ r.split1) && decide (1 ≤ r.split2) && decide (recSplits r ≤ 16384)
    && r.deps.all (fun d => decide (d < i))
    && indexOk p r && unusedZero r && opcodeFields s p r
    && (let before := p.after.getD i []
        ((p.steps.getD (p.stepOf i) []).filter (fun j => decide (j < i))).all (fun j =>
          before.contains j || !conflict s p (p.record j) r))

/-- Which of D, A, B, C an opcode uses as an operand or sub-field (R173, R174). -/
def laneUses (op : Nat) : Option (Bool × Bool × Bool × Bool) :=
  if op ∈ [0x00, 0xF0, 0xFF] then some (false, false, false, false)
  else if op ∈ [0x01, 0x03, 0x60] then some (true, false, false, true)
  else if op ∈ [0x02, 0x16, 0x17, 0x2D, 0x70, 0x71, 0x72, 0x73] then some (true, true, false, false)
  else if op ∈ [0x10, 0x11, 0x12, 0x14, 0x15, 0x18, 0x19, 0x20, 0x21, 0x22, 0x23, 0x24, 0x25, 0x26, 0x27, 0x28, 0x29, 0x2A,
      0x2B, 0x2C, 0x30, 0x31, 0x32, 0x33, 0x34] then some (true, true, true, false)
  else if op ∈ [0x13, 0x1A, 0x35, 0x40, 0x50, 0x58] then some (true, true, true, true)
  else if op = 0x61 then some (false, true, false, true)
  else none

/-- Whether a stream mode fits its slot's tensor (R67, R181). -/
def modeOk (s : State) (p : Plan) (i mode : Nat) (store : Bool) : Bool :=
  let t := p.tensor i
  match mode with
  | 0 => !p.control s i
  | 1 => !p.control s i
  | 2 => !p.control s i && isFmt t.fmtCode [.int8, .int4, .uint8, .int32]
  | 3 => t.base % 8 == 0 && t.comp == 0 && !t.scaled
  | 4 => !p.control s i && !store && t.scaled
  | _ => false

/-- Registers that an instruction writes. -/
def laneDests (w : Nat) : List Nat :=
  let op := bits w 31 24
  let d := bits w 23 18
  match laneUses op with
  | some (true, _) =>
    if op = 0x2C then [d, d + 1, d + 2]
    else if op = 0x73 ∨ (op = 0x58 ∧ bits w 11 8 = 0) ∨ (op = 0x60 ∧ bits w 2 0 = 3) then [d, d + 1] else [d]
  | _ => []

/-- Whether an opcode is a reduction (R179). -/
def isReduce (w : Nat) : Bool := decide (0x70 ≤ bits w 31 24) && decide (bits w 31 24 ≤ 0x73)

/-- One instruction of a program (R171 to R181). -/
def instrOk (s : State) (p : Plan) (g : LaneProg) (w : Nat) : Bool :=
  let op := bits w 31 24
  let a := bits w 17 12
  let b := bits w 11 6
  let c := bits w 5 0
  (match laneUses op with
   | none => false
   | some (ud, ua, ub, uc) => (ud || bits w 23 18 == 0) && (ua || a == 0) && (ub || b == 0) && (uc || c == 0))
    && (laneDests w).all (fun d => if isReduce w then decide (48 ≤ d) && decide (d ≤ 63) else decide (d < 48))
    && (match op with
        | 0x03 => decide (c ≤ 4)
        | 0x2D => decide (a + 2 < 48) || (decide (48 ≤ a) && decide (a + 2 < 64))
        | 0x40 => (cvtFmt (bits b 5 2)).isSome && (cvtFmt (bits c 5 2)).isSome && rndOk (b % 4 * 2 + c / 2 % 2) (bits c 5 2)
        | 0x50 => sfCodes.contains b && (sfnIn c).isSome && (sfnOut c).isSome
        | 0x58 => decide (bits b 5 2 ≤ 4) && bits b 1 0 == 0 && (bits b 5 2 == 2 || a == 0)
        | 0x60 => let sw := g.slots.getD (bits c 5 3) 0
          slotUsed sw && !slotStore sw && modeOk s p (slotTensor sw) (bits c 2 0) false
        | 0x61 => let sw := g.slots.getD (bits c 5 3) 0
          slotUsed sw && slotStore sw && modeOk s p (slotTensor sw) (bits c 2 0) true && (bits c 2 0 != 3 || a != 63)
        | _ => true)

/-- Instructions of each pass. -/
def passesFrom : List Nat → List Nat → List (List Nat)
  | [], acc => [acc.reverse]
  | w :: ws, acc => if bits w 31 24 = 0xF0 then (w :: acc).reverse :: passesFrom ws [] else passesFrom ws (w :: acc)

/-- Whether a list names nothing twice. -/
def distinct (l : List Nat) : Bool := l.length == l.eraseDups.length

/-- One pass: at most 4 reductions, on registers of their own, and one ST for each slot (R171, R179, R181). -/
def passOk (ws : List Nat) : Bool :=
  decide ((ws.filter isReduce).length ≤ 4) && distinct ((ws.filter isReduce).flatMap laneDests)
    && distinct ((ws.filter (fun w => bits w 31 24 == 0x61)).map (fun w => bits w 5 3))

/-- Fields of lane program `i` (R171 to R181).
DESIGN CHOICE (notes/assumptions/51.md): ROWS = 2^40 is taken, though its bit 40 is one of the bits that R172 wants 0. -/
def programFields (s : State) (p : Plan) (i : Nat) : Bool :=
  let g := p.programs.getD i ⟨0, 0, 1, 0, [], 0, [], [], true⟩
  g.rsvOk && decide (1 ≤ g.length) && decide (g.length ≤ 256) && decide (1 ≤ g.passes) && decide (g.passes ≤ 4)
    && g.passes == (g.instrs.filter (fun w => bits w 31 24 == 0xF0)).length + 1
    && decide (1 ≤ g.l) && decide (g.l ≤ 2 ^ 24) && decide (1 ≤ g.rows) && decide (g.rows ≤ 2 ^ 40)
    && (g.instrs.getLast?.map (fun w => bits w 31 24)) == some 0xFF
    && g.instrs.dropLast.all (fun w => bits w 31 24 != 0xFF)
    && g.slots.all (fun w => !slotUsed w
        || (p.has (slotTensor w) && slotBcast w != 2
            && (!slotStore w || (slotBcast w == 0
              && (!(p.tensor (slotTensor w)).scaled || (p.tensor (slotTensor w)).blockDim == 0)))))
    && g.instrs.all (instrOk s p g) && (passesFrom g.instrs []).all passOk

/-- Fields of page set `i` (R237, R252). -/
def pageSetFields (p : Plan) (i : Nat) : Bool :=
  match p.pageSets[i]? with
  | none => true
  | some x =>
    let code (c : Nat) : Bool := c == 3 || c == 5 || c == 7 || c == 8
    x.rsvOk && x.format == 1 && decide (x.dhead ≤ 2) && code x.kfmt && code x.vfmt
      && decide (x.rnd < 64) && decide (x.rnd % 8 ≤ 3) && decide (x.rnd / 8 ≤ 3)
      && decide (1 ≤ x.hg) && decide (x.hg ≤ 256) && decide (1 ≤ x.seqs) && decide (x.seqs ≤ 2 ^ 20)
      && decide (1 ≤ x.maxPages) && decide (x.maxPages ≤ 2 ^ 24) && p.has x.seqtab && p.has x.ptab && p.has x.pool
      && decide (x.trays ≤ 1) && decide (1 ≤ x.slots) && decide (x.slots ≤ 2 ^ 32 - 1)
      && (if x.trays = 0 then x.holders == 0 else decide (1 ≤ x.holders) && decide (x.holders ≤ 240))

/-- Whether a tensor that a step reads before any write of the same step is listed (R387). -/
def landingListed (p : Plan) : Bool :=
  let pools := p.pageSets.map (·.pool)
  (List.range p.records.length).all (fun i =>
    let before := (p.after.getD i []).filter (fun j => p.stepOf j == p.stepOf i)
    (recReads p (p.record i)).all (fun t =>
      p.landing.list.contains t || (p.tensor t).shelf || pools.contains t || !p.written.contains t
        || before.any (fun j => (recWrites p (p.record j)).contains t)))

/-- The landing declaration (R109, R253, R260, R271, R272, R387).
DESIGN CHOICE (notes/assumptions/51.md): a list that names the tensor of a pool is taken, and its bytes land and come back with the
others; R253 says that pages are no part of a landing and refuses nothing. -/
def landingFields (p : Plan) : Bool :=
  let l := p.landing
  l.rsvOk
  && (l.every == 0
    || (decide (l.list.length ≤ 4096) && l.list.all p.has && l.copy0 % 65536 == 0 && l.copy1 % 65536 == 0
        && l.copySize % 65536 == 0 && decide (l.copy0 < 2 ^ 40) && decide (l.copy1 < 2 ^ 40)
        && l.list.all (fun t => !(p.tensor t).shelf)
        && l.list.all (fun t => let u := p.tensor t
            u.comp == 0 || u.ref == 0xFFFF || !p.written.contains u.ref || l.list.contains u.ref)
        && p.records.all (fun r => r.opcode != 8 || (match p.pageSet r with
            | some x => l.list.contains x.seqtab
            | none => true))
        && landingListed p))

/-- The resource declaration (R273). -/
def resourceFields (p : Plan) : Bool :=
  let r := p.resource
  r.rsvOk && decide (r.peakSums ≤ 64) && decide (r.hookCount ≤ 4032) && decide (r.chainBytes ≤ 4194304) && r.shelfBytes % 512 == 0

/-- Header fields of step 3 (R256). -/
def headerFields (p : Plan) : Bool := p.rsvOk && decide (p.cls ≤ 3) && decide (1 ≤ p.homes) && decide (p.homes ≤ 240)

/-! ### Step 4: addresses -/

/-- Tensors that something other than a MOVE names: records, page sets, and references of what they name (R261). -/
def Plan.usedOutsideMove (p : Plan) : List Nat :=
  (p.records.filter (fun r => r.opcode != 11)).flatMap (fun r => recReads p r ++ recWrites p r
    ++ (if r.opcode = 7 ∨ r.opcode = 8 then [recKvset r] else []) ++ (if r.opcode = 10 then [r.aux0] else []))

/-- Address of tensor `i` (R62, R67, R68, R260, R261).
DESIGN CHOICE (notes/assumptions/16.md): a descriptor without SHELF whose BASE lies in a shelf slot of a good core is taken as an
address; R16 says that plans name no physical slots, and the refusals of R62 do not name the case. -/
def tensorAddress (s : State) (p : Plan) (i : Nat) : Bool :=
  let t := p.tensor i
  if t.shelf then decide (t.base + p.extent i ≤ p.resource.shelfBytes)
  else if isLocal s t.base then
    let a := localPart t.base
    rangeOk s a (p.extent i) || (decide (controlBase ≤ a) && decide (a + p.extent i ≤ controlBase + 0x8008))
  else s.member.isSome && !p.usedOutsideMove.contains i

/-- No listed tensor lies on another device (R261). -/
def landingAddress (s : State) (p : Plan) : Bool :=
  p.landing.every == 0 || p.landing.list.all (fun i => p.isHere s i)

/-! ### Step 5: sealing -/

/-- Regions with their table index. -/
def State.regionList (s : State) : List Region := s.regions.filterMap (·.2)

/-- The region that holds every byte of some ranges. -/
def regionOver (s : State) (rs : List (Nat × Nat)) : Option Region :=
  s.regionList.find? (fun g => rs.all (fun x => decide (g.base ≤ x.1) && decide (x.1 + x.2 ≤ g.base + g.size)))

/-- Held ranges of a tensor of this device. -/
def Plan.held (p : Plan) (i : Nat) : List (Nat × Nat) := heldRanges (localPart (p.tensor i).base) (p.extent i)

/-- Whether ranges touch any sealed region. -/
def touchesRegion (s : State) (rs : List (Nat × Nat)) : Bool := s.regionList.any (fun g => anyMeet rs [(g.base, g.size)])

/-- Whether the plan reads a sealed tensor, of this device or of another (R82). -/
def Plan.readsSealed (p : Plan) : Bool := p.readSet.any (fun i => (p.tensor i).sealed)

/-- Written tensors of this device that lie in cellars or hub SRAM (R82). -/
def Plan.stored (s : State) (p : Plan) : List Nat :=
  p.written.filter (fun i => p.isHere s i && !p.control s i && (shelfCore (localPart (p.tensor i).base)).isNone)

/-- Copy areas of a plan that takes landings. -/
def Plan.copies (p : Plan) : List (Nat × Nat) :=
  if p.landing.every = 0 then [] else [(p.landing.copy0, p.landing.copySize), (p.landing.copy1, p.landing.copySize)]

/-- Key slots that hold a key, ascending. -/
def keySlots (s : State) : List Nat := (List.range 64).filter (fun i => (s.key i).isSome)

/-- Key slots of the sealed tensors that the plan reads (R82). Where it reads sealed tensors of other devices alone, this device does
not see their key: it is the slot of the first region that the plan writes or lands in, else the first that holds a key
(notes/assumptions/47.md). -/
def Plan.keys (s : State) (p : Plan) : List Nat :=
  let here := p.readSet.filter (fun i => (p.tensor i).sealed && p.isHere s i)
  let regions : List (List (Nat × Nat)) :=
    if !here.isEmpty then here.map p.held
    else if p.readsSealed then (p.stored s).map p.held ++ p.copies.map (fun x => [x]) else []
  let l := (regions.filterMap (fun x => (regionOver s x).map (·.key))).eraseDups
  if !here.isEmpty then l else if p.readsSealed && l.isEmpty then (keySlots s).take 1 else l.take 1

/-- Whether bytes that a plan writes lie where R82 lets it write: inside one region of its key slot, if it reads sealed data. -/
def Plan.mayStore (s : State) (p : Plan) (rs : List (Nat × Nat)) : Bool :=
  !p.readsSealed || (regionOver s rs).any (fun g => (p.keys s).all (· == g.key))

/-- Sealing of tensor `i` (R82). -/
def tensorSealing (s : State) (p : Plan) (i : Nat) : Bool :=
  !p.isHere s i
  || ((if (p.tensor i).sealed then (regionOver s (p.held i)).isSome else !touchesRegion s (p.held i))
      && (!(p.stored s).contains i || p.mayStore s (p.held i)))

/-- Sealing of the landing space (R82). -/
def landingSealing (s : State) (p : Plan) : Bool := p.copies.all (fun x => p.mayStore s [x])

/-! ### Step 6: shapes -/

/-- Whether some integer from `lo` on, among `n`, satisfies a test. -/
def anyFrom (f : Int → Bool) : Nat → Int → Bool
  | 0, _ => false
  | n + 1, lo => f lo || anyFrom f n (lo + 1)

/-- Whether index differences within their bounds give offset `t`, not all of them 0 where `nz` (R259). -/
def sameOffset : List (Nat × Nat) → Int → Bool → Bool
  | [], t, nz => t == 0 && !nz
  | (st, m) :: rest, t, nz =>
    let span : Int := Int.ofNat ((rest.map (fun x => x.1 * x.2)).sum)
    let lo := max (-(Int.ofNat m)) (-((span - t) / Int.ofNat st))
    let hi := min (Int.ofNat m) ((t + span) / Int.ofNat st)
    anyFrom (fun d => sameOffset rest (t - d * Int.ofNat st) (nz && d == 0)) (hi - lo + 1).toNat lo

/-- Whether strides nest: each exceeds the span of those below it. -/
def nested : List (Nat × Nat) → Bool
  | [] => true
  | (st, _) :: rest => decide ((rest.map (fun x => x.1 * x.2)).sum < st) && nested rest

/-- Whether a tensor reaches no element through two index tuples (R259). -/
def Tensor.injective (t : Tensor) : Bool :=
  let ds := t.steps
  ds.all (fun x => x.1 != 0) && (nested ds || !sameOffset ds 0 true)

/-- Strides of a densely packed tensor (R90). -/
def denseStrides (size : List Nat) : List Nat := (List.range 5).map (fun d => (size.take d).foldl (· * ·) 1)

/-- Whether strides are dense where they matter: a dimension of size 1 is never stepped. -/
def Tensor.dense (t : Tensor) : Bool :=
  (List.range 5).all (fun d => t.dim d == 1 || t.stride.getD d 0 == (denseStrides t.size).getD d 0)

/-- Tensors that the sieve gathers: block scales, page tables, page lists, and the offset tables of manifests (R73). -/
def Plan.gathered (p : Plan) : List Nat :=
  ((p.tensors.filter Tensor.scaled).map (·.scale) ++ p.pageSets.map (·.ptab)
    ++ (p.records.filter (fun r => (r.opcode == 1 || r.opcode == 7) && r.mask != 0 && maskPattern r.mask == 4)).map (fun r => maskTensor r.mask)
    ++ (List.range p.tensors.length).filter (fun i => (p.tensor i).comp == 3)).eraseDups

/-- Whether the sieve's 32-byte sectors of tensor `i` are aligned: its items lie 32-byte aligned where it starts so (R73,
notes/assumptions/47.md). A longer gather takes several lists of up to 4,096 sectors. -/
def sectorsAligned (s : State) (p : Plan) (i : Nat) : Bool :=
  let a := localPart (p.tensor i).base
  !p.isHere s i || !(p.gathered.contains i) || !(decide (a < cellarEnd) || isInter a) || a % 32 == 0

/-- Sizes of the scale tensor of a data tensor (R47, R259). -/
def scaleSizes (t : Tensor) : List Nat := t.size.set t.blockDim (ceilDiv (t.dim t.blockDim) 32)

/-- Sizes and strides of tensor `i` (R39, R73, R90, R259). -/
def tensorShape (s : State) (p : Plan) (i : Nat) : Bool :=
  let t := p.tensor i
  decide (t.count ≤ 2 ^ 40) && (!p.written.contains i || t.injective)
    && (!t.scaled || (p.tensor t.scale).size == scaleSizes t)
    && (t.fmt.width != 4 || t.stride.tail.all (· % 2 == 0))
    && (t.comp == 0 || t.dense) && sectorsAligned s p i

/-- Strides of a planar tensor of a window operation (R153). -/
def planarOk (t : Tensor) : Bool :=
  t.stride.getD 0 0 == 1 && t.stride.getD 1 0 == t.dim 0 && t.stride.getD 2 0 == t.dim 0 * t.dim 1

/-- Output extent of a window (R156); none where no window fits. -/
def windowExtent (i k st d p0 p1 : Nat) : Option Nat :=
  if i + p0 + p1 < d * (k - 1) + 1 then none else some ((i + p0 + p1 - (d * (k - 1) + 1)) / st + 1)

/-- Whether every window of a dimension holds a stored position (R165). -/
def windowsStored (i o k st d p0 : Nat) : Bool :=
  (List.range o).all (fun x => (List.range k).any (fun j => let y := x * st + j * d; decide (p0 ≤ y) && decide (y < p0 + i)))

/-- Shapes of a WINDOW record (R153 to R168). -/
def windowShape (p : Plan) (r : Rec) : Bool :=
  let g := r.geometry
  let a := p.tensor r.a
  let o := p.tensor r.out
  let v := viewDims (if g.kind = 3 then 0 else g.view) g.ratio a.size
  let three (f : Nat → Bool) : Bool := f 0 && f 1 && f 2
  let ext (d : Nat) : Bool := windowExtent (v.getD d 1) (g.kernel.getD d 1) (g.stride.getD d 1) (g.dil.getD d 1)
    (g.pad0.getD d 0) (g.pad1.getD d 0) == some (o.dim d)
  let divides (view : Nat) : Bool := match view with
    | 1 => a.dim 3 % (g.ratio * g.ratio) == 0
    | 2 => a.dim 0 % g.ratio == 0 && a.dim 1 % g.ratio == 0
    | _ => true
  planarOk a && planarOk o
    && (match g.kind with
        | 1 =>
          let b := p.tensor r.b
          planarOk b && !a.scaled && divides g.view && three ext
            && three (fun d => let m := g.dil.getD d 1 * (g.kernel.getD d 1 - 1)
              decide (g.pad0.getD d 0 ≤ m) && decide (g.pad1.getD d 0 ≤ m) && b.dim d == g.kernel.getD d 1)
            && v.getD 3 1 == g.groups * b.dim 3 && b.dim 4 == o.dim 3 && o.dim 3 % g.groups == 0 && a.dim 4 == o.dim 4
            && (isFmt a.fmtCode [.bf16] || decide (b.dim 0 * b.dim 1 * b.dim 2 * b.dim 3 ≤ 2 ^ 20))
        | 2 => three ext
            && three (fun d => windowsStored (a.dim d) (o.dim d) (g.kernel.getD d 1) (g.stride.getD d 1) (g.dil.getD d 1)
              (g.pad0.getD d 0))
        | _ =>
          let n := g.ratio
          o.size == (match g.mode with
            | 0 => [a.dim 0 * n, a.dim 1 * n, a.dim 2, a.dim 3, a.dim 4]
            | 1 => [a.dim 0 / n, a.dim 1 / n, a.dim 2, a.dim 3, a.dim 4]
            | 2 => [a.dim 0 * 2, a.dim 1 * 2, a.dim 2, a.dim 3, a.dim 4]
            | 3 => [a.dim 0 / 2, a.dim 1 / 2, a.dim 2, a.dim 3, a.dim 4]
            | 4 => viewDims 1 n a.size
            | _ => viewDims 2 n a.size)
          && divides (if g.mode = 4 then 1 else if g.mode = 5 then 2 else 0))

/-- Sizes of a stage operand against OUT (R144). -/
def operandShape (p : Plan) (out : Tensor) (g : StageWord) : Bool :=
  let z := (p.tensor g.operand).size
  match g.kind with
  | 1 | 2 => z == (match g.bcast with
      | 0 => out.size
      | 1 => out.size.set 0 1
      | 2 => [out.dim 0, 1, 1, 1, 1]
      | _ => [1, 1, 1, 1, 1])
  | 5 => z == [2, 1, 1, 1, 1]
  | 7 => g.func == 2 || z == [1, 1, 1, 1, 1]
  | _ => true

/-- Shapes of a PRODUCT record (R47, R52, R134, R137, R451). -/
def productShape (p : Plan) (r : Rec) : Bool :=
  let a := p.tensor r.a
  let o := p.tensor r.out
  let (m, n, k) := p.mnk r
  let held (i : Nat) : Bool := let b := p.tensor i
    b.size == [k, n, 1, 1, 1] && (!b.scaled || b.blockDim == 0)
  let lines := if maskTarget r.mask then n else m
  held r.b && (r.b2 == 0xFFFF || held r.b2) && (!a.scaled || a.blockDim == 0)
    && o.size == a.size.set 0 n
    && (isFmt a.fmtCode [.bf16] || decide (k ≤ 2 ^ 20))
    && (r.mask == 0
      || ((maskOrigin r.mask == 0xFFFF || (p.tensor (maskOrigin r.mask)).count == 2)
          && (maskPattern r.mask == 4 || maskTensor r.mask == 0xFFFF
            || (let t := p.tensor (maskTensor r.mask)
                t.size == [ceilDiv k 8, lines, 1, 1, 1] && t.dense))))
    && (chainOf r.stages).all (operandShape p o)

/-- Tokens of an ATTEND record (R221). -/
def attTokens (p : Plan) (r : Rec) : Nat := ceilDiv ((p.tensor r.a).dim 1) (attHpg r)

/-- Query blocks of an ATTEND record (R225). -/
def attBlocks (p : Plan) (r : Rec) : Nat :=
  if attForm r then attTokens p r else ceilDiv ((p.tensor r.a).dim 1) 256

/-- Shapes of an ATTEND record (R221, R226). -/
def attendShape (p : Plan) (r : Rec) : Bool :=
  let q := p.tensor r.a
  let o := p.tensor r.out
  let d := attD r
  match p.pageSet r with
  | none => true
  | some x =>
    q.size == [d, q.dim 1, x.hg, 1, 1] && o.size == q.size && x.d == d && r.split0 == x.hg
      && (!q.scaled || q.blockDim == 0) && (!o.scaled || o.blockDim == 0)
      && (!attXdev r || (p.tensor (attWout r)).size == [d + 1, q.dim 1, x.hg, 1, 1])
      && (!attForm r || ((p.tensor (attQmap r)).size == [2, attTokens p r, 1, 1, 1]
          && decide (ceilDiv (attTokens p r) r.split1 ≤ 256)))
      && (r.mask == 0 || maskOrigin r.mask == 0xFFFF || (p.tensor (maskOrigin r.mask)).count == 2)

/-- Shapes of an APPEND record (R245, R249). -/
def appendShape (p : Plan) (r : Rec) : Bool :=
  match p.pageSet r with
  | none => true
  | some x =>
    let a := p.tensor r.a
    let tm := p.tensor (appTmap r)
    (appMode r != 0 || (a.size == [x.d, a.dim 1, x.hg, 1, 1] && (p.tensor r.b).size == a.size))
      && (!appForm r || tm.size == [2, if appMode r = 0 then a.dim 1 else tm.dim 1, 1, 1, 1])

/-- Shapes of a SUM record (R338, R339). -/
def sumShape (p : Plan) (r : Rec) : Bool :=
  let a := p.tensor r.a
  let o := p.tensor r.out
  decide (a.dim 4 ≤ 32) && decide (a.count / a.dim 4 ≤ 2 ^ 32 - 1) && o.size == a.size.set 4 1
    && (r.aux0 == 0xFFFF
      || (let t := p.tensor r.aux0
          t.size == [t.dim 0, 1, 1, 1, 1] && decide (t.dim 0 ≤ 512) && decide (t.dim 0 * a.dim 4 ≤ 2 ^ 14)))

/-- What SPLIT0, SPLIT1 and SPLIT2 divide (R263, R264); none where the number of units is not known at load. -/
def splitUnits (p : Plan) (r : Rec) : List (Option Nat) :=
  let a := p.tensor r.a
  let o := p.tensor r.out
  match r.opcode with
  | 1 => let x := p.mnk r; [some x.1, some x.2.1, some (ceilDiv x.2.2 256)]
  | 2 =>
    let m := o.dim 0 * o.dim 1 * o.dim 2 * o.dim 4
    let b := p.tensor r.b
    if r.geometry.kind = 1 then [some m, some r.geometry.groups, some (ceilDiv (b.dim 0 * b.dim 1 * b.dim 2 * b.dim 3) 256)]
    else [some m, some 1, some 1]
  | 3 => [some (ceilDiv a.count 512), some 1, some 1]
  | 4 => [some (if r.func = 3 then a.dim 4 * r.aux1 else a.count / a.dim 0), some 1, some 1]
  | 5 => [some (a.count / a.dim 0), some 1, some 1]
  | 6 => [some (a.count / a.dim 0), some 1, some 1]
  | 7 => [none, some (attBlocks p r), none]
  | 8 => [none, (p.pageSet r).map (·.hg), some 1]
  | 9 => [some (p.program r).rows, some 1, some 1]
  | 10 => [some 1, some 1, some 1]
  | _ => [some (ceilDiv a.count 512), some 1, some 1]

/-- Whether a flat index starts a crate of a tensor or ends the tensor (R90). -/
def crateEdge (t : Tensor) (f : Nat) : Bool := f % 512 == 0 || f == t.count

/-- Whether every split of a record covers whole crates of each compressed tensor it writes (R90). -/
def crateSplits (p : Plan) (r : Rec) : Bool :=
  let edges (t : Tensor) (rows len : Nat) : Bool :=
    (List.range (r.split0 + 1)).all (fun q => crateEdge t (q * rows / r.split0 * len))
  ((recWrites p r).filter (fun i => (p.tensor i).comp != 0)).all (fun i =>
    let t := p.tensor i
    match r.opcode with
    | 1 =>
      let x := p.mnk r
      if r.split1 = 1 then edges t x.1 x.2.1
      else (List.range x.1).all (fun m => (List.range (r.split1 + 1)).all (fun q => crateEdge t (m * x.2.1 + q * x.2.1 / r.split1)))
    | 4 => if r.func = 3 then edges t (t.dim 4 * r.aux1) (t.dim 0 * t.dim 1 * t.dim 2 * (t.dim 3 / r.aux1))
           else edges t (t.count / t.dim 0) (t.dim 0)
    | 5 => edges t (t.count / t.dim 0) (t.dim 0)
    | 7 => (List.range (t.dim 2)).all (fun h => (List.range (r.split1 + 1)).all (fun q =>
        crateEdge t (t.dim 0 * (t.dim 1 * h + min (t.dim 1)
          (q * attBlocks p r / r.split1 * (if attForm r then attHpg r else 256))))))
    | 9 => edges t (p.program r).rows (p.program r).l
    | _ => true)

/-- Shapes and split boundaries of record `i` (R263, R264). -/
def recordShape (p : Plan) (i : Nat) : Bool :=
  let r := p.record i
  let a := p.tensor r.a
  let o := p.tensor r.out
  let one (t : Nat) : Bool := (p.tensor t).count == 1
  (List.zip (splitUnits p r) [r.split0, r.split1, r.split2]).all (fun x => match x.1 with
    | some n => decide (x.2 ≤ n)
    | none => true)
  && crateSplits p r
  && (match r.opcode with
      | 1 => productShape p r
      | 2 => windowShape p r
      | 3 => a.size == o.size && (r.b == 0xFFFF || (p.tensor r.b).size == a.size)
          && operandShape p o (stageOf (r.stages.getD 0 0))
      | 4 => a.size == o.size && one r.aux0 && (r.func != 3 || (planarOk a && a.dim 3 % r.aux1 == 0
          && decide (a.dim 3 / r.aux1 * a.dim 2 * a.dim 1 * a.dim 0 ≤ 2 ^ 32)))
      | 5 => a.size == o.size && a.dim 0 % 2 == 0 && decide (2 ≤ a.dim 0) && decide (a.dim 0 ≤ 65536)
          && (p.tensor r.aux0).count == a.count / a.dim 0 && (p.tensor r.aux1).count == a.dim 0 / 2
      | 6 => isFmt o.fmtCode [.int32] && o.size == a.size.set 0 1 && decide (a.dim 0 ≤ 2 ^ 31 - 1) && one r.aux0
      | 7 => attendShape p r
      | 8 => appendShape p r
      | 9 => true
      | 10 => sumShape p r
      | _ => a.fmtCode == o.fmtCode && a.size == o.size && a.comp == o.comp && a.scaled == o.scaled && a.blockDim == o.blockDim)

/-- Sizes behind the slots of lane program `i` (R181). -/
def programShape (p : Plan) (i : Nat) : Bool :=
  let g := p.programs.getD i ⟨0, 0, 1, 0, [], 0, [], [], true⟩
  g.slots.all (fun w => !slotUsed w
    || (let t := p.tensor (slotTensor w)
        decide ((match slotBcast w with
          | 0 => g.rows * g.l
          | 1 => g.rows
          | _ => 1) ≤ t.count)
        && (!slotStore w || !t.scaled || (g.l % 32 == 0 && t.dim 0 % 32 == 0))))

/-- Page sets of other loaded plans, with their plans. -/
def otherSets (s : State) : List (Plan × PageSet) := s.plans.flatMap (fun x => x.2.pageSets.map (fun y => (x.2, y)))

/-- Companion tensors of page set `i`, and pools shared at one slot size (R238, R252). -/
def pageSetShape (s : State) (p : Plan) (i : Nat) : Bool :=
  match p.pageSets[i]? with
  | none => true
  | some x =>
    let st := p.tensor x.seqtab
    let pt := p.tensor x.ptab
    let po := p.tensor x.pool
    isFmt st.fmtCode [.uint8] && st.size == [16, x.seqs, 1, 1, 1] && st.dense
      && isFmt pt.fmtCode [.int32] && pt.size == [x.maxPages, x.seqs, 1, 1, 1] && pt.dense
      && isFmt po.fmtCode [.uint8] && po.size == [x.z, x.slots, 1, 1, 1] && po.dense && po.comp == 0
      && ((p.pageSets.take i).map (fun y => (p, y)) ++ otherSets s).all (fun y =>
          y.2.z == x.z || !anyMeet (p.span s x.pool) (y.1.span s y.2.pool))

/-! ### Steps 7 to 13 -/

/-- Operand pairs of record `i` (R49, R222). -/
def recordPair (p : Plan) (i : Nat) : Bool :=
  let r := p.record i
  let f (t : Nat) : Nat := (p.tensor t).fmtCode
  match r.opcode with
  | 1 => pairOk (f r.a) (f r.b) && (r.b2 == 0xFFFF || pairOk (f r.a) (f r.b2))
  | 2 => r.geometry.kind != 1 || pairOk (f r.a) (f r.b)
  | 7 => let q := p.tensor r.a
    (isFmt q.fmtCode [.bf16] && !q.scaled) || (isFmt q.fmtCode [.e4m3] && q.scaled && !attTray r)
  | _ => true

/-- Crates and references in sealed regions (R87, R108). -/
def tensorCrate (s : State) (p : Plan) (i : Nat) : Bool :=
  let t := p.tensor i
  t.comp == 0 || ((!p.isHere s i || !touchesRegion s (p.held i))
    && (t.ref == 0xFFFF || !p.isHere s t.ref || !touchesRegion s (p.held t.ref)))

/-- Row holds (R149). -/
def recordRowHold (p : Plan) (i : Nat) : Bool :=
  let r := p.record i
  let h := p.holds r
  !(r.opcode == 1 && (chainOf r.stages).any (fun g => g.kind == 7))
  || (r.rowHold && r.split1 == 1 && !(decide (524288 + h.1 ≤ 4194304) && decide (4194304 < 524288 + h.1 + h.2)))

/-- Epilogue demand (R147, R274). -/
def recordEpilogue (p : Plan) (i : Nat) : Bool :=
  let e := p.epilogue (p.record i)
  decide (e ≤ 4194304) && decide (e ≤ p.resource.chainBytes)

/-- Whether a hook lies in the plan's range (R274). -/
def Plan.ownHook (p : Plan) (h : Nat) : Bool :=
  decide (p.resource.hookBase ≤ h) && decide (h < p.resource.hookBase + p.resource.hookCount)

/-- Hooks that tensor `i` reaches (R67, R274). -/
def tensorHooks (s : State) (p : Plan) (i : Nat) : Bool :=
  let a := localPart (p.tensor i).base - controlBase
  !p.control s i || decide (0x8000 ≤ a)
  || (p.ownHook (a / 8) && p.ownHook ((min (a + p.extent i) 0x8000 - 1) / 8))

/-- Hooks that record `i` names (R274). -/
def recordHooks (p : Plan) (i : Nat) : Bool :=
  let r := p.record i
  (r.waitHook == 0xFFFF || p.ownHook r.waitHook) && (r.signalHook == 0xFFFF || p.ownHook r.signalHook)

/-- The hook range (R274). -/
def resourceHooks (s : State) (p : Plan) : Bool :=
  let r := p.resource
  r.hookCount == 0
  || (decide (64 ≤ r.hookBase) && decide (r.hookBase + r.hookCount ≤ 4096)
      && s.plans.all (fun x => !meets (r.hookBase, r.hookCount) (x.2.resource.hookBase, x.2.resource.hookCount)))

/-- Trays of record `i` (R252). -/
def recordTrays (p : Plan) (i : Nat) : Bool :=
  let r := p.record i
  r.opcode != 7 || !attTray r || (match p.pageSet r with
    | some x => x.trays != 0
    | none => true)

/-- Tray count of page sets 0 to `i` (R252). -/
def pageSetTrays (p : Plan) (i : Nat) : Bool :=
  decide (((p.pageSets.take (i + 1)).map PageSet.trayCount).sum ≤ p.resource.trays)

/-- Tray bytes on every core, of all loaded plans (R252). -/
def resourceTrays (s : State) (p : Plan) : Bool :=
  let ps := s.plans ++ [(16, p)]
  (coresOf s ps).all (fun c => decide (coreSum s ps Plan.trayArea c ≤ 16 * 2 ^ 20))

/-- Bins (R274). -/
def resourceBins (s : State) (p : Plan) : Bool :=
  decide (4 * (p.resource.peakSums + (s.plans.map (fun x => x.2.resource.peakSums)).sum) ≤ 256)
    && (p.resource.peakSums != 0 || !p.records.any (fun r => r.opcode == 10 || (r.opcode == 7 && attXdev r)))

/-! ### Steps 14 and 15 -/

/-- Landing size (R272). -/
def Plan.landingSize (p : Plan) : Nat :=
  65536 + (p.landing.list.map (fun i => roundUp 512 (p.extent i))).sum
    + (p.pageSets.map (fun x => x.trayCount * x.trayBytes)).sum

/-- Whether an area lies within one tile's cellar (R272). -/
def oneTile (a n : Nat) : Bool := decide (a + n ≤ cellarEnd) && decide (a / tileBytes = (a + n - 1) / tileBytes)

/-- Held ranges of every tensor of a plan in this device's memory. -/
def Plan.allHeld (s : State) (p : Plan) : List (Nat × Nat) :=
  ((List.range p.tensors.length).filter (p.isHere s)).flatMap p.held

/-- Landing space (R272). -/
def landingSpace (s : State) (p : Plan) : Bool :=
  let l := p.landing
  l.every == 0
  || (decide (p.landingSize ≤ l.copySize) && oneTile l.copy0 l.copySize && oneTile l.copy1 l.copySize
      && decide (l.copy0 / tileBytes ≠ l.copy1 / tileBytes)
      && !anyMeet p.copies ((s.plans.map (·.2) ++ [p]).flatMap (fun x => x.allHeld s))
      && !anyMeet p.copies (s.plans.flatMap (fun x => x.2.copies)))

/-- Steward state (R277). -/
def headerMemory (s : State) (p : Plan) : Bool :=
  decide ((s.plans.map (fun x => x.2.imageLength)).sum + p.imageLength ≤ 24 * 2 ^ 20)

/-- Overlap of tensor `i` with the tensors of other loaded plans (R88). -/
def tensorMemory (s : State) (p : Plan) (i : Nat) : Bool :=
  let w := p.written.contains i
  !p.isHere s i || p.control s i || !(w || p.readSet.contains i)
  || s.plans.all (fun x => (List.range x.2.tensors.length).all (fun j =>
      !x.2.isHere s j || !(w || x.2.written.contains j) || !anyMeet (p.held i) (x.2.held j)))

/-- Whether two tensors of the plan share a byte. -/
def Plan.overlap (s : State) (p : Plan) (i j : Nat) : Bool := anyMeet (p.span s i) (p.span s j)

/-- Whether two tensors have one identical extent. -/
def Plan.sameExtent (s : State) (p : Plan) (i j : Nat) : Bool := p.span s i == p.span s j

/-- Overlap of a store slot with another slot of its program (R181). -/
def slotsApart (s : State) (p : Plan) (g : LaneProg) : Bool :=
  (List.range 8).all (fun k => (List.range 8).all (fun j =>
    let w := g.slots.getD k 0
    let v := g.slots.getD j 0
    k == j || !slotUsed w || !slotStore w || !slotUsed v || !p.overlap s (slotTensor w) (slotTensor v)
    || (slotTensor w == slotTensor v && !slotStore v && slotBcast v == 0
        && (g.uses.filter (fun u => u.1 == k && u.2.2.1)).all (fun u =>
            g.uses.all (fun x => x.2.2.1 || slotTensor (g.slots.getD x.1 0) != slotTensor w || decide (x.2.2.2 ≤ u.2.2.2))))))

/-- Whether two tensors are one tensor, under one index or two: the same elements at the same bytes (R206). -/
def Plan.sameTensor (p : Plan) (i j : Nat) : Bool :=
  let t := p.tensor i
  let u := p.tensor j
  i == j || (t.base == u.base && t.shelf == u.shelf && t.comp == u.comp && t.fmt.width == u.fmt.width && t.size == u.size
    && (List.range 5).all (fun d => t.dim d == 1 || t.stride.getD d 0 == u.stride.getD d 0))

/-- Whether NORMALISE may write tensor `o` over tensor `t` that it reads: OUT is A itself, and with it OUT's scale is A's (R206). -/
def Plan.inPlace (p : Plan) (r : Rec) (t o : Nat) : Bool :=
  p.sameTensor r.a r.out
  && ((t == r.a && o == r.out)
      || ((p.tensor r.a).scaled && (p.tensor r.out).scaled && t == (p.tensor r.a).scale && o == (p.tensor r.out).scale && p.sameTensor t o))

/-- Overlaps within record `i` (R159, R181, R206, R338). -/
def recordMemory (s : State) (p : Plan) (i : Nat) : Bool :=
  let r := p.record i
  match r.opcode with
  | 2 => r.geometry.kind != 1 || !((recReads p r).any (p.overlap s r.out))
  | 4 => (recReads p r).all (fun t => (recWrites p r).all (fun o => !p.overlap s t o || p.inPlace r t o))
  | 9 => slotsApart s p (p.program r)
  | 10 => !p.overlap s r.a r.out || ((p.tensor r.a).dim 4 == 1 && p.sameExtent s r.a r.out)
  | _ => true

/-- Trays of the loaded plans, where they lie (R246). -/
def loadedTrays (s : State) : List (Nat × Nat) :=
  s.plans.flatMap (fun x => (List.range x.2.pageSets.length).flatMap (fun i => match x.2.pageSets[i]? with
    | some y => if y.trays = 0 then [] else (List.range y.trayCount).map (fun t => (trayAddr s x.1 x.2 i t, y.trayBytes))
    | none => []))

/-- Tables of page set `i` shared with another page set, and tray areas that overlap plan tensors (R238, R252). Shelf tensors of two plans
share nothing (R260). -/
def pageSetMemory (s : State) (p : Plan) (i : Nat) : Bool :=
  match p.pageSets[i]? with
  | none => true
  | some x =>
    let mine := p.span s x.seqtab ++ p.span s x.ptab
    let tables (y : Plan × PageSet) : List (Nat × Nat) := y.1.span s y.2.seqtab ++ y.1.span s y.2.ptab
    (p.pageSets.take i).all (fun y => !anyMeet mine (tables (p, y)))
    && (otherSets s).all (fun y => !anyMeet mine ((tables y).filter (fun z => decide (z.1 < 2 ^ 60))))
    && !anyMeet (p.trayRanges s i) ((s.plans.map (·.2) ++ [p]).flatMap (fun y => y.allHeld s))

/-- Shelf demand on every core that serves the plan, a core for every home (R88, R275), and tensors apart from the loaded plans' trays
(R252). -/
def resourceMemory (s : State) (p : Plan) : Bool :=
  let ps := s.plans ++ [(16, p)]
  (List.range p.homes).all (fun h => (homeCore s p h).isSome)
    && (coresOf s [(16, p)]).all (fun c => decide (coreSum s ps Plan.demand c ≤ planArea))
    && !anyMeet (loadedTrays s) (p.allHeld s)

/-! ### The order of checks -/

/-- The first item of a kind that fails. -/
def failing (kind n : Nat) (ok : Nat → Bool) : Option (Nat × Nat) := ((List.range n).find? (fun i => !ok i)).map (fun i => (i, kind))

/-- A single item of a kind. -/
def failingOne (kind : Nat) (ok : Bool) : Option (Nat × Nat) := if ok then none else some (0, kind)

/-- Place of page set `i` in the order of first use (R276). -/
def Plan.setOrder (p : Plan) (i : Nat) : Nat :=
  (p.kvsets.findIdx? (fun t => (p.pageSets[i]?).any (fun x => x.tensor == t))).getD i

/-- Failing item and kind of one step, for an image within its bounds (R276). -/
def loadStep (s : State) (p : Plan) (image : List Byte) (k : Nat) : Option (Nat × Nat) :=
  let t := failing 1 p.tensors.length
  let r := failing 2 p.records.length
  let g := failing 3 p.programs.length
  let x := fun ok => (failing 4 p.pageSets.length ok).map (fun y => (p.setOrder y.1, y.2))
  match k with
  | 2 => failingOne 0 (digestOk image)
  | 3 => failingOne 0 (headerFields p) <|> t (tensorFields s p) <|> r (recordFields s p) <|> g (programFields s p)
      <|> x (pageSetFields p) <|> failingOne 5 (landingFields p) <|> failingOne 6 (resourceFields p)
  | 4 => t (tensorAddress s p) <|> failingOne 5 (landingAddress s p)
  | 5 => t (tensorSealing s p) <|> failingOne 5 (landingSealing s p)
  | 6 => t (tensorShape s p) <|> r (recordShape p) <|> g (programShape p) <|> x (pageSetShape s p)
  | 7 => r (recordPair p)
  | 8 => t (tensorCrate s p)
  | 9 => r (recordRowHold p)
  | 10 => r (recordEpilogue p)
  | 11 => t (tensorHooks s p) <|> r (recordHooks p) <|> failingOne 6 (resourceHooks s p)
  | 12 => r (recordTrays p) <|> x (pageSetTrays p) <|> failingOne 6 (resourceTrays s p)
  | 13 => failingOne 6 (resourceBins s p)
  | 14 => failingOne 5 (landingSpace s p)
  | 15 => failingOne 0 (headerMemory s p) <|> t (tensorMemory s p) <|> r (recordMemory s p) <|> x (pageSetMemory s p)
      <|> failingOne 6 (resourceMemory s p)
  | _ => none

/-- Status of a refusal at a step (R276, R295). -/
def loadStatus (k : Nat) : Nat :=
  match k with
  | 1 => stBadParameter | 2 => 0x0200 | 3 => stBadParameter | 4 => stBadAddress | 5 => stSealed
  | _ => 0x0200 + (k - 5)

/-- The first failing step from step `k` on, among `n`. -/
def loadFrom (s : State) (p : Plan) (image : List Byte) : Nat → Nat → Option (Nat × Nat × Nat)
  | 0, _ => none
  | n + 1, k =>
    match loadStep s p image k with
    | some x => some (k, x)
    | none => loadFrom s p image n (k + 1)

end Sys2Proof.Machine
end

