-- ==== Sys2Proof/Machine/PlanLoad.lean ====
section
/-! DEFINITION. Sys2Proof/Machine/PlanLoad.lean: LOAD_PLAN and UNLOAD_PLAN (R276 to R279), the page-set headers and member
sets that a load reads (R237, R339), and where the stewards place shelf areas and trays (R246, R260, R266). -/
namespace Sys2Proof.Machine

/-! ### Shelf areas -/

/-- The area of a home has a base. -/
def setArea (a : ShelfArea) : Act := fun s =>
  let v := s.slot a.slot
  [.slot a.slot { v with shelfBase := (padBase v.shelfBase a.home).set a.home a.base }]
where
  /-- A list long enough for an index. -/
  padBase (l : List Nat) (i : Nat) : List Nat := l ++ List.replicate (i + 1 - l.length) 0

/-- `n` bytes moved within device memory, with the errors of their words (R74). -/
def moveBytes (src dst n : Nat) : Act := fun s =>
  Act.all [meetRange src n, storeMem dst (memBytes s src n),
    Act.of ((eccIn s src n).filterMap (fun x => match x.2.2 with
      | .double b => some (.ecc ((dst + (x.1 - src)) / 8) (some (.double b)))
      | _ => none))] s

/-- Areas moved down, or placed without contents, one after another from `b`. -/
def packAreas (c : Nat) (copy : Bool) : List ShelfArea → Nat → Act
  | [], _ => Act.none
  | a :: as, b =>
    Act.seq
      (Act.seq
        (Act.when (copy && a.base != b) (moveBytes (shelfBase + c * shelfSlot + a.base) (shelfBase + c * shelfSlot + b) a.size))
        (setArea { a with base := b }))
      (packAreas c copy as (b + a.size))

/-- New areas of a core find holes among the others, which move together where a hole is missing or one lies in the work areas. -/
def seatCore (isNew : Nat → Nat → Bool) (c : Nat) : Act := fun s =>
  let l := areasOn s c
  let fresh := l.filter (fun a => isNew a.slot a.home)
  let kept := byBase (l.filter (fun a => !isNew a.slot a.home))
  match fitAll (seatRoom s s.plans c) kept fresh with
  | some x => Act.each setArea x s
  | none => Act.seq (packAreas c true kept 0) (packAreas c false fresh ((kept.map (·.size)).sum)) s

/-- Areas of homes that another core serves than in state `old` are placed there; their contents stay behind. -/
def reseat (old : State) : Act := fun s =>
  Act.each (seatCore (fun n h => match (s.slot n).plan with
    | some p => homeCore old p h != homeCore s p h
    | none => false)) (coresOf s s.plans) s

/-! ### What a load reads from device memory -/

/-- Bytes of the elements of a one-dimensional tensor of this device's memory, or none where they cannot be read. -/
def Plan.readRow (s : State) (p : Plan) (i n : Nat) : Option (List Byte) :=
  let t := p.tensor i
  let w := t.fmt.width / 8
  let a := localPart t.base
  if t.shelf = false ∧ t.comp = 0 ∧ isLocal s t.base = true ∧ rangeOk s a t.extent = true then
    some ((List.range n).flatMap (fun k => planBytes s t.sealed (a + k * t.stride.getD 0 1 * w) w))
  else none

/-- A page-set header (R237). -/
def parsePageSet (i : Nat) (b : List Byte) : PageSet :=
  { tensor := i
    format := fieldLE b 0 2
    dhead := fieldLE b 2 1
    kfmt := fieldLE b 3 1
    vfmt := fieldLE b 4 1
    rnd := fieldLE b 5 1
    hg := fieldLE b 6 2
    seqs := fieldLE b 8 4
    maxPages := fieldLE b 12 4
    seqtab := fieldLE b 16 2
    ptab := fieldLE b 18 2
    pool := fieldLE b 20 2
    trays := fieldLE b 22 1
    slots := fieldLE b 24 4
    holders := fieldLE b 28 2
    rsvOk := allZero (slice b 23 1) && allZero (slice b 30 34) }

/-- Member-set tensors of a plan (R339). -/
def Plan.setTensors (p : Plan) : List Nat :=
  ((p.records.filter (fun r => r.opcode == 10 && p.has r.aux0 && isFmt (p.tensor r.aux0).fmtCode [.int32]
    && decide ((p.tensor r.aux0).dim 0 ≤ 512))).map (·.aux0)).eraseDups

/-- A plan with the page-set headers and member sets that device memory holds now. -/
def Plan.withMemory (s : State) (p : Plan) : Plan :=
  { p with
    pageSets := p.kvsets.filterMap (fun i => (p.readRow s i 64).map (parsePageSet i))
    memberSets := p.setTensors.filterMap (fun i => (p.readRow s i ((p.tensor i).dim 0)).map (fun b =>
      ⟨i, (List.range ((p.tensor i).dim 0)).map (fun k => fieldLE b (4 * k) 4)⟩)) }

/-- The words of the tensors that a load reads are met (R74). -/
def readLoadTensors (p : Plan) : Act :=
  Act.each (fun i => fun s => if isLocal s (p.tensor i).base = true ∧ (p.tensor i).shelf = false ∧ (p.tensor i).comp = 0
    then meetRange (localPart (p.tensor i).base) (p.tensor i).extent s else []) (p.kvsets ++ p.setTensors)

/-! ### The commands -/

/-- A refusal of LOAD_PLAN (R276). -/
def loadRefusal (k index kind : Nat) : Reply := ⟨loadStatus k, k, index, kind, 0, false, 0⟩

/-- What the checks of LOAD_PLAN find: a refusal, or the plan (R276). -/
def loadChecks (s : State) (image : List Byte) : Except Reply Plan :=
  match boundsFault image image.length with
  | some x => .error (loadRefusal 1 x.1 x.2)
  | none =>
    let p := (parsePlan image).withMemory s.blur
    match loadFrom s p image 14 2 with
    | some x => .error (loadRefusal x.1 x.2.1 x.2.2)
    | none => .ok p

/-- An accepted plan in its slot (R209, R278, R340). -/
def loadedSlot (s : State) (p : Plan) : Slot :=
  { plan := some p
    seed := p.seed
    advance := 0
    epoch := 0
    shelfBase := List.replicate p.homes 0
    run := none
    keySlot := (p.keys s).head? }

/-- LOAD_PLAN (R276 to R278); an image length of 0 completes with DONE (R293). -/
def loadPlan (h : Hdr) (host : Dword) (len : Word) (slot : Byte) : Act := fun s =>
  let n := slot.toNat
  if 15 < n then complete h (Reply.badField 44) s
  else if len = 0 then finish h stDone s
  else if (s.slot n).plan.isSome then finish h stBusy s
  else
    let image := hostData s h host.toNat len.toNat
    match loadChecks s image with
    | .error r => complete h r s
    | .ok p =>
      Act.all [blurDraw, readLoadTensors p, Act.of [.slot n (loadedSlot s p)],
        fun t => Act.each (seatCore (fun m _ => m == n)) (coresOf t [(n, p)]) t, finish h stDone] s

def execLoadPlan (h : Hdr) (host : Dword) (len : Word) (slot : Byte) (s : State) : Host.Outcome State Fault Refusal :=
  (hostCommand h false (loadPlan h host len slot)).run s

/-- A command that names a slot with a plan (R293). -/
def slotCommand (h : Hdr) (slot : Byte) (off : Nat) (f : Nat → Slot → Plan → Act) : Act := fun s =>
  if 15 < slot.toNat then complete h (Reply.badField off) s
  else match (s.slot slot.toNat).plan with
    | none => complete h (Reply.badField off) s
    | some p => f slot.toNat (s.slot slot.toNat) p s

/-- Whether a slot's run is in progress or paused (R279, R294). -/
def Slot.running (v : Slot) : Bool := v.run.isSome

/-- UNLOAD_PLAN (R279). -/
def unloadPlan (h : Hdr) (slot : Byte) : Act :=
  slotCommand h slot 32 (fun n v _ =>
    if v.running then finish h stBusy else Act.seq (Act.of [.slot n Slot.reset]) (finish h stDone))

def execUnloadPlan (h : Hdr) (slot : Byte) (s : State) : Host.Outcome State Fault Refusal :=
  (command h false (unloadPlan h slot)).run s

end Sys2Proof.Machine
end

