-- ==== Sys2Proof/Machine/Records.lean ====
section
/-! DEFINITION. Sys2Proof/Machine/Records.lean: the bodies of PRODUCT, WINDOW (CONV, POOL, RESAMPLE), ELEMENTWISE, NORMALISE,
ROTARY, DRAW and LANE records (R263), each carried out whole while its record is in flight. -/
namespace Sys2Proof.Machine

/-! ### PRODUCT and CONV -/

/-- Lines of the masked operand that meet each page list: for each split its home and its own lines (R136, R260, R263). -/
def Ctx.maskLines (c : Ctx) : List (Nat × List Nat) :=
  let p := c.product c.r.b
  (List.range c.r.split0).flatMap (fun q0 => (List.range c.r.split1).flatMap (fun q1 => (List.range c.r.split2).map (fun q2 =>
    let x := if maskTarget c.r.mask then splitRange p.n c.r.split1 q1 else splitRange p.m c.r.split0 q0
    (splitHome c.plan c.r q0 q1 q2, List.range' x.1 (x.2 - x.1)))))

/-- What the splits of a PRODUCT record read: their rows of A and columns of B and B2 over their k-chunks, masks, stage operands and the
encoder's references (R263). -/
def productParts (c : Ctx) : List Part :=
  let p := c.product c.r.b
  (splitsWithHomes c).flatMap (fun x =>
    let m := splitRange p.m c.r.split0 x.1.1
    let n := splitRange p.n c.r.split1 x.1.2.1
    let k := splitRange p.chunks c.r.split2 x.1.2.2
    let lines (i : Nat) (r : Nat × Nat) : List Part := if i = 0xFFFF then [] else
      (List.range' r.1 (r.2 - r.1)).map (fun l => .elems x.2 i (256 * k.1 + p.k * l) (min (256 * k.2) p.k + p.k * l))
    lines c.r.a m ++ lines c.r.b n ++ lines c.r.b2 n ++ (maskTensors c.r.mask ++ chainTensors c.r.stages).flatMap (wholePart c x.2)
      ++ (List.range' m.1 (m.2 - m.1)).flatMap (fun l => encoderPart c x.2 c.r.out (n.1 + p.n * l) (n.2 + p.n * l)))

/-- PRODUCT (R451, R112): every output, with mask and chain, from what the epilogue holds. -/
def productBody (c : Ctx) : Body := ⟨c.arrayOut, c.pageEvents c.maskLines, productParts c, clearArrays c.slot c.record⟩

def execProduct (slot : SlotId) (r : Nat) (s : State) : Host.Outcome State Fault Refusal :=
  (arrayBody slot.val r 1 Ctx.productIssues productBody).run s

/-- The body of a WINDOW record of one kind (R155). -/
def windowBody (n r kind : Nat) (f : Ctx → Body) : Act := fun s =>
  match bodyDue s n r 2 with
  | none => []
  | some (c, _) => if c.r.geometry.kind = kind then recordBody n r 2 f s else []

/-- CONV (R157 to R163): on the array and on the lane path the same bits. -/
def execConv (slot : SlotId) (r : Nat) (s : State) : Host.Outcome State Fault Refusal :=
  Act.run (fun s =>
    match bodyDue s slot.val r 2 with
    | none => []
    | some (c, _) =>
      if c.r.geometry.kind ≠ 1 then []
      else if laneConv c.r then (if laneGoes c then recordBody slot.val r 2 laneBody s else [])
      else arrayBody slot.val r 2 Ctx.productIssues (fun c =>
        ⟨c.arrayOut, [], convParts c, clearArrays c.slot c.record⟩) s) s

/-! ### POOL and RESAMPLE -/

/-- Home of output position `m` of `total` of a WINDOW record without groups. -/
def windowHome (c : Ctx) (total m : Nat) : Nat := splitHome c.plan c.r (splitOf total c.r.split0 m) 0 0

/-- Elements of a pooling window in ascending (kt, kh, kw): none in the padding (R158, R166). -/
def poolWindow (c : Ctx) (home : Nat) (ix : List Nat) : List (Option FV) :=
  let g := c.r.geometry
  let tx := c.plan.tensor c.r.a
  let kw := g.kernel.getD 0 1
  let kh := g.kernel.getD 1 1
  (List.range (kw * kh * g.kernel.getD 2 1)).map (fun k =>
    match g.source tx.size 0 (ix.getD 0 0) (k % kw), g.source tx.size 1 (ix.getD 1 0) (k / kw % kh),
        g.source tx.size 2 (ix.getD 2 0) (k / (kw * kh)) with
    | some w, some h, some t => some (r32 (c.at home c.r.a [w, h, t, ix.getD 3 0, ix.getD 4 0]))
    | _, _, _ => none)

/-- FP32 running sum in order, from the first value (R166). -/
def runningSum : List FV → FV
  | [] => FV.zero
  | x :: xs => xs.foldl add32 x

/-- A pooled value before conversion (R166). -/
def poolValue (mode : Nat) (win : List (Option FV)) : FV :=
  let stored := win.filterMap id
  match mode with
  | 0 => match stored with
    | [] => FV.zero
    | x :: xs => xs.foldl FV.max x
  | 1 => (runningSum (win.map (fun x => x.getD FV.zero))).div32 (fvNat win.length)
  | _ => (runningSum stored).div32 (fvNat stored.length)

/-- Output positions of a planar tensor: flat indices, with the row m of each (R157). -/
def planarM (t : Tensor) (f : Nat) : Nat :=
  let wht := t.dim 0 * t.dim 1 * t.dim 2
  f % wht + wht * (f / (wht * t.dim 3))

/-- What the splits of a POOL record read: row spans of the input (R161, R165). -/
def poolParts (c : Ctx) : List Part :=
  let t := c.plan.tensor c.r.out
  let tx := c.plan.tensor c.r.a
  let g := c.r.geometry
  let kw := g.kernel.getD 0 1
  let kh := g.kernel.getD 1 1
  ((recHomes c.plan c.r)).flatMap (fun home =>
    let reached := ((List.range t.count).filter (fun f => windowHome c (t.count / t.dim 3) (planarM t f) == home)).flatMap (fun f =>
      let ix := t.index f
      (List.range (kw * kh * g.kernel.getD 2 1)).filterMap (fun k =>
        match g.source tx.size 0 (ix.getD 0 0) (k % kw), g.source tx.size 1 (ix.getD 1 0) (k / kw % kh),
            g.source tx.size 2 (ix.getD 2 0) (k / (kw * kh)) with
        | some w, some h, some t => some [w, h, t, ix.getD 3 0, ix.getD 4 0]
        | _, _, _ => none))
    rowSpans c home c.r.a reached ++ (if tx.scaled then wholePart c home tx.scale else []))

/-- POOL (R165, R166). -/
def poolBody (c : Ctx) : Body :=
  let t := c.plan.tensor c.r.out
  ⟨c.outWrites c.r.out t.rnd ((List.range t.count).map (fun f =>
      let home := windowHome c (t.count / t.dim 3) (planarM t f)
      c.outV c.r.out t.rnd t.ovfNan home f (poolValue c.r.geometry.mode (poolWindow c home (t.index f))))), [],
    poolParts c, Act.none⟩

def execPool (slot : SlotId) (r : Nat) (s : State) : Host.Outcome State Fault Refusal :=
  (windowBody slot.val r 2 poolBody).run s

/-- The neighbour i' of bilinear up, clamped to the input (R168). -/
def bilinearNeighbour (y ext : Nat) : Nat := if y % 2 = 0 then y / 2 - 1 else min (y / 2 + 1) (ext - 1)

/-- A resampled value: the mean of four, or the weighted sum of four (R167, R168), formed exactly. An exactly zero sum of terms of
unlike signs is −0 where the output rounds toward −∞, and +0 otherwise, as R46 takes IEEE 754 (notes/assumptions/48.md). -/
def bilinearValue (c : Ctx) (home mode : Nat) (ix : List Nat) : FV :=
  let tx := c.plan.tensor c.r.a
  let x := ix.getD 0 0
  let y := ix.getD 1 0
  let get (h w : Nat) : FV := c.at home c.r.a [w, h, ix.getD 2 0, ix.getD 3 0, ix.getD 4 0]
  let add (u v : FV) : FV := FV.addM ((c.plan.tensor c.r.out).rnd == .rdn) u v
  if mode = 3 then
    (add (add (add (get (2 * y) (2 * x)) (get (2 * y) (2 * x + 1))) (get (2 * y + 1) (2 * x)))
      (get (2 * y + 1) (2 * x + 1))).scale (-2)
  else
    let y' := bilinearNeighbour y (tx.dim 1)
    let x' := bilinearNeighbour x (tx.dim 0)
    let w (n : Nat) (v : FV) : FV := v.mul (.fin false n (-4))
    add (add (add (w 9 (get (y / 2) (x / 2))) (w 3 (get (y / 2) x'))) (w 3 (get y' (x / 2)))) (w 1 (get y' x'))

/-- Stored input position that a copying mode reads (R162, R167). -/
def copyIndex (mode r : Nat) (ix : List Nat) : List Nat :=
  let w := ix.getD 0 0
  let h := ix.getD 1 0
  match mode with
  | 0 => viewIndex 3 r w h (ix.getD 2 0) (ix.getD 3 0) (ix.getD 4 0)
  | 1 => [r * w, r * h, ix.getD 2 0, ix.getD 3 0, ix.getD 4 0]
  | 4 => viewIndex 1 r w h (ix.getD 2 0) (ix.getD 3 0) (ix.getD 4 0)
  | _ => viewIndex 2 r w h (ix.getD 2 0) (ix.getD 3 0) (ix.getD 4 0)

/-- RESAMPLE (R167, R168): copies of bits, or bilinear arithmetic rounded once.
DESIGN CHOICE (notes/assumptions/51.md): a mode that copies bits copies the codes of A, and nothing is written to a scale tensor of
OUT; R167 is silent on block scales there. -/
def resampleBody (c : Ctx) : Body :=
  let t := c.plan.tensor c.r.out
  let tx := c.plan.tensor c.r.a
  let g := c.r.geometry
  let home (f : Nat) : Nat := windowHome c (t.count / t.dim 3) (planarM t f)
  let ws : List ElemW :=
    if g.mode = 2 ∨ g.mode = 3 then
      c.outWrites c.r.out t.rnd ((List.range t.count).map (fun f =>
        c.outV c.r.out t.rnd t.ovfNan (home f) f (bilinearValue c (home f) g.mode (t.index f))))
    else (List.range t.count).map (fun f =>
      ⟨c.r.out, home f, f, ⟨c.code (home f) c.r.a (tx.flat (copyIndex g.mode g.ratio (t.index f))), false, false⟩⟩)
  ⟨ws, [], (recHomes c.plan c.r).flatMap (fun h => wholePart c h c.r.a), Act.none⟩

def execResample (slot : SlotId) (r : Nat) (s : State) : Host.Outcome State Fault Refusal :=
  (windowBody slot.val r 3 resampleBody).run s

/-! ### ELEMENTWISE, NORMALISE, ROTARY, DRAW -/

/-- Home of flat index `f` of a record that splits in units of 512 (R263, R264). -/
def flatHome (c : Ctx) (count f : Nat) : Nat :=
  splitHome c.plan c.r (splitOf (ceilDiv count 512) c.r.split0 (f / 512)) 0 0

/-- What the splits of a record that splits flat indices in units of 512 read of its operands. -/
def flatParts (c : Ctx) (count : Nat) (l whole : List Nat) : List Part :=
  (splitsWithHomes c).flatMap (fun x =>
    let u := splitRange (ceilDiv count 512) c.r.split0 x.1.1
    l.flatMap (fun i => if i = 0xFFFF then [] else [.elems x.2 i (512 * u.1) (min count (512 * u.2))])
      ++ whole.flatMap (wholePart c x.2) ++ encoderPart c x.2 c.r.out (512 * u.1) (min count (512 * u.2)))

/-- What the splits of a record that splits rows of `n` elements read: their rows, one element of others for each row, and others whole. -/
def rowParts (c : Ctx) (rows n : Nat) (l perRow whole : List Nat) : List Part :=
  (splitsWithHomes c).flatMap (fun x =>
    let u := splitRange rows c.r.split0 x.1.1
    l.map (fun i => .elems x.2 i (n * u.1) (n * u.2)) ++ perRow.map (fun i => .elems x.2 i u.1 u.2)
      ++ whole.flatMap (wholePart c x.2) ++ encoderPart c x.2 c.r.out (n * u.1) (n * u.2))

/-- ELEMENTWISE (R452): STAGE[1] on every element of A. -/
def elementwiseBody (c : Ctx) : Body :=
  let t := c.plan.tensor c.r.out
  let g := stageOf (c.r.stages.getD 0 0)
  let cells := (List.range t.count).map (fun f =>
    let home := flatHome c t.count f
    (⟨home, f, c.val home c.r.a f, if c.r.b = 0xFFFF then FV.zero else c.val home c.r.b f, false, false⟩ : Cell))
  ⟨c.outWrites c.r.out (lastRnd [g]) (c.runChain c.r.out [g] cells), [],
    flatParts c t.count ([c.r.a, c.r.b] ++ (if g.bcast = 0 ∧ g.kind ≠ 5 then chainTensors c.r.stages else []))
      (if g.bcast = 0 ∧ g.kind ≠ 5 then [] else chainTensors c.r.stages), Act.none⟩

def execElementwise (slot : SlotId) (r : Nat) (s : State) : Host.Outcome State Fault Refusal :=
  (recordBody slot.val r 3 elementwiseBody).run s

/-- Length of a row of NORMALISE: the innermost dimension, or a group of channels (R206). -/
def normLength (c : Ctx) : Nat :=
  let t := c.plan.tensor c.r.a
  if c.r.func = 3 then t.dim 0 * t.dim 1 * t.dim 2 * (t.dim 3 / c.r.aux1) else t.dim 0

/-- NORMALISE (R206). -/
def normaliseBody (c : Ctx) : Body :=
  let t := c.plan.tensor c.r.out
  let n := normLength c
  let rows := t.count / n
  let vs := (List.range rows).flatMap (fun q =>
    let home := splitHome c.plan c.r (splitOf rows c.r.split0 q) 0 0
    let eps := if c.r.aux0 = 0xFFFF then FV.zero else c.val home c.r.aux0 0
    let ys := statRow c.set c.r.func eps ((List.range n).map (fun i => c.val home c.r.a (n * q + i)))
    ys.zipIdx.map (fun y => c.outV c.r.out t.rnd t.ovfNan home (n * q + y.2) y.1))
  ⟨c.outWrites c.r.out t.rnd vs, [], rowParts c rows n [c.r.a] [] [c.r.aux0], Act.none⟩

def execNormalise (slot : SlotId) (r : Nat) (s : State) : Host.Outcome State Fault Refusal :=
  (recordBody slot.val r 4 normaliseBody).run s

/-- Both results of a rotated pair (R201). -/
def rotatePair (set : TableSet) (p fr : Nat) (xa xb : FV) : FV × FV :=
  let phi := p * fr % 2 ^ 32
  let q := phi / 2 ^ 30
  let u := r24 (.fin false (phi % 2 ^ 30) (-32))
  let sn := quarter set false q u
  let cs := quarter set true q u
  ((xa.mul cs).sub (r24 (xb.mul sn)), (xb.mul cs).add (r24 (xa.mul sn)))

/-- ROTARY (R201). -/
def rotaryBody (c : Ctx) : Body :=
  let t := c.plan.tensor c.r.out
  let d := t.dim 0
  let rows := t.count / d
  let vs := (List.range rows).flatMap (fun q =>
    let home := splitHome c.plan c.r (splitOf rows c.r.split0 q) 0 0
    let p := c.code home c.r.aux0 q
    (List.range (d / 2)).flatMap (fun i =>
      let ia := if c.r.func % 2 = 0 then 2 * i else i
      let ib := if c.r.func % 2 = 0 then 2 * i + 1 else i + d / 2
      let y := rotatePair c.set p (c.code home c.r.aux1 i) (c.val home c.r.a (d * q + ia)) (c.val home c.r.a (d * q + ib))
      [c.outV c.r.out t.rnd t.ovfNan home (d * q + ia) (r24 y.1), c.outV c.r.out t.rnd t.ovfNan home (d * q + ib) (r24 y.2)]))
  ⟨c.outWrites c.r.out t.rnd vs, [], rowParts c rows d [c.r.a] [c.r.aux0] [c.r.aux1], Act.none⟩

def execRotary (slot : SlotId) (r : Nat) (s : State) : Host.Outcome State Fault Refusal :=
  (recordBody slot.val r 5 rotaryBody).run s

/-- Cumulative sums with each element's weight (R216). -/
def drawSums : FV → List FV → List (FV × FV)
  | _, [] => []
  | a, e :: es => let s := add32 a e
    (e, s) :: drawSums s es

/-- One draw (R216): the index, or −1, and whether the row is malformed (R217). -/
def drawRow (tau : FV) (u : FV) (xs : List FV) : Int × Bool :=
  let z := xs.map (fun x => mul32 x tau)
  if z.any (fun v => v.isNan || decide (v = .inf false)) then (-1, true)
  else
    let m := z.foldl (fun a v => if a.lt v then v else a) (.inf true)
    if m = .inf true then (-1, false)
    else
      let es := z.map (fun v => if v = .inf true then FV.zero else softExp .standard v m)
      let cs := drawSums FV.zero es
      let thr := mul32 u ((cs.getLast?.map (·.2)).getD FV.zero)
      match cs.findIdx? (fun x => thr.lt x.2) with
      | some i => (Int.ofNat i, false)
      | none => (Int.ofNat ((List.range cs.length).foldl (fun a i =>
          if FV.zero.lt ((cs.map (·.1)).getD i FV.zero) then i else a) 0), false)

/-- DRAW (R216 to R218). -/
def drawBody (c : Ctx) : Body :=
  let t := c.plan.tensor c.r.a
  let n := t.dim 0
  let rows := t.count / n
  let res := (List.range rows).map (fun q =>
    let home := splitHome c.plan c.r (splitOf rows c.r.split0 q) 0 0
    (q, home, drawRow (c.val home c.r.aux0 0) (uniform (genWord c.seed c.r.stream q))
      ((List.range n).map (fun i => c.val home c.r.a (n * q + i)))))
  let bad := res.filter (fun x => x.2.2.2)
  ⟨res.map (fun x => ⟨c.r.out, x.2.1, x.1, ⟨unsigned 32 x.2.2.1, false, false⟩⟩),
    match bad with
    | [] => []
    | x :: t => [⟨5, c.record, c.r.a, x.1, min (t.length + 1) 0xFFFFFFFF⟩],
    rowParts c rows n [c.r.a] [] [c.r.aux0], Act.none⟩

def execDraw (slot : SlotId) (r : Nat) (s : State) : Host.Outcome State Fault Refusal :=
  (recordBody slot.val r 6 drawBody).run s

/-! ### LANE -/

/-- LANE (R169): every unit that remains, unless its units stop at a boundary (R184). -/
def execLane (slot : SlotId) (r : Nat) (s : State) : Host.Outcome State Fault Refusal :=
  Act.run (fun s =>
    match bodyDue s slot.val r 9 with
    | none => []
    | some (c, q) => if q.paused || q.saving.isSome || !laneGoes c then [] else recordBody slot.val r 9 laneBody s) s

end Sys2Proof.Machine
end

