-- ==== Sys2Proof/Machine/Sequencer.lean ====
section
/-! DEFINITION. Sys2Proof/Machine/Sequencer.lean: the core's sequencer (R110 to R131): which instruction is next, the swap of the
register sets, the comparison of the checksum line with its repeat and its escape, and the preemption of the array by a LIVE record. -/
namespace Sys2Proof.Machine

/-- The instructions of a record on a core, in issue order (R112, R123, R232). -/
def Ctx.issues (c : Ctx) (core : Nat) : List BlockId := if c.r.opcode = 7 then c.attendIssues core else c.productIssues core

/-- The scores of an ATTEND instruction's page, as the epilogue holds them (R232). -/
def Ctx.heldScores (c : Ctx) (id : BlockId) : List Word :=
  (c.s.cores.findSome? (fun y => (y.2.array.epilogue.find? (fun x => decide (x.1 = { id with second := false }))).bind (fun x =>
    match x.2 with
    | .scores l => some l
    | .chain _ => none))).getD []

/-- An instruction as the array sees it. -/
def Ctx.viewOf (c : Ctx) (id : BlockId) : Option View :=
  if c.r.opcode = 7 then
    (c.attWork id).map (fun k => let p := c.attProd k id.second (c.heldScores id)
      ⟨p, attPlace k.home p, 0, 0, true⟩)
  else match arrayProduct c id.second with
    | none => none
    | some j => (j.place c id.mblock id.nblock id.kchunk).map (fun x =>
        ⟨j.p, x, id.kchunk, c.r.dataflow,
          !((List.range' (id.kchunk + 1) (x.k1 - (id.kchunk + 1))).any (fun i => !skipped c j x i))⟩)

/-- The tile of an instruction, loaded into a register set (R121). -/
def Ctx.tileOf (c : Ctx) (id : BlockId) : Option RegSet := (c.viewOf id).map (fun v => v.load id)

/-- Whether B is masked as it passes the checksum line: in C_STILL with TARGET 1 (R138, R140). -/
def Ctx.masksB (c : Ctx) : Bool := c.r.opcode == 1 && c.r.dataflow == 1 && maskTarget c.r.mask

/-- Two instructions of one block, whatever their k-chunks. -/
def BlockId.sameBlock (a b : BlockId) : Bool := decide ({ a with kchunk := 0 } = { b with kchunk := 0 })

/-- The sums that enter an instruction: what the carry loop returns, or in C_STILL what the cells hold (R115). -/
def MatArray.carryOf (a : MatArray) (flow : Nat) (id : BlockId) : List Acc :=
  if flow = 1 then (a.active.filter (fun v => v.block.sameBlock id)).elim [] (·.sums)
  else ((if id.second then a.carry1 else a.carry0).filter (fun x => x.1.sameBlock id)).elim [] (·.2)

/-- One pass of an instruction with its held tile: the sums it leaves, and whether every comparison passes (R115, R127). -/
def View.pass (v : View) (maskB : Bool) (tile : RegSet) (carry : List Acc) (u : List Upset) : List Acc × Bool :=
  let p := v.fromSet tile
  (v.sums p u carry, v.checks p maskB (if v.flow = 1 then v.ks.map (fun k => (v.line maskB k).2) else tile.line) u carry)

/-- The register sets after an instruction's swap (R115, R122, R123): the loaded tile is active, and the set that it leaves takes the next
instruction's tile. In C_STILL the cells keep their sums between k-chunks, and the shadow set takes a finished block. -/
def MatArray.swap (a : MatArray) (v : View) (id : BlockId) (gate : Bool) (tile : RegSet) (next : Option RegSet) (sums : List Acc) :
    MatArray :=
  if v.flow = 1 then
    { a with
      active := some ⟨id, [], [], if v.last then [] else sums⟩
      shadow := if v.last then some ⟨id, [], [], sums⟩ else a.shadow }
  else
    { a with
      active := some tile
      shadow := next.or a.active
      setOne := if gate then id.second else !a.setOne }

/-- The carry loop after an instruction: the sums of an open block go on, those of a finished one leave it (R115). -/
def MatArray.carry (a : MatArray) (v : View) (id : BlockId) (sums : List Acc) : MatArray :=
  let x := if v.last || v.flow == 1 then none else some (id, sums)
  if id.second then { a with carry1 := x } else { a with carry0 := x }

/-- Running partials of a page group of a query block in place of the old ones. -/
def MatArray.setPartials (a : MatArray) (id : BlockId) (l : List (Option AttPart)) : MatArray :=
  { a with partials := (id, l) :: a.partials.filter (fun x => decide (x.1 ≠ id)) }

/-- What the epilogue makes of a page's sums (R227, R228): a score product is held as FP32 until the value product has come, and the page's
partials join the running ones. -/
def Ctx.attendEpilogue (c : Ctx) (a : MatArray) (id : BlockId) (sums : List Acc) : MatArray :=
  match c.attWork id with
  | none => a
  | some k =>
    if !id.second then { a with epilogue := a.epilogue ++ [(id, .scores ((c.scoreConvs k sums).map (fun x => BitVec.ofNat 32 x.code)))] }
    else
      let key : BlockId := { id with nblock := 0 }
      { a.setPartials key (c.attMerge k id (c.heldScores id) sums
          (((a.partials.find? (fun x => decide (x.1 = key))).map (·.2)).getD (k.rows.map (fun _ => none)))) with
        epilogue := a.epilogue.filter (fun x => decide (x.1 ≠ { id with second := false })) }

/-- What an instruction whose comparisons have passed does beyond its core's array: a finished block of a PRODUCT or CONV record is released
(R131), and an ATTEND record counts the conversions of the page (R45, R223, R227). -/
def Ctx.release (c : Ctx) (v : View) (id : BlockId) (sums : List Acc) : Act :=
  if c.r.opcode = 7 then convCounts c.slot c.record (c.pageSats id sums) 0
  else if v.last then c.releaseBlock id v.x.q sums else Act.none

/-- One more instruction of a record has completed. -/
def MatArray.advance (a : MatArray) (n r total : Nat) : MatArray :=
  let k := a.count n r + 1
  { a with
    owner := if k < total then some (n, r) else none
    issued := (n, r, k) :: a.issued.filter (fun x => !(x.1 == n && x.2.1 == r)) }

/-- Whether another record on a core comes first at the array: it owns the array, or it is of a higher class, or of the same class and
on the core before it, and has instructions left (R147, R306). -/
def arrayTaken (s : State) (core n r : Nat) : Bool :=
  let k := s.core core
  match k.array.owner with
  | some o => o != (n, r)
  | none => k.busy.any (fun b => b != (n, r) && (decide (slotClass s b.1 < slotClass s n)
      || (slotClass s b.1 == slotClass s n && (k.busy.takeWhile (· != (n, r))).contains b)) && (match recordCtx s b.1 b.2 with
      | some (c, q) => !q.bodyDone.contains b.2 && decide (k.array.count b.1 b.2 < (c.issues core).length)
      | none => false))

/-- A record with the instruction that its core issues next, if it is the one named (R112). -/
def nextIssue (s : State) (core n r : Nat) (id : BlockId) : Option (Ctx × View) :=
  match recordCtx s n r with
  | none => none
  | some (c, q) =>
    let k := s.core core
    if q.inFlight.contains r && !q.bodyDone.contains r && !preempted k n r && !k.escaped && !laneConv c.r && !arrayTaken s core n r
        && decide ((c.issues core)[k.array.count n r]? = some id)
    then (c.viewOf id).map (fun v => (c, v)) else none

/-- The array of a core after an instruction whose comparisons have passed, with the sums it leaves. -/
def Ctx.arrayAfter (c : Ctx) (core : Nat) (a : MatArray) (v : View) (id : BlockId) (tile : RegSet) (sums : List Acc) : MatArray :=
  let l := c.issues core
  let next := (l[a.count c.slot c.record + 1]?).bind c.tileOf
  let b := (a.swap v id (c.r.opcode == 1 && c.r.b2 != 0xFFFF) tile next sums).carry v id sums
  (if c.r.opcode = 7 then c.attendEpilogue b id sums else b).advance c.slot c.record l.length

/-- ARRAY_INSTRUCTION (R110 to R131): the record's next instruction on a core. Its tile is in the shadow set or loads now, it is swapped in,
and its products join the sums, wrong where `faults.upsets` says so. Where a comparison fails the instruction is repeated, with the faults
`faults.again`; where that fails too, it is discarded, and the fault escapes to JOB_RESTART. The TRANSIENT record carries the unit's operation
count before the instruction, and ARRAY_INSTRUCTIONS counts a repeated instruction once and a discarded one not at all: R131 states
neither (notes/assumptions/36.md). -/
def execArrayInstruction (core : CoreId) (slot : SlotId) (r mb nb kc : Nat) (second : Bool) (faults : Faults)
    (s : State) : Host.Outcome State Fault Refusal :=
  Act.run (fun s =>
    let ci := coreIx core
    let k := s.core ci
    let id : BlockId := ⟨slot.val, r, mb, nb, kc, second⟩
    match nextIssue s ci slot.val r id with
    | none => []
    | some (c, v) =>
      let tile := (k.array.shadow.filter (fun t => decide (t.block = id))).getD (v.load id)
      let carry := k.array.carryOf v.flow id
      let x := v.pass c.masksB tile carry faults.upsets
      let y := v.pass c.masksB tile carry faults.again
      if !x.2 && !y.2 then
        Act.seq (Act.of [.core ci { k with array := k.array.forget slot.val r }]) (escapeCore ci) s
      else
        Act.all [
          Act.when (!x.2) (Act.of [.ledger 0x0100 (srcCore ci) (toLE 8 k.health.ops ++ [2]), .count (counterId (srcCore ci) 9) 1]),
          Act.of [.core ci { k with array := c.arrayAfter ci k.array v id tile (if x.2 then x.1 else y.1) },
            .count (counterId (srcCore ci) 2) 1],
          c.release v id (if x.2 then x.1 else y.1),
          coreOps ci (if x.2 then 1 else 2) (if x.2 then 0 else 1)] s) s

/-! ### Preemption (R124, R148) -/

/-- What an array parks, with its places in the shelf from an address on, in `room` bytes: what has no room is kept beside. -/
def parkAll : Nat → Nat → List (ParkPlace × BlockId × List Acc × Option Held) → List (Parked × List Byte)
  | _, _, [] => []
  | a, room, x :: l =>
    let b := parkBytes x.2.2.1 x.2.2.2
    if b.length ≤ room then
      (⟨x.1, x.2.1, some a, x.2.2.1.map Acc.flags, x.2.2.2.map Held.flags⟩, b) :: parkAll (a + b.length) (room - b.length) l
    else (⟨x.1, x.2.1, none, x.2.2.1, x.2.2.2⟩, []) :: parkAll a room l

/-- Bytes of the pieces that are parked in `room` bytes. -/
def parkedBytes (room : Nat) (l : List (ParkPlace × BlockId × List Acc × Option Held)) : Nat :=
  ((parkAll 0 room l).map (·.2.length)).sum

/-- LIVE_PREEMPT (R124, R148): a LIVE record takes the array from a record of a lower class. The loaded, unswapped tile of that record is
discarded, its sums between k-chunks and its held values are parked in the core's work area (R275, notes/assumptions/16.md), and the LIVE
record's tile loads. -/
def execLivePreempt (core : CoreId) (slot : SlotId) (r : Nat) (s : State) : Host.Outcome State Fault Refusal :=
  Act.run (fun s =>
    let ci := coreIx core
    let k := s.core ci
    match recordCtx s slot.val r, k.array.owner with
    | some (c, q), some o =>
      if c.plan.cls != 0 || slotClass s o.1 == 0 || !q.inFlight.contains r || q.bodyDone.contains r || k.live.isSome || k.escaped
          || !((c.issues ci)[k.array.count slot.val r]?).isSome then []
      else
        let l := k.array.toPark o.1 o.2
        let room := workOn s s.plans ci
        let ps := parkAll (shelfBase + ci * shelfSlot + planArea - parkedBytes room l) room l
        let mine (b : BlockId) : Bool := b.of o.1 o.2
        Act.seq (Act.each (fun x => x.1.addr.elim Act.none (fun a => storeMem a x.2)) ps)
          (Act.of [.core ci { k with
            live := some (slot.val, r)
            array := { k.array with
              owner := some (slot.val, r)
              active := k.array.active.filter (fun v => !mine v.block || v.sums.isEmpty)
              shadow := ((c.issues ci)[k.array.count slot.val r]?).bind c.tileOf
              carry0 := k.array.carry0.filter (fun x => !mine x.1)
              carry1 := k.array.carry1.filter (fun x => !mine x.1)
              epilogue := k.array.epilogue.filter (fun x => !l.any (fun y => y.1 == .epilogue && decide (y.2.1 = x.1)))
              parked := k.array.parked ++ ps.map (·.1)
              parkedOwner := some o } }]) s
    | _, _ => []) s

end Sys2Proof.Machine
end

