-- ==== Sys2Proof/Machine/Jobs.lean ====
section
/-! DEFINITION. Sys2Proof/Machine/Jobs.lean: runs of plans: RUN, PAUSE, RESUME, ABORT and SEED_STREAMS (R209, R210, R294), the
order and dispatch of records (R268 to R270, R306, R315), periods and effort tiers (R310 to R314), and how a run ends. -/
namespace Sys2Proof.Machine

/-! ### Changing a run -/

/-- The run of a slot changes. -/
def setRun (n : Nat) (f : Run → Run) : Act := fun s =>
  match (s.slot n).run with
  | none => []
  | some q => [.slot n { s.slot n with run := some (f q) }]

/-- A plan and its run. -/
def runOf (s : State) (n : Nat) : Option (Plan × Run) :=
  match (s.slot n).plan, (s.slot n).run with
  | some p, some q => some (p, q)
  | _, _ => none

/-- An activity of a plan and its run. -/
def withRun (n : Nat) (f : Plan → Run → Act) : Act := fun s =>
  match runOf s n with
  | none => []
  | some (p, q) => f p q s

/-- Whether a record counts as completed: it has completed, or the tier leaves it out (R269). -/
def Run.isDone (p : Plan) (q : Run) (r : Nat) : Bool := q.completed.contains r || !bit (p.record r).tiers q.tier

/-- Whether a record is a collective (R348). -/
def Rec.collective (r : Rec) : Bool := r.opcode == 10 || (r.opcode == 7 && attXdev r)

/-- Collectives of the steps before step `k`. -/
def Plan.collectivesBefore (p : Plan) (k : Nat) : List Nat :=
  ((p.steps.take k).flatMap id).filter (fun r => (p.record r).collective)

/-- Steps that are over give way to the next, up to a landing that is due (R269, R385). -/
def Run.advance (p : Plan) : Nat → Run → Run
  | 0, q => q
  | n + 1, q =>
    if q.landings.due then q
    else match p.steps[q.step]? with
      | none => q
      | some rs =>
        if rs.all (q.isDone p) then
          let k := q.step + 1
          let due := p.landing.every != 0 && decide (k < p.steps.length) && k % p.landing.every == 0
          Run.advance p n { q with
            step := k
            landings := { q.landings with
              due := due
              next := if due then k / p.landing.every else q.landings.next } }
        else q

/-- Every step is over, and no collective is outstanding (R294, R350). -/
def Run.finished (p : Plan) (q : Run) : Bool :=
  decide (p.steps.length ≤ q.step) && (p.collectivesBefore q.step).all q.summed.contains

/-! ### What a run leaves -/

/-- The event that a run reports, if any (R107). -/
def worst : List Malformed → Option Malformed
  | [] => none
  | m :: ms => match worst ms with
    | none => some m
    | some w => some (if w.before m then w else m)

/-- The reply of a RUN that completes (R107, R292, R384). -/
def runReply (q : Run) : Reply :=
  match worst q.reports with
  | some m => ⟨stMalformed, m.detail, m.w0, m.w1, m.w2, false, q.restarts⟩
  | none => ⟨stDone, 0, q.step, q.seed.toNat % 2 ^ 32, q.seed.toNat / 2 ^ 32, false, q.restarts⟩

/-- Collective IDs of a run: those of its slot's epoch (R340). -/
def collectiveId (s : State) (n : Nat) (p : Plan) (r : Nat) : Dword :=
  BitVec.ofNat 64 ((p.record r).aux1 % 65536 * 2 ^ 48 + ((s.slot n).epoch - 1).toNat * 2 ^ 32
    + p.stepOf r % 2 ^ 17 * 2 ^ 15 + r % 2 ^ 15)

/-- The collectives of a run, by ID. -/
def collectiveIds (s : State) (n : Nat) (p : Plan) : List Dword :=
  ((List.range p.records.length).filter (fun r => (p.record r).collective)).map (collectiveId s n p)

/-- The collectives of a run end: its chunks, grants and messages are discarded, but for a message that is on its way (R352). -/
def endCollectives (n : Nat) : Act := fun s =>
  match runOf s n with
  | none => []
  | some (p, q) =>
    let ids := collectiveIds s n p
    let own (r : Routed) : Bool := r.came.isNone && r.msg.chunk.any (fun k => ids.contains k.1)
    (s.colls.map (fun x => .coll x.1 { x.2 with
        chunks := x.2.chunks.filter (fun c => c.slot != n)
        dumbwaiters := x.2.dumbwaiters.filter (fun i => !ids.contains i)
        grants := x.2.grants.filter (fun g => !ids.contains g.id)
        barred := x.2.barred.filter (fun b => !ids.contains b.1)
        badTags := x.2.badTags.filter (fun b => !ids.contains b.1) }))
    ++ s.links.map (fun x => .link x.1 { x.2 with
        waiting := x.2.waiting.filter (fun m => m.begun || !own m.msg) })
    ++ [.held (s.held.filter (fun r => !own r)),
      .outbox (s.outbox.filter (fun m => !(m.chunk.any (fun k => ids.contains k.1)))),
      .slot n { s.slot n with run := some { q with collectives := [] } }]

/-- Everything that a slot's records hold on cores and lanes is discarded (R294, R381): an array that one of them had taken goes back. -/
def clearCores (n : Nat) : Act := fun s =>
  Act.seq (Act.each unparkCore ((s.cores.filter (fun x => x.2.live.any (fun b => b.1 == n))).map (·.1)))
    (fun s => (s.cores.filter (fun x => x.2.busy.any (fun b => b.1 == n) || x.2.laneRuns.any (fun q => q.slot == n))).map (fun x =>
        .core x.1 { x.2 with
          busy := x.2.busy.filter (fun b => b.1 != n)
          laneRuns := x.2.laneRuns.filter (fun q => q.slot != n) })
      ++ (s.lanes.filter (fun x => x.2.busy && x.2.slot == n)).map (fun x => .lane x.1 Lane.reset)) s

/-- The arrays forget a slot's records. -/
def clearSlotArrays (n : Nat) : Act := fun s =>
  match (s.slot n).plan with
  | none => []
  | some p => Act.each (clearArrays n) (List.range p.records.length) s

/-- Remote accesses of a slot's records are no longer waited for. -/
def clearXfers (n : Nat) : Act := fun s =>
  [.xfers (s.xfers.filter (fun x => match x.owner with
    | .record m _ => m.val != n
    | .command _ => true))]

/-- Work in flight of a slot is discarded: records, waits, lanes, arrays, collectives, remote accesses (R294, R300, R381). -/
def discardWork (n : Nat) : Act :=
  Act.all [endCollectives n,
    dropWaiters (fun w => match w with
      | .record m _ => m.val == n
      | _ => false),
    clearCores n, clearSlotArrays n, clearXfers n,
    setRun n (fun q => { q with waiting := [], inFlight := [], bodyDone := [], laneContexts := [], crates := [], aged := [], unsettled := [] })]

/-- Cores on which lane splits wait deal again (R170, R184). -/
def redeal : Act := fun s =>
  Act.each dealCore ((s.cores.filter (fun x => !x.2.laneRuns.isEmpty)).map (·.1)) s

/-- Bytes whose contents are undefined take free values (R294, R390, notes/assumptions/6.md). -/
def spoil (n : Nat) : Act := fun s =>
  match (s.slot n).plan with
  | none => []
  | some p =>
    let rs := (p.written.filter (fun i => p.isHere s i && !p.control s i)).map (fun i =>
      (localPart (p.tensor i).base, p.extent i))
    Act.seq (Act.of [.fresh]) (Act.each (fun x => storeMem x.1
      ((List.range x.2).map (fun k => Config.freeByte s.free (x.1 + k)))) rs) s

/-- The outputs of a record take free values (R70, R260, notes/assumptions/6.md). -/
def spoilRecord (n r : Nat) : Act := fun s =>
  match (s.slot n).plan with
  | none => []
  | some p =>
    let l := recWrites p (p.record r)
    let own := (l.filter (fun i => p.isHere s i && !p.control s i)).map (fun i => (localPart (p.tensor i).base, p.extent i))
    let shelf := (l.filter (fun i => (p.tensor i).shelf)).flatMap (fun i => (recHomes p (p.record r)).filterMap (fun h =>
      (homeCore s p h).map (fun k => (shelfBase + k * shelfSlot + (s.slot n).shelfBase.getD h 0 + (p.tensor i).base, p.extent i))))
    Act.seq (Act.of [.fresh]) (Act.each (fun x => storeMem x.1
      ((List.range x.2).map (fun k => Config.freeByte s.free (x.1 + k)))) (own ++ shelf)) s

/-- What is left of a range without another one. -/
def withoutRange (x y : Nat × Nat) : List (Nat × Nat) :=
  if !meets x y then [x]
  else (if x.1 < y.1 then [(x.1, y.1 - x.1)] else []) ++ (if y.1 + y.2 < x.1 + x.2 then [(y.1 + y.2, x.1 + x.2 - (y.1 + y.2))] else [])

/-- Shelf bytes that the completed records of a step have written in a home, as offsets in the home's area. -/
def writtenShelf (p : Plan) (q : Run) (h : Nat) : List (Nat × Nat) :=
  (((p.steps[q.step]?).getD []).filter (fun w => q.completed.contains w && (recHomes p (p.record w)).contains h)).flatMap (fun w =>
    ((recWrites p (p.record w)).filter (fun j => (p.tensor j).shelf)).map (fun j => ((p.tensor j).base, p.extent j)))

/-- Whether a record reads, in one of its homes, bytes of a shelf tensor that no record of its step has written there before it, through
whichever descriptor: what a shelf tensor holds lasts for one step only (R260). -/
def readsStale (p : Plan) (q : Run) (r : Nat) : Bool :=
  (recHomes p (p.record r)).any (fun h => (recReads p (p.record r)).any (fun i => (p.tensor i).shelf
    && !((writtenShelf p q h).foldl (fun l y => l.flatMap (fun x => withoutRange x y)) [((p.tensor i).base, p.extent i)]).isEmpty))

/-- Pool slots of the pages of a page set that hold positions (R242, R244). -/
def pageSlots (c : Ctx) (x : PageSet) : List Nat :=
  (List.range x.seqs).flatMap (fun k =>
    let e := c.seqEntry 0 x k
    if e.ok then (List.range (ceilDiv (e.effective false) 256)).filterMap (c.pageSlot 0 x k) else [])

/-- Whether an attention record reads a pool slot that two pages of loaded page sets hold: the host has given one slot of a pool twice
(R242). -/
def readsShared (s : State) (n r : Nat) : Bool :=
  match recordCtx s n r with
  | none => false
  | some (c, _) => c.r.opcode == 7 && (match c.plan.pageSet c.r with
    | none => false
    | some x =>
      let all := s.plans.flatMap (fun v => (v.2.pageSets.filter (fun y =>
          anyMeet (v.2.span s y.pool) (c.plan.span s x.pool))).flatMap (fun y => pageSlots { c with slot := v.1, plan := v.2 } y))
      (List.range c.attRows).any (fun m =>
        let w := c.attRow x 0 m
        w.pages.any (fun g => some g != w.tray && (c.pageSlot 0 x w.q g).any (fun k => decide (1 < all.count k)))))

/-- Whether a record's outputs are undefined: the host has touched bytes of the run (R70), a shelf tensor is stale (R260), or a pool slot
is given twice (R242). -/
def outputsOpen (s : State) (n : Nat) (p : Plan) (q : Run) (r : Nat) : Bool :=
  q.raced || q.unsettled.contains r || readsStale p q r || readsShared s n r

/-- A job is stopped: its work is discarded, and it waits for its restart (R303, R33, R381). -/
def stopJob (fid : Half) (n : Nat) : Act := Act.seq (discardWork n) (setRun n (fun q => { q with stopped := some fid }))

/-- Whether a record is a lane-program record. -/
def isLaneRec (s : State) (b : Nat × Nat) : Bool := (s.slot b.1).plan.any (fun p => (p.record b.2).opcode == 9)

/-- Runs in progress with homes on a core. -/
def runsOn (s : State) (c : Nat) : List Nat :=
  (s.plans.filter (fun x => (s.slot x.1).run.any (·.active) && (List.range x.2.homes).any (fun h => homeCore s x.2 h == some c))).map (·.1)

/-- Runs that the exchange of a core's tile with it as one of the two cores concerns (R33). -/
def exchangeRuns (s : State) (c : Nat) : List Nat :=
  match (s.tile (c / 16)).exchange with
  | some (a, b) =>
    if a.val = c % 16 ∨ b.val = c % 16 then (runsOn s (16 * (c / 16) + a.val) ++ runsOn s (16 * (c / 16) + b.val)).eraseDups else []
  | none => []

/-- Whether record `b` of a core is one of the lane engine, and whether a lane of the core runs a unit of it. -/
def engineRec (s : State) (b : Nat × Nat) : Bool :=
  (s.slot b.1).plan.any (fun p => (p.record b.2).opcode == 9 || laneConv (p.record b.2))
def lanesOn (s : State) (c : Nat) (b : Nat × Nat) : Bool :=
  s.lanes.any (fun x => x.1 / 128 == c && x.2.busy && x.2.slot == b.1 && x.2.record == b.2)

/-- Whether a record has no work in flight on a core: its LANE splits have stopped there for a PAUSE or a save (R184, R378). -/
def stoppedOn (s : State) (c : Nat) (b : Nat × Nat) : Bool :=
  isLaneRec s b && (s.slot b.1).run.any (fun q => q.paused || q.saving.isSome) && !lanesOn s c b

/-- Whether no job has work in flight on a core, and whether none has but splits that its retirement has stopped at a unit boundary (R184,
R378). -/
def coreQuiet (s : State) (c : Nat) : Bool := (s.core c).busy.all (stoppedOn s c)
def coreStill (s : State) (c : Nat) : Bool :=
  (s.core c).busy.all (fun b => stoppedOn s c b || (engineRec s b && !(s.core c).escaped && !lanesOn s c b))

/-- Splits of the lane engine that a retired core held go to the cores that serve their homes now (R184, R266, R378). -/
def moveSplits (k : Core) : Act :=
  Act.each (fun q => fun s => match recordCtx s q.slot q.record with
    | none => []
    | some (c, _) => match homeCore s c.plan (splitEnv c q.split).home with
      | none => []
      | some i =>
        let b : Nat × Nat := (q.slot, q.record)
        let v := s.core i
        [.core i { v with
          laneRuns := v.laneRuns ++ [q.rewind]
          busy := if v.busy.contains b then v.busy else v.busy ++ [b] }]) k.laneRuns

/-- A core goes under its dust sheet, and the homes it served find their areas on other cores (R266, R376), as do the splits of the lane
engine that have stopped on it; the work of an exchange that this abandons resumes from its landing, with JOB_RESTART (R33). -/
def retireCore (c reason : Nat) : Act := fun s =>
  Act.all [sheetCore c reason, reseat s, if goodCore s c then moveSplits (s.core c) else Act.none, Act.each (stopJob (BitVec.ofNat 16 (srcCore c))) (if goodCore s c then exchangeRuns s c else [])] s

/-- Cores with permanent faults, or that have failed a retest, are sheeted once they have no work in flight (R378). -/
def retireCores : Act := fun s =>
  Act.each (fun x => retireCore x.1 (if x.2.failed then 2 else 1))
    (s.cores.filter (fun x => (x.2.condemned || x.2.failed) && coreStill s x.1)) s

/-- LANE_WORK_UNIT_COMPLETE: the unit's last element has ended and its checks are made. One failure runs the unit again, and
the repeat's results are the same bits; a second failure escapes to JOB_RESTART, and nothing is released (R183). -/
def execLaneWorkUnitComplete (u : LaneId) (failures : Fin 3) (s : State) : Host.Outcome State Fault Refusal :=
  Act.run (fun s =>
    let l := s.lane (laneIx u)
    let core := coreIx u.core
    if !l.busy || !l.ended || (s.core core).escaped then []
    else if failures.val = 2 then escapeCore core s
    else Act.all [if failures.val = 1 then Act.of [.ledger 0x0100 (srcCore core)
          (toLE 8 (s.core core).health.ops ++ [3]), .count (counterId (srcCore core) 9) 1] else Act.none,
        coreOps core (1 + failures.val) failures.val, releaseUnit (laneIx u), retireCores] s) s

/-- PAUSE commands of a run complete (R294). -/
def finishPauses (l : List PauseReq) (step restarts : Nat) : Act :=
  Act.each (fun x => complete x.hdr ⟨stDone, 0, step, 0, 0, false, restarts - x.restarts⟩) l

/-- A run ends, with a reply for an unbound RUN; its pauses complete, and its SAVE_CONTEXT with the status of the end. -/
def endRun (n : Nat) (reply : Option Reply) : Act := fun s =>
  match runOf s n with
  | none => []
  | some (_, q) =>
    Act.all [discardWork n,
      fun t => [.slot n { t.slot n with run := none }],
      finishPauses q.pauses q.step q.restarts,
      (match q.saving, reply with
        | some v, some r => complete v.hdr { Reply.of r.status with restarts := q.restarts - v.restarts }
        | some v, none => complete v.hdr { Reply.of stAborted with restarts := q.restarts - v.restarts }
        | none, _ => Act.none),
      (match reply with
        | some r => if q.answers then complete q.hdr r else Act.none
        | none => Act.none),
      retireCores, redeal] s

/-! ### What a record reads -/

/-- What a record reads, part by part (R263); what a MOVE or a collective takes is read as it goes. -/
def recordParts (c : Ctx) : List Part :=
  match c.r.opcode with
  | 1 => productParts c
  | 2 => if c.r.geometry.kind = 1 then convParts c else if c.r.geometry.kind = 2 then poolParts c else (resampleBody c).reads
  | 3 => (elementwiseBody c).reads
  | 4 => (normaliseBody c).reads
  | 5 => (rotaryBody c).reads
  | 6 => (drawBody c).reads
  | 7 => (c.plan.pageSet c.r).elim [] (attendParts c)
  | 8 => if appMode c.r = 0 then (appendBody c).reads else (pflushBody c).reads
  | 9 => laneParts c
  | _ => []

/-! ### Limits of a job (R389) -/

/-- Case 1: a core that serves a home of the plan carries too much, or a home has no core (R389). -/
def overloaded (s : State) (p : Plan) : Bool :=
  let mine := ((List.range p.homes).map (homeCore s p))
  mine.any Option.isNone
    || ((mine.filterMap id).eraseDups).any (fun c => decide (planArea < coreSum s s.plans Plan.demand c)
        || decide (16 * 2 ^ 20 < coreSum s s.plans Plan.trayArea c))

/-- Members that a plan's collectives and remote tensors need (R333, R389). -/
def Plan.peers (s : State) (p : Plan) : List Nat := ((p.memberSets.flatMap (·.members)).filter (· != deviceNumber s)).eraseDups

/-- The case of R389 that a job meets at RUN or at a restart. -/
def degradedCase (s : State) (p : Plan) : Option Nat :=
  if overloaded s p then some 1
  else if p.records.any Rec.collective && ((s.coll 0).sheeted || (s.coll 1).sheeted) then some 2
  else if (p.peers s).any (fun d => !reachable s d) then some 3
  else none

/-- A job ends DEVICE_DEGRADED on this member (R390, R403). -/
def degradeHere (n case : Nat) : Act := fun s =>
  match runOf s n with
  | none => []
  | some (_, q) => Act.all [logAct 0x0111 (srcSlot n) (toLE 1 case), eventAct 1, spoil n,
      endRun n (some { Reply.of stDegraded with restarts := q.restarts })] s

/-- A job ends DEVICE_DEGRADED, on this member and on every other of its member sets (R389, R390). -/
def degrade (n case : Nat) : Act := fun s =>
  match runOf s n with
  | none => []
  | some (p, _) => Act.seq (sendAll ((p.peers s).map (fun d => .ended (deviceNumber s) d n case))) (degradeHere n case) s

/-! ### RUN -/

/-- A job that takes the slot seed (R209, R340); a bound one takes it at each period. -/
def newRun (s : State) (h : Hdr) (n : Nat) (src : Option (Fin 8)) : Run where
  src := src
  hdr := h
  answers := src.isNone
  seed := (s.slot n).seed
  gen := s.tables.generation
  active := src.isNone
  step := 0
  completed := []
  waiting := []
  inFlight := []
  bodyDone := []
  acquired := []
  released := []
  paused := false
  pauses := []
  saving := none
  stopped := none
  tier := 3
  tierInForce := 3
  onTime := 0
  regained := true
  pending := []
  period := 0
  agreed := none
  restarts := 0
  consecutive := 0
  landings := ⟨0, false, none, [], none, 0, false⟩
  reports := []
  collectives := []
  summed := []
  laneContexts := []
  crates := []
  aged := []
  raced := false
  unsettled := []

/-- A run or a period starts: it takes the slot seed, and its landing 0 is due if it takes landings (R209, R340, R385). The
table generation is the job's, taken at RUN and at landings (R198). -/
def startPass (n : Nat) : Act := fun s =>
  match runOf s n with
  | none => []
  | some (p, q) =>
    let v := s.slot n
    [.slot n { v with
      seed := v.seed + v.advance
      epoch := v.epoch + 1
      run := some { q with
        seed := v.seed
        active := true
        step := 0
        completed := []
        acquired := []
        released := []
        reports := []
        summed := []
        consecutive := 0
        raced := false
        unsettled := []
        landings := ⟨0, p.landing.every != 0, none, [], none, 0, false⟩ } }]

/-- A changed tier writes a ledger record, and takes its place in a pair's agreed order (R312, R314). -/
def tierChange (n old new : Nat) : Act := fun s =>
  let w := TwinWork.tier s.twin.mode n new
  if old = new then []
  else Act.seq (logAct 0x0201 (srcSlot n) (toLE 1 old ++ toLE 1 new))
    (if !s.paired then Act.none else if orderer s then giveNumber w else askNumber w) s

/-- The on-time count and the tier after a period that completes on time (R312, rules 3 and 4): count, tier. -/
def onTimeStep (count tier : Nat) (regained : Bool) : Nat × Nat :=
  let c := min 8 (count + 1)
  if c = 8 ∧ tier = 3 then (0, 3)
  else if c = 8 ∧ regained = true then (0, tier + 1)
  else (c, tier)

/-- A period of a bound run ends (R294, R310, R312): on time where no later mark of its source has arrived. -/
def endPeriod (n : Nat) : Act := fun s =>
  match runOf s n with
  | none => []
  | some (_, q) =>
    match q.pending with
    | [] => []
    | v :: rest =>
      let x := if v.late || q.src.any (fun m => s.mark m.val != v.seq) then (q.onTime, q.tierInForce) else onTimeStep q.onTime q.tierInForce q.regained
      Act.all [setRun n (fun q => { q with pending := rest, active := false, onTime := x.1, tierInForce := x.2, reports := [] }),
        tierChange n q.tierInForce x.2,
        Act.when q.hdr.signal (releaseHook q.hdr.signalHook.toNat q.hdr.signalInc.toNat (srcSlot n) true)] s

/-- Whether a record is ready, its hook aside (R269). -/
def Run.ready (p : Plan) (q : Run) (r : Nat) : Bool :=
  q.active && !q.paused && q.saving.isNone && q.stopped.isNone && !q.landings.due && ((p.steps[q.step]?).getD []).contains r
    && !q.isDone p r && !q.inFlight.contains r && !q.waiting.contains r && (p.record r).deps.all (q.isDone p)

/-- Whether a record has acquired its hook or needs none (R269, R382). -/
def Run.hookHeld (p : Plan) (q : Run) (r : Nat) : Bool := (p.record r).waitHook == 0xFFFF || q.acquired.contains r

/-- Records that are ready with their hooks, by slot and number. -/
def readyRecords (s : State) : List (Nat × Nat) :=
  s.plans.flatMap (fun x => match (s.slot x.1).run with
    | none => []
    | some q => ((List.range x.2.records.length).filter (fun r => q.ready x.2 r && q.hookHeld x.2 r)).map (fun r => (x.1, r)))

/-- Records that have become ready take their places behind those that were (R306, R315). -/
def noteReady : Act := fun s =>
  let l := readyRecords s
  [.ready (((s.ready.filter l.contains) ++ l.filter (fun x => !s.ready.contains x)).eraseDups)]

/-- Steps advance; a run whose last step is over completes (R269, R294). -/
def advance (n : Nat) : Act := fun s =>
  match runOf s n with
  | none => []
  | some (p, q) =>
    if !q.active then []
    else
      let q' := q.advance p (p.steps.length + 1)
      Act.all [setRun n (fun _ => q'),
        (if q'.finished p then (if q.src.isNone then endRun n (some (runReply q')) else endPeriod n) else Act.none), noteReady] s

/-! ### PAUSE, RESUME, ABORT, SEED_STREAMS -/

/-- PAUSE stops dispatch; of a paused or idle slot it has no effect (R294). -/
def pauseCommand (h : Hdr) (slot : Byte) : Act :=
  slotCommand h slot 32 (fun n v _ =>
    match v.run with
    | none => finish h stDone
    | some q =>
      if q.paused then complete h (Reply.done q.step 0 0)
      else Act.of [.slot n { v with run := some { q with
        paused := true
        pauses := q.pauses ++ [⟨h, q.inFlight, q.restarts⟩] } }])

def execPause (h : Hdr) (slot : Byte) (s : State) : Host.Outcome State Fault Refusal :=
  (command h false (pauseCommand h slot)).run s

/-- Whether a record of a run has completed or stopped: a LANE record stops when no lane runs a unit of it (R184). -/
def settled (s : State) (n : Nat) (p : Plan) (q : Run) (r : Nat) : Bool :=
  !q.inFlight.contains r
  || ((p.record r).opcode == 9 && q.paused && !q.bodyDone.contains r && !s.lanes.any (fun x => x.2.busy && x.2.slot == n && x.2.record == r))

/-- PAUSE_COMPLETE: the PAUSE commands whose records have completed or stopped complete; during a restart they wait for its end (R294,
R383). -/
def execPauseComplete (slot : SlotId) (s : State) : Host.Outcome State Fault Refusal :=
  Act.run (withRun slot.val (fun p q => fun s =>
    let settledOver (x : PauseReq) : Bool := q.stopped.isNone && x.left.all (settled s slot.val p q)
    let done := q.pauses.filter settledOver
    let kept := (q.pauses.filter (fun x => !settledOver x)).map (fun x =>
      { x with left := x.left.filter (fun r => !settled s slot.val p q r) })
    Act.seq (setRun slot.val (fun q => { q with pauses := kept })) (finishPauses done q.step q.restarts) s)) s

/-- ABORT (R294): the run's outputs are undefined. -/
def abortCommand (h : Hdr) (slot : Byte) : Act :=
  slotCommand h slot 32 (fun n v _ =>
    match v.run with
    | none => finish h stDone
    | some q => Act.all [spoil n, endRun n (some { Reply.of stAborted with restarts := q.restarts }), finish h stDone])

def execAbort (h : Hdr) (slot : Byte) (s : State) : Host.Outcome State Fault Refusal :=
  (command h false (abortCommand h slot)).run s

/-- SEED_STREAMS (R210). -/
def seedCommand (h : Hdr) (slot : Byte) (seed adv : Dword) : Act :=
  slotCommand h slot 32 (fun n v _ =>
    Act.seq (Act.of [.slot n { v with seed := seed, advance := adv }]) (finish h stDone))

def execSeedStreams (h : Hdr) (slot : Byte) (seed adv : Dword) (s : State) : Host.Outcome State Fault Refusal :=
  (command h false (seedCommand h slot seed adv)).run s

/-! ### Dispatch (R268, R269, R306, R315) -/

/-- Whether core `c` is free for a record of a plan: one record of the plan at a time, and one LANE record beside one of another opcode
(R268). Its lane engine runs one lane-program record at a time, whose plan alone it is unless a LIVE one preempts it (R182, R184). -/
def coreFree (s : State) (n : Nat) (lane : Bool) (c : Nat) : Bool :=
  !((s.core c).busy.any (fun b => (b.1 == n && isLaneRec s b == lane)
    || (lane && isLaneRec s b && !(slotClass s n == 0 && slotClass s b.1 != 0))))

/-- Whether something other than records keeps a core from starting one: a reset (R298), the exchange of a rotation (R32), the
epilogue part of a fill (R84), a gated domain (R31), a retest that is due (R375, R394), or a margin probe for a class below LIVE
(R317). -/
def coreOpen (s : State) (cls c : Nat) : Bool :=
  !s.resets.any (fun r => r.fid.toNat == srcCore c) && (s.tile (c / 16)).exchange.all (fun x => c % 16 != x.1.val && c % 16 != x.2.val)
    && !s.fills.any (fun f => f.core == c) && !(s.core c).escaped && !(s.core c).doubted && decide ((s.rail (srcCore c)).rail ≠ .gated)
    && (!(s.core c).probe || cls == 0)

/-- Passes and promotions of a waiting record (R315). -/
def Run.age (q : Run) (r : Nat) : Nat × Nat := ((q.aged.find? (fun x => x.1 == r)).map (·.2)).getD (0, 0)

/-- The class of a waiting record: promotion stops at INTERACTIVE (R315). -/
def recordClass (p : Plan) (q : Run) (r : Nat) : Nat := if p.cls ≤ 1 then p.cls else max 1 (p.cls - (q.age r).2)

/-- Records that are ready with their hooks: slot, record, class and cores, in the order in which they became ready (R306). -/
def waitingRecords (s : State) : List (Nat × Nat × Nat × List Nat) :=
  let l := readyRecords s
  ((s.ready.filter l.contains) ++ l.filter (fun x => !s.ready.contains x)).filterMap (fun x => match runOf s x.1 with
    | none => none
    | some (p, q) => some (x.1, x.2, recordClass p q x.2, recCores s p (p.record x.2)))

/-- Whether a waiting record `x` gives way to a lower record of its kind of its own plan (R268). -/
def givesWay (p : Plan) (l : List (Nat × Nat × Nat × List Nat)) (x : Nat × Nat × Nat × List Nat) : Bool :=
  l.any (fun y => y.1 == x.1 && decide (y.2.1 < x.2.1) && ((p.record y.2.1).opcode == 9) == ((p.record x.2.1).opcode == 9)
    && y.2.2.2.any x.2.2.2.contains)

/-- Whether a record may take its cores: they are open and free, no lower record of its kind of its plan waits for one of
them (R268), and no record of another plan could take one of them now that is of a higher class, or of its class and ready before it,
be another of that record's cores still taken (R306). -/
def mayStart (s : State) (n : Nat) (p : Plan) (q : Run) (r : Nat) : Bool :=
  let cs := recCores s p (p.record r)
  let lane := (p.record r).opcode == 9
  let cls := recordClass p q r
  let l := waitingRecords s
  let before := l.takeWhile (fun x => !(x.1 == n && x.2.1 == r))
  !cs.isEmpty && cs.all (fun c => coreFree s n lane c && coreOpen s p.cls c)
    && !givesWay p l (n, r, cls, cs)
    && l.all (fun x => x.1 == n || !(decide (x.2.2.1 < cls) || (x.2.2.1 == cls && before.contains x))
      || (runOf s x.1).any (fun v => givesWay v.1 l x)
      || x.2.2.2.all (fun c => !cs.contains c || !(coreOpen s x.2.2.1 c && coreFree s x.1 (isLaneRec s (x.1, x.2.1)) c)))

/-- Patience of a class (R315). -/
def patience (s : State) (cls : Nat) : Nat := if cls = 2 then s.status.bulkPatience.toNat else s.status.bgPatience.toNat

/-- Records of lower classes that wait for a core of a dispatched record are passed over (R315). -/
def passOver (n r cls : Nat) (cs : List Nat) : Act := fun s =>
  Act.each (fun x => setRun x.1 (fun q =>
      let a := q.age x.2.1
      let b : Nat × Nat := if patience s x.2.2.1 ≤ a.1 + 1 then (0, a.2 + 1) else (a.1 + 1, a.2)
      { q with aged := (x.2.1, b) :: q.aged.filter (fun y => y.1 != x.2.1) }))
    ((waitingRecords s).filter (fun x => !(x.1 == n && x.2.1 == r) && decide (cls < x.2.2.1) && decide (1 < x.2.2.1)
      && x.2.2.2.any cs.contains)) s

/-- The splits of a LANE record go to their cores, from their contexts where it has any, and units are dealt (R170, R186). -/
def startLanes (n r : Nat) : Act := fun s =>
  match recordCtx s n r with
  | none => []
  | some (c, q) =>
    let runs := (laneSplits c).filterMap (fun x => (homeCore s c.plan x.1).map (fun k =>
      (k, (q.laneContexts.find? (fun y => y.record == r && y.split == x.2.split)).getD x.2)))
    Act.seq (setRun n (fun q => { q with laneContexts := q.laneContexts.filter (fun y => y.record != r) }))
      (Act.seq (Act.each (fun x => fun s => [.core x.1 { s.core x.1 with laneRuns := (s.core x.1).laneRuns ++ [x.2] }]) runs)
        (Act.each dealCore ((runs.map (·.1)).eraseDups))) s

/-- A record starts on its cores; a LIVE one stops the margin probes there (R317). -/
def startRecord (n r : Nat) : Act := withRun n (fun p q => fun s =>
  let cs := recCores s p (p.record r)
  Act.all [passOver n r (recordClass p q r) cs,
    setRun n (fun q => { q with
      inFlight := q.inFlight ++ [r]
      aged := q.aged.filter (fun x => x.1 != r)
      reports := q.reports.filter (fun m => m.record != r) }),
    Act.of (cs.map (fun c => .core c { s.core c with busy := (s.core c).busy ++ [(n, r)], probe := false })),
    fun s => (recordCtx s n r).elim [] (fun x => taintAct x.1 s),
    Act.when ((p.record r).opcode == 9 || laneConv (p.record r)) (startLanes n r)] s)

/-- RECORD_DISPATCH: a ready record joins its hook's queue, or starts on its cores (R268, R269). -/
def execRecordDispatch (slot : SlotId) (r : Nat) (s : State) : Host.Outcome State Fault Refusal :=
  Act.run (withRun slot.val (fun p q => fun s =>
    if !q.ready p r then []
    else if !q.hookHeld p r then
      Act.seq (setRun slot.val (fun q => { q with waiting := q.waiting ++ [r] }))
        (acquireHook (p.record r).waitHook (.record slot r)) s
    else if mayStart s slot.val p q r then startRecord slot.val r s
    else [])) s

/-- RECORD_COMPLETE (R269): the record's outputs are visible, undefined ones as free values (R70, R242, R260), its hook is released once in
the run, the cores are free and the run goes on. -/
def execRecordComplete (slot : SlotId) (r : Nat) (s : State) : Host.Outcome State Fault Refusal :=
  Act.run (withRun slot.val (fun p q => fun s =>
    let rc := p.record r
    if !q.inFlight.contains r || !q.bodyDone.contains r || (rc.collective && !q.summed.contains r) then []
    else
      Act.all [
        Act.when (outputsOpen s slot.val p q r) (spoilRecord slot.val r),
        setRun slot.val (fun q => { q with
          inFlight := q.inFlight.filter (· != r)
          bodyDone := q.bodyDone.filter (· != r)
          completed := q.completed ++ [r] }),
        Act.of ((s.cores.filter (fun x => x.2.busy.contains (slot.val, r))).map (fun x =>
          .core x.1 { x.2 with busy := x.2.busy.filter (· != (slot.val, r)) })),
        restoreParked slot.val r,
        Act.when (rc.signalHook != 0xFFFF && !q.released.contains r)
          (Act.seq (setRun slot.val (fun q => { q with released := r :: q.released }))
            (releaseHook rc.signalHook 1 (srcSlot slot.val) true)),
        retireCores, redeal, advance slot.val] s)) s

/-! ### Marks of bound runs and periods (R310 to R314) -/

/-- A late mark (R312, rule 1). -/
def Run.lateMark (q : Run) : Run := { q with tierInForce := q.tierInForce - 1, onTime := 0, regained := false }

/-- A mark at which the schedule is regained (R312, rules 2 and 4). -/
def Run.regain (q : Run) : Run :=
  if q.onTime = 8 then { q with regained := true, onTime := 0, tierInForce := min 3 (q.tierInForce + 1) }
  else { q with regained := true }

/-- A mark of source `src` reaches a run that is bound to it (R310 to R312). -/
def markRun (n : Nat) (src : Fin 8) (seq : Word) : Act := withRun n (fun _ q =>
  if q.src != some src || q.paused then Act.none
  else
    let skip := decide (16 ≤ q.pending.length)
    let queue := if skip then q.pending else q.pending ++ [⟨seq, false⟩]
    let late := skip || decide (1 < queue.length)
    let k := if skip then queue.length else queue.length - 1
    let fresh := ((queue.take k).filter (fun v => late && !v.late)).map (·.seq)
    let queue' := queue.zipIdx.map (fun x => if late ∧ x.2 < k then { x.1 with late := true } else x.1)
    let q' := if late then q.lateMark else q.regain
    Act.all [
      Act.when skip (Act.of [.count (counterId (srcSlot n) 3) 1, .ledger 0x0202 (srcSlot n) (toLE 4 seq.toNat)]),
      Act.each (fun v => Act.of [.count (counterId (srcSlot n) 2) 1,
        .ledger 0x0200 (srcSlot n) (toLE 4 v.toNat)]) fresh,
      setRun n (fun _ => { q' with pending := queue' }),
      tierChange n q.tierInForce q'.tierInForce])

/-- The schedule that a run keeps. -/
def Run.schedule (q : Run) : Schedule := ⟨q.tierInForce, q.onTime, q.regained, min q.pending.length 16⟩

/-- The tier of a period that starts: in a bound pair the lower of the two twins' (R312, R314). -/
def periodTier (s : State) (n : Nat) (q : Run) : Nat :=
  if s.paired then min q.tierInForce ((s.twin.partnerTiers.lookup n).getD 3) else q.tierInForce

/-- The schedule at which a period may start now: on a pair's follower the one agreed, where the start has been (R314). -/
def startSchedule (s : State) (n : Nat) (q : Run) : Option Schedule :=
  (s.twin.starts.lookup n).or (if s.paired && !orderer s then none else some { q.schedule with tier := periodTier s n q })

/-- PERIOD_START (R310, R314): the next pending period of an idle bound run starts; in a pair the start has its place in the agreed
order. -/
def execPeriodStart (slot : SlotId) (s : State) : Host.Outcome State Fault Refusal :=
  Act.run (withRun slot.val (fun _ q => fun s =>
    match q.pending, startSchedule s slot.val q with
    | v :: _, some t =>
      if q.src.isNone || q.active || q.paused || q.saving.isSome then []
      else Act.all [(if orderer s then giveNumber (.start slot.val t) else Act.none),
        fun s => [.twin { s.twin with starts := s.twin.starts.eraseP (fun x => x.1 == slot.val) }],
        startPass slot.val, bumpAct (srcSlot slot.val) 1 1,
        setRun slot.val (fun q => { q with period := v.seq, tier := t.tier, agreed := some t }), advance slot.val] s
    | _, _ => [])) s

end Sys2Proof.Machine
end

