-- ==== Sys2Proof/Machine/Landings.lean ====
section
/-! DEFINITION. Sys2Proof/Machine/Landings.lean: landings and their confirmation (R385 to R388), restarts of jobs (R380 to R384)
and the step-out of a twin (R395). -/
namespace Sys2Proof.Machine

/-! ### The bytes of a landing (R388) -/

/-- TABLE_ID of a table set (R196). -/
def TableSet.ident : TableSet → Nat
  | .standard => 0
  | .c12 => 0xC12
  | .loaded id _ => id.toNat

/-- The table set of a job's generation (R198). -/
def jobSet (s : State) (gen : Nat) : TableSet := tableSetOf s gen 0

/-- The schedule that a landing records: in a pair the one agreed as the period started, so that the twins' landings compare equal (R312,
R314; DEDUCED, notes/assumptions/35.md). -/
def landingSchedule (s : State) (q : Run) : Schedule := if s.paired then q.agreed.getD q.schedule else q.schedule

/-- The landing header, its digest and the bytes after byte 127 aside (R388). -/
def landingHeader (s : State) (n : Nat) (p : Plan) (q : Run) (digest : Nat) : List Byte :=
  let v := landingSchedule s q
  toLE 2 1 ++ toLE 1 q.tier ++ toLE 1 v.depth ++ toLE 4 q.landings.next ++ toLE 4 q.step
    ++ toLE 2 ((s.slot n).epoch - 1).toNat ++ toLE 1 (b2n v.regained + 2 * v.onTime) ++ toLE 1 v.tier
    ++ toLE 8 q.seed.toNat ++ toLE 8 (jobSet s q.gen).ident ++ toLE 8 q.gen ++ toLE 4 q.period.toNat ++ toLE 4 0
    ++ toLE 8 digest ++ toLE 8 0 ++ p.digest

/-- The listed tensors of a landing, each padded to 512 bytes, then the trays (R388). -/
def landingBody (s : State) (n : Nat) (p : Plan) : List Byte :=
  p.landing.list.flatMap (fun i => padTo (roundUp 512 (p.extent i))
      (planBytes s (p.tensor i).sealed (localPart (p.tensor i).base) (p.extent i)))
    ++ p.trays.flatMap (fun x => memBytes s (trayAddr s n p x.1 x.2) (p.trayLen x.1))

/-- A whole landing with its digest (R388). -/
def landingBytes (s : State) (n : Nat) (p : Plan) (q : Run) : Dword × List Byte :=
  let rest := List.replicate (65536 - 128) 0 ++ landingBody s n p
  let d := crc64 (landingHeader s n p q 0 ++ rest)
  (BitVec.ofNat 64 d, landingHeader s n p q d ++ rest)

/-- Whether a plan's landings are written to sealed regions (R82). -/
def Plan.sealedLanding (s : State) (p : Plan) : Bool := !(p.keys s).isEmpty

/-! ### Confirmation (R386) -/

/-- A landing is confirmed: it is the resume landing, and its copy to COPY1 starts (R386). -/
def confirm (n k : Nat) : Act :=
  setRun n (fun q => { q with
    consecutive := 0
    landings := { q.landings with
      waiting := none
      resume := some (k, false)
      resumeGen := q.gen
      copying := true
      notices := q.landings.notices.filter (fun x => decide (k < x.2.1)) } })

/-! ### The step-out of a twin (R395) -/

/-- Packets that both twins ran, when one steps out: the one that goes on has the last word, and a reply that it has given is written
(R394, R395). The twin that stops drops what it was to run. -/
def settleTwin (own : Bool) : Act := fun s =>
  let t := s.twin
  let said (f : Forwarded) : Option Reply := if own then f.partner else f.own
  let t' : Twin := { t with forwarded := t.forwarded.filter (fun f => (said f).isNone) }
  let shared (i : Instr) : Bool := (instrHdr i).any (fun h => h.partner.isSome || t.forwarded.any (fun f => decide (f.hdr = h)))
  Act.seq
    (Act.of (if own then [.twin { t' with
        waiting := []
        requests := []
        carried := [] }, .started (s.started.filter (fun i => !shared i))]
      else [.twin { t' with asked := [] }]))
    (Act.each (fun f : Forwarded => match said f with
      | some r => replyEffs f.hdr r
      | none => Act.none) t.forwarded) s

/-- What a twin that steps out says: a record, an event and a STEP_OUT message (R395, R436). -/
def stepOutTell : Act := fun s =>
  if !s.twin.bound || s.twin.steppedOut || s.twin.partnerOut then []
  else Act.all [logAct 0x0113 0 (toLE 1 (b2n s.twin.mode)), eventAct 2, sendTwin 9 0 []] s

/-- A twin steps out: it executes nothing more, and the survivor continues (R395). -/
def stepOutAct (own : Bool) : Act := fun s =>
  let t := s.twin
  let which := b2n (t.mode == own)
  if !t.bound || t.steppedOut || t.partnerOut then []
  else
    let runs := (List.range 16).filter (fun n => (s.slot n).run.isSome)
    let confirmed := Act.each (fun n => withRun n (fun _ q => match q.landings.waiting with
      | some (k, _) => confirm n k
      | none => Act.none)) runs
    Act.all [logAct 0x0113 0 (toLE 1 which), eventAct 2,
      (if own then Act.all [sendTwin 9 0 [],
          Act.each (fun n => fun s => Act.seq (discardWork n) (fun s => [.slot n { s.slot n with run := none }]) s) runs,
          fun s => [.twin { s.twin with
            steppedOut := true
            writes := []
            releasing := none }], settleTwin true]
        else Act.all [fun s => [.twin { s.twin with
            partnerOut := true
            releasing := none }], settleTwin false, confirmed])] s

/-! ### The copy (R383, R386) -/

/-- LANDING_COPY_COMPLETE (R386, R383): COPY0 has been copied to COPY1, with any word that is uncorrectable. -/
def execLandingCopyComplete (slot : SlotId) (s : State) : Host.Outcome State Fault Refusal :=
  Act.run (withRun slot.val (fun p q => fun s =>
    let l := p.landing
    if !q.landings.copying then []
    else
      Act.all [
        (if p.sealedLanding s then
            Act.all [meetRange l.copy0 p.landingSize, planStore true l.copy1 (planBytes s true l.copy0 p.landingSize),
              Act.of ((badWords s l.copy0 p.landingSize).map (fun v => .ecc (phys (l.copy1 + (v - l.copy0)) / 8) (some (.double false))))]
          else moveBytes l.copy0 l.copy1 p.landingSize),
        setRun slot.val (fun q => { q with landings := { q.landings with
          copying := false
          resume := q.landings.resume.map (fun x => (x.1, true)) } })] s)) s

/-! ### Restarts (R380 to R384) -/

/-- The copies that may hold the resume landing, in order of use (R383, R386). DEDUCED: where landing 0 has been written and not confirmed,
there is none, and the run starts again from what COPY0 holds of its start (notes/assumptions/50.md). -/
def resumeCopies (p : Plan) (q : Run) : List Nat :=
  match q.landings.resume with
  | some (_, true) => p.landing.copy1 :: (if q.landings.waiting.isNone then [p.landing.copy0] else [])
  | some (_, false) => [p.landing.copy0]
  | none => if q.landings.waiting.isSome then [p.landing.copy0] else []

/-- The run at a landing's step, from its header (R211, R312, R381, R388). Records of the steps before have completed. -/
def resumeAt (p : Plan) (q : Run) (hd : List Byte) : Run :=
  let step := fieldLE hd 8 4
  let before := (p.steps.take step).flatMap id
  { q with
    step := step
    tier := fieldLE hd 2 1
    tierInForce := fieldLE hd 15 1
    regained := bit (fieldLE hd 14 1) 0
    onTime := bits (fieldLE hd 14 1) 4 1
    seed := BitVec.ofNat 64 (fieldLE hd 16 8)
    gen := fieldLE hd 32 8
    period := BitVec.ofNat 32 (fieldLE hd 40 4)
    completed := before
    summed := q.summed.filter before.contains
    reports := q.reports.filter (fun m => before.contains m.record)
    landings := { q.landings with due := false, next := fieldLE hd 4 4, waiting := none, notices := [] } }

/-- The run from its first record again (R385). -/
def resumeStart (p : Plan) (q : Run) : Run :=
  { q with
    step := 0
    completed := []
    summed := []
    reports := []
    landings := { q.landings with due := p.landing.every != 0, next := 0, waiting := none, notices := [] } }

/-- Region IDs of a plan's sealed tensors. -/
def Plan.sealedIds (s : State) (p : Plan) : List Dword :=
  ((p.tensors.filter (·.sealed)).filterMap (fun t => (regionAt s (phys (localPart t.base))).map (·.2.rid))).eraseDups

/-- A landing is copied back: the listed tensors to their extents, the trays to their holders (R381), whose shelves a sealed landing
taints (R84, R255). -/
def copyBack (n : Nat) (p : Plan) (a : Nat) : Act := fun s =>
  let sealedCopy := p.sealedLanding s
  let put (acc : Nat × List Act) (size : Nat) (f : List Byte → Act) : Nat × List Act :=
    (acc.1 + roundUp 512 size, acc.2 ++ [f (planBytes s sealedCopy acc.1 size)])
  let x := p.landing.list.foldl (fun acc i => put acc (p.extent i) (fun b =>
    planStore (p.tensor i).sealed (localPart (p.tensor i).base) b)) (a + 65536, [])
  let y := p.trays.foldl (fun acc t => put acc (p.trayLen t.1) (fun b => storeMem (trayAddr s n p t.1 t.2) b)) x
  Act.all [meetRange a p.landingSize, Act.all y.2,
    Act.when sealedCopy (taintShelves (p.sealedIds s) (p.pageSets.flatMap (trayCores s p)))] s

/-- The landing number that a restart resumes from. -/
def resumeNumber (q : Run) : Nat := (q.landings.resume.map (·.1)).getD 0

/-- Step 4 and 5 of a restart: the resume landing comes back, or the run starts again, and the restart is counted (R381,
R384). -/
def resumeRun (n source : Nat) : Act := withRun n (fun p q => fun s =>
  let finish : Act := Act.all [
    setRun n (fun q => { q with restarts := q.restarts + 1, consecutive := q.consecutive + 1 }),
    bumpAct (srcSlot n) 4 1,
    withRun n (fun _ q => logAct 0x0110 (srcSlot n)
      (toLE 2 (min q.restarts 0xFFFF) ++ toLE 2 0 ++ toLE 4 (resumeNumber q) ++ toLE 2 source)),
    advance n]
  match resumeCopies p q with
  | [] => Act.seq (setRun n (resumeStart p)) finish s
  | cs =>
    match cs.find? (fun a => (badWords s a p.landingSize).isEmpty) with
    | none => Act.seq (Act.each (fun a => meetRange a p.landingSize) cs) (fun s => if s.paired then stepOutAct true s else degrade n 4 s) s
    | some a =>
      let hd := planBytes s (p.sealedLanding s) a 128
      let q' := if q.landings.resume.isNone then resumeStart p q else resumeAt p q hd
      Act.all [Act.each (fun b => meetRange b p.landingSize) (cs.takeWhile (· != a)), copyBack n p a, setRun n (fun _ => q'), tierChange n q.tierInForce q'.tierInForce, finish] s)

/-- A bank's retest: its copy to a spare and its test, where the layer or hub has a spare (R77, R376). -/
def retestBank (k : Nat) : Act := fun s =>
  let b := s.bank k
  if b.copy.isSome || b.inPlace || bankSpares s k == 0 then [] else bankGrown k { b with copy := some (0, true) }

/-- Every unit with an uncorrectable word of a job's landing set is retested with its restart (R75, R383): a bank by its copy and test, a
core by a JOB_RESTART that names it. -/
def retestWords (n : Nat) (p : Plan) : Act := fun s =>
  let ws := (landingRanges s n p).flatMap (fun x => (eccIn s x.1 x.2).filterMap (fun e =>
    if e.2.2 == .double true then some (8 * e.2.1) else none))
  Act.seq (Act.each retestBank ((ws.filterMap bankKey).eraseDups))
    (Act.each (fun c => fun s => [.core c { s.core c with escaped := true }])
      (((ws.filter (fun a => (bankKey a).isNone)).filterMap shelfCore).eraseDups)) s

/-- A restart of a job (R381): its work is discarded and its members told, a failed unit is sheeted, the limits of R389 are
checked and the job resumes. In a bound pair, cases 1, 2 and 4 end in a step-out (R395). -/
def restartJob (n source : Nat) (tell : Bool) (retire : Act) : Act := withRun n (fun p _ =>
  Act.all [
    discardWork n,
    retestWords n p,
    fun s => Act.when tell (Act.seq (sendAll ((p.peers s).map (fun d => .restart (deviceNumber s) d n))) (Act.when s.paired (sendTwin 8 n []))) s,
    retire, retireCores,
    setRun n (fun q => { q with stopped := none }),
    fun s => match runOf s n with
      | none => []
      | some (p, q) =>
        match degradedCase s p with
        | some c => if s.paired && c != 3 then stepOutAct true s else degrade n c s
        | none => if 3 ≤ q.consecutive then degrade n 5 s else resumeRun n source s,
    redeal])

/-- Ledger source of a restart's cause (R384, R436). -/
def causeSource : FaultCause → Nat
  | .core c _ => srcCore (coreIx c)
  | .landingWord a _ => (eccUnit (phys a)).1
  | .landingCrate _ c _ => srcCore (coreIx c)
  | .gcmTag p => srcLink p.val
  | .reset f => f.toNat
  | .notice _ => 0

/-- Whether a job has work in flight that a fault's cause ends (R380). A reset stops the jobs it hits when it starts; they restart
once it is over (R303, R381). -/
def causeHits (s : State) (n : Nat) (p : Plan) (q : Run) : FaultCause → Bool
  | .core c _ => (s.core (coreIx c)).escaped && (s.core (coreIx c)).busy.any (fun b => b.1 == n && !stoppedOn s (coreIx c) b)
  | .landingWord a _ => q.active && p.landing.every != 0 && (landingRanges s n p).any (fun x => (eccIn s x.1 x.2).any (fun e =>
      e.2.1 == phys a / 8 && e.2.2 == .double true))
  | .landingCrate i k _ => q.active && q.inFlight.any (fun r => !q.bodyDone.contains r && ((recordCtx s n r).any (fun x =>
      (landingCrates x.1 (recordParts x.1)).any (fun y => y.1 == coreIx k && y.2.2.1 == i))))
  | .gcmTag _ => s.xfers.any (fun x => decide (2 ≤ max x.tagFails x.dataFails) && (match x.owner with
      | .record m _ => m.val == n
      | .command _ => false))
    || s.colls.any (fun x => x.2.badTags.any (fun b => (collectiveIds s n p).contains b.1 && decide (1 < x.2.badTags.count b)))
  | .reset f => decide (q.stopped = some f) && !s.resets.any (fun r => r.fid == f)
  | .notice _ => q.active

/-- A core's retest after a fault that has escaped (R375, R376): where other jobs still have work on it the outcome waits for their
restarts, a core that fails is sheeted, and one that passes goes on. A twin whose retest after unequal digests fails steps out (R395). -/
def retestCore (c : Nat) (pass : Bool) : Act := fun s =>
  let k := s.core c
  let failed := k.failed || !pass
  if !coreQuiet s c then [.core c { k with failed := failed }]
  else if failed then Act.seq (retireCore c 2) (Act.when k.doubted (stepOutAct true)) s
  else [.core c { k with
    escaped := false
    doubted := false }]

/-- The retest that a cause calls for (R376, R381): of the core, of what holds a word, or of the lanes of the port whose message failed its
tag, by their PRBS test (RETUNE_COMPLETE). A reset is its own retest (R303). -/
def causeRetire : FaultCause → Act
  | .core c pass => retestCore (coreIx c) pass
  | .landingCrate _ c pass => Act.seq (fun s => [.core (coreIx c) { s.core (coreIx c) with escaped := true }]) (retestCore (coreIx c) pass)
  | .landingWord a pass => match bankKey (phys a), shelfCore (phys a) with
    | some k, _ => retestBank k
    | none, some c => Act.seq (fun s => [.core c { s.core c with escaped := true }]) (retestCore c pass)
    | none, none => Act.none
  | .gcmTag p => fun s => [.link p.val { s.link p.val with testing := ((s.link p.val).active ++ (s.link p.val).testing).eraseDups }]
  | .reset _ => Act.none
  | .notice _ => Act.none

/-- The core that awaits a retest although no job has work on it: its jobs have ended or restarted for another cause (R375, R383, R394). -/
def retestOnly (s : State) : FaultCause → Bool
  | .core c _ => ((s.core (coreIx c)).escaped || (s.core (coreIx c)).doubted) && coreQuiet s (coreIx c)
  | _ => false

/-- Whether a cause is told to the other members and the partner (R352). -/
def causeTells : FaultCause → Bool
  | .notice _ => false
  | _ => true

/-- JOB_RESTART (R380 to R384). -/
def execJobRestart (slot : SlotId) (cause : FaultCause) (s : State) : Host.Outcome State Fault Refusal :=
  Act.run (fun s =>
    if retestOnly s cause then causeRetire cause s
    else withRun slot.val (fun p q => fun s =>
      if causeHits s slot.val p q cause then restartJob slot.val (causeSource cause) (causeTells cause) (causeRetire cause) s
      else []) s) s

/-- RESTART_NOTICE (R352, R389): a member's restart ends the collectives of the job and restarts it, and its end DEVICE_DEGRADED ends it;
another member's is passed on (R332). -/
def execRestartNotice (port : LinkId) (notice : Notice) (s : State) : Host.Outcome State Fault Refusal :=
  let n := notice.slot.val
  let m : Sent := match notice.ended with
    | some k => .ended notice.src.toNat notice.dst.toNat n k.val
    | none => .restart notice.src.toNat notice.dst.toNat n
  Act.run (Act.seq (takeMessage port m) (fun s =>
    if notice.dst.toNat ≠ deviceNumber s then relay port m s
    else withRun n (fun p q => fun s =>
      if !((p.peers s).contains notice.src.toNat || s.paired) then []
      else match notice.ended with
        | some k => degradeHere n k.val s
        | none => Act.when q.active (restartJob n 0 false Act.none) s) s)) s

/-- Whether the notices that a written landing needs have arrived: every member's for the same number, and the partner's (R386). -/
def noticesIn (s : State) (p : Plan) (q : Run) (k : Nat) : Bool :=
  (p.peers s).all (fun d => q.landings.notices.any (fun x => x.1 == d && x.2.1 == k))
    && (!s.paired || q.landings.notices.any (fun x => x.1 == 0xFFF && x.2.1 == k))

/-- Every core that ran a job is to be retested (R394). -/
def doubtCores (n : Nat) : Act := fun s =>
  match (s.slot n).plan with
  | none => []
  | some p => ((p.records.flatMap (recCores s p)).eraseDups).map (fun c => .core c { s.core c with doubted := true })

/-- A written landing is confirmed once its notices have arrived; a partner's digest that differs restarts the job from the
landing before, and the cores that ran it are retested (R386, R394). -/
def tryConfirm (n : Nat) : Act := withRun n (fun p q => fun s =>
  match q.landings.waiting with
  | none => []
  | some (k, d) =>
    match q.landings.notices.find? (fun x => x.1 == 0xFFF && x.2.1 == k && x.2.2 != d) with
    | some x => Act.all [logAct 0x0112 (srcSlot n) (toLE 4 k ++ toLE 4 0 ++ toLE 8 d.toNat ++ toLE 8 x.2.2.toNat),
        restartJob n 0 false (doubtCores n)] s
    | none => if noticesIn s p q k then confirm n k s else [])

/-- Whether a landing may be written: it is due, the step before is over with its collectives, and the previous landing is
confirmed and copied (R350, R385, R386). -/
def landingMay (p : Plan) (q : Run) : Bool :=
  q.active && q.stopped.isNone && q.landings.due && q.inFlight.isEmpty && q.collectives.isEmpty && (p.collectivesBefore q.step).all q.summed.contains
    && q.landings.waiting.isNone && !q.landings.copying

/-- LANDING (R385, R386, R388): the landing is written to COPY0 with its digest, and the job takes the current table generation
(R198). A word of the landing set that stays uncorrectable is met, and the job restarts (R75, JOB_RESTART). -/
def execLanding (slot : SlotId) (s : State) : Host.Outcome State Fault Refusal :=
  Act.run (withRun slot.val (fun p q => fun s =>
    let n := slot.val
    if !landingMay p q then []
    else
      let rs := landingRanges s n p
      let meetAll : Act := Act.each (fun x => meetRange x.1 x.2) rs
      if rs.any (fun x => !(badWords s x.1 x.2).isEmpty) then meetAll s
      else
        Act.all [meetAll, setRun n (fun q => { q with gen := s.tables.generation }),
          withRun n (fun p q => fun s =>
            let b := landingBytes s n p q
            Act.all [planStore (p.sealedLanding s) p.landing.copy0 b.2,
              setRun n (fun q => { q with landings := { q.landings with
                due := false
                waiting := some (q.landings.next, b.1) } }),
              sendAll ((p.peers s).map (fun d => .landing (deviceNumber s) d n q.landings.next b.1)),
              Act.when s.paired (send (.landing (deviceNumber s) 0xFFF n q.landings.next b.1))] s),
          tryConfirm n, advance n] s)) s

/-- LANDING_NOTICE (R386, R394): a member's confirmation, or the partner's digest (from 0xFFF); another member's is passed on (R332). -/
def execLandingNotice (port : LinkId) (notice : Notice) (number : Word) (digest : Dword) (s : State) :
    Host.Outcome State Fault Refusal :=
  let n := notice.slot.val
  let m := Sent.landing notice.src.toNat notice.dst.toNat n number.toNat digest
  Act.run (Act.seq (takeMessage port m) (fun s =>
    if notice.dst.toNat ≠ deviceNumber s then relay port m s
    else withRun n (fun _ _ =>
      Act.seq (setRun n (fun q => { q with landings := { q.landings with
          notices := (notice.src.toNat, number.toNat, digest) :: q.landings.notices } }))
        (tryConfirm n)) s)) s

/-- RUN (R294), unless the job meets a case of R389; in a bound pair a twin that meets one alone steps out (R395). -/
def runCommand (h : Hdr) (slot src : Byte) : Act :=
  slotCommand h slot 32 (fun n v p => fun s =>
    let m := src.toNat
    if 7 < m ∧ m ≠ 0xFF then complete h (Reply.badField 33) s
    else if v.running then finish h stBusy s
    else match degradedCase s p with
    | some c => if s.paired && c != 3 then stepOutAct true s else finish h stDegraded s
    | none =>
      let bound : Option (Fin 8) := if m = 0xFF then none else some (Fin.ofNat 8 m)
      Act.all [bumpAct (srcSlot n) 0 1, Act.of [.slot n { v with run := some (newRun s h n bound) },
          .twin { s.twin with
            partnerTiers := s.twin.partnerTiers.filter (fun x => x.1 != n)
            starts := s.twin.starts.filter (fun x => x.1 != n) }],
        (if bound.isNone then Act.seq (startPass n) (advance n) else finish h stAccepted)] s)

def execRun (h : Hdr) (slot src : Byte) (s : State) : Host.Outcome State Fault Refusal :=
  (command h false (runCommand h slot src)).run s

/-- RESUME continues a paused run (R294, R378), unless its remapped cores no longer allow it (R389, R395). -/
def resumeCommand (h : Hdr) (slot : Byte) : Act :=
  slotCommand h slot 32 (fun n v p => fun s =>
    match v.run with
    | none => finish h stDone s
    | some q =>
      if !q.paused then finish h stDone s
      else match degradedCase s p with
        | some c => if s.paired && c != 3 then stepOutAct true s else Act.seq (degrade n c) (finish h stDone) s
        | none => Act.all [setRun n (fun q => { q with paused := false }), redeal, advance n, finish h stDone] s)

def execResume (h : Hdr) (slot : Byte) (s : State) : Host.Outcome State Fault Refusal :=
  (command h false (resumeCommand h slot)).run s

/-- STEP_OUT (R395): this twin, or the partner, steps out. -/
def execStepOut (own : Bool) (s : State) : Host.Outcome State Fault Refusal := (stepOutAct own).run s

end Sys2Proof.Machine
end

