-- ==== Sys2Proof/Machine/Sealing.lean ====
section
/-! DEFINITION. Sys2Proof/Machine/Sealing.lean: link messages that carry sealed data (R86, R353): their keys, IV, authenticated data and
tag. -/
namespace Sys2Proof.Machine

/-- Key slot of the region that holds a local address, if it is sealed (R79). -/
def rangeKey (s : State) (a : Nat) : Option Nat := (regionAt s (phys a)).map (·.2.key)

/-- The key slot that holds the key of an ID, the lowest of them (R79, R86). -/
def keyById (s : State) (id : Word) : Option (Nat × KeySlot) :=
  (List.range 64).findSome? (fun i => match s.key i with
    | some k => if k.keyId = id then some (i, k) else none
    | none => none)

/-- The GCM IV of a transfer: the sender's number in [95:84] and the transfer counter in [63:0] (R86). -/
def transferIv (dev ctr : Nat) : List Byte := toLE 12 (dev * 2 ^ 84 + ctr)

/-- The additional authenticated data of a message: its destination's domain address (R86). -/
def transferAad (dst addr : Nat) : List Byte := toLE 8 (dst * 2 ^ 40 + addr)

/-- A key slot whose transfer counter has been used once more; none once the counter has run out (R86). -/
def KeySlot.spend (k : KeySlot) : Option KeySlot :=
  if k.transferCtr = BitVec.allOnes 64 then none else some { k with transferCtr := k.transferCtr + 1 }

/-- A message sealed under a key (R86). -/
def sealMsg (k : KeySlot) (m : Msg) : Msg :=
  let r := gcmSeal k.dataKey (transferIv m.src.toNat k.transferCtr.toNat) (transferAad m.dst.toNat m.addr.toNat) m.data
  { m with sealed := true, ctr := k.transferCtr, data := r.1, gcmTag := r.2, keyId := k.keyId }

/-- The plaintext of a sealed message under a key, or none where its tag fails (R86). -/
def openMsg (k : KeySlot) (m : Msg) : Option (List Byte) :=
  gcmOpen k.dataKey (transferIv m.src.toNat m.ctr.toNat) (transferAad m.dst.toNat m.addr.toNat) m.data m.gcmTag

/-- A SUM or DWAIT message sealed under a key, and opened; its address is that of its header (R86, R353). -/
def sealSum (k : KeySlot) (m : SumMsg) : SumMsg :=
  let r := gcmSeal k.dataKey (transferIv m.src.toNat k.transferCtr.toNat) (transferAad m.dst.toNat m.chunk) m.data
  { m with sealed := true, ctr := k.transferCtr, data := r.1, gcmTag := r.2, keyId := k.keyId }
def openSum (k : KeySlot) (m : SumMsg) : Option (List Byte) :=
  gcmOpen k.dataKey (transferIv m.src.toNat m.ctr.toNat) (transferAad m.dst.toNat m.chunk) m.data m.gcmTag

end Sys2Proof.Machine
end

