-- ==== Sys2Proof/WellFormed.lean ====
section
/-! DEFINITION. Sys2Proof/WellFormed.lean: which commands the spec's layouts can carry. The constructors' field widths
already bound most operands; the checks here are those that widths do not express. -/
namespace Sys2Proof

/-- A header that has passed R287: a hook field is used with its flag only, names a hook from 0x040, and an increment is
not 0 (R286, R287). -/
def Hdr.wf (h : Hdr) : Bool :=
  if h.signal then decide (64 ≤ h.signalHook.toNat) && decide (h.signalInc ≠ 0)
  else decide (h.signalHook = 0) && decide (h.signalInc = 0)

/-- A record index (R256). -/
def recordWf (r : Nat) : Bool := decide (r < 32768)

/-- A link message (R328): its data are LENGTH bytes where the kind carries them, and a sealed one has a 16-byte tag. -/
def Msg.wf (m : Msg) (carries : Bool) : Bool :=
  decide (m.length.toNat ≤ 4096) && (if carries then m.data.length == m.length.toNat else m.data.isEmpty)
    && (if m.sealed then m.gcmTag.length == 16 else m.gcmTag.isEmpty)

/-- Bytes of one word or integer of a message: none of a grant (R344, R346, R349). -/
def SumKind.width : SumKind → Nat
  | .grant => 0
  | .exponents => 4
  | .agreed => 4
  | .integers => 16
  | .total => 16

/-- A SUM or DWAIT message: its data are whole words or integers of elements of the chunk, at most 4,096 bytes (R328, R345), a grant has
none (R349), n is at least 1 (R338), and a sealed one has a 16-byte tag. -/
def SumMsg.wf (m : SumMsg) : Bool :=
  decide (m.n ≠ 0) && decide (m.data.length ≤ 4096) && decide (m.data.length % max 1 m.kind.width = 0)
    && decide (m.first * m.kind.width + m.data.length ≤ 4096 * m.kind.width) && (m.vc != 2 || decide (m.data.length ≤ 64))
    && (if m.sealed then m.gcmTag.length == 16 else m.gcmTag.isEmpty)

/-- The well-formed commands. -/
def Instr.wf : Instr → Bool
  | .nop h => h.wf
  | .identify h _ => h.wf
  | .attest h _ _ _ => h.wf
  | .inventory h _ _ => h.wf
  | .writeMem h _ _ _ => h.wf
  | .readMem h _ _ _ => h.wf
  | .fillMem h _ _ _ => h.wf
  | .copyMem h _ _ _ => h.wf
  | .sealRegion h _ _ _ _ => h.wf
  | .unsealRegion h _ => h.wf
  | .installKey h _ _ _ => h.wf
  | .loadPlan h _ _ _ => h.wf
  | .unloadPlan h _ => h.wf
  | .saveContext h _ _ _ _ => h.wf
  | .restoreContext h _ _ _ _ => h.wf
  | .run h _ _ => h.wf
  | .pause h _ => h.wf
  | .resume h _ => h.wf
  | .abort h _ => h.wf
  | .mark h _ => h.wf
  | .hookAcquire h _ _ => h.wf
  | .hookRelease h _ _ => h.wf
  | .hookSet h _ _ => h.wf
  | .hookRead h _ => h.wf
  | .streamOpen h _ _ => h.wf
  | .streamSubmit h _ _ _ => h.wf
  | .ringHead h _ _ => h.wf
  | .rate h _ _ _ _ _ _ => h.wf
  | .forceKey h _ => h.wf
  | .flush h _ => h.wf
  | .rebind h _ _ _ => h.wf
  | .streamClose h _ => h.wf
  | .hold h _ _ => h.wf
  | .unhold h _ _ => h.wf
  | .releaseOut h _ _ => h.wf
  | .setLong h _ _ lt => h.wf && decide (lt.toNat < 8)
  | .clearLong h _ _ lt => h.wf && decide (lt.toNat < 8)
  | .linkConfigure h _ _ _ => h.wf
  | .domainJoin h _ _ => h.wf
  | .twinBind h _ => h.wf
  | .twinRelease h => h.wf
  | .tableLoad h _ _ => h.wf
  | .tableSelect h _ => h.wf
  | .seedStreams h _ _ _ => h.wf
  | .ledgerRead h _ _ _ => h.wf
  | .counterRead h _ _ _ => h.wf
  | .counterClear h _ _ => h.wf
  | .firmwareStage h _ _ _ => h.wf
  | .firmwareCommit h _ => h.wf
  | .resetFunction h _ => h.wf
  | .resetDevice h _ => h.wf
  | .bar2Read _ o n => decide (o < 2 ^ 37) && decide (0 < n)
  | .bar2Write _ o d => decide (o < 2 ^ 37) && !d.isEmpty
  | .registerWrite _ _ n v => decide (0 < n) && (n == 8 || decide (v.toNat < 2 ^ 32))
  | .smbusMessage d => !d.isEmpty
  | .hostDataReadFailed h _ => h.wf
  | .recordDispatch _ r => recordWf r
  | .recordComplete _ r => recordWf r
  | .product _ r => recordWf r
  | .conv _ r => recordWf r
  | .pool _ r => recordWf r
  | .resample _ r => recordWf r
  | .elementwise _ r => recordWf r
  | .normalise _ r => recordWf r
  | .rotary _ r => recordWf r
  | .draw _ r => recordWf r
  | .attend _ r => recordWf r
  | .append _ r => recordWf r
  | .pflush _ r => recordWf r
  | .lane _ r => recordWf r
  | .sum _ r => recordWf r
  | .move _ r => recordWf r
  | .arrayInstruction _ _ r _ _ _ _ _ => recordWf r
  | .livePreempt _ _ r => recordWf r
  | .collectiveAdmit _ r => recordWf r
  | .chunkBinAssign _ r _ => recordWf r
  | .flitReceive _ f _ => f.length == 256
  | .write _ m => m.wf true
  | .read _ m => m.wf false
  | .data _ m => m.wf true
  | .ack _ m => m.wf false
  | .sumMessage _ m => m.wf && (!m.dumbwaiter || m.kind == .grant)
  | .dwait _ m => m.wf && m.dumbwaiter && m.kind != .grant
  | .twin _ _ _ b => decide (b.data.length ≤ 4096)
  | .domain _ _ n _ _ => decide (n.toNat ≤ 0xFFE)
  | .sensorSample v => v.readings.all (fun x => decide (x.1.toNat < 0x54) || (decide (0x60 ≤ x.1.toNat) && decide (x.1.toNat < 0x64)))
  | _ => true

end Sys2Proof
end

