-- ==== Sys2Proof/Machine/Collectives.lean ====
section
/-! DEFINITION. Sys2Proof/Machine/Collectives.lean: SUM records and the sums of ATTEND with XDEV: the exact sum (R342 to R344),
admission and bins (R348, R349), the three-level pipeline and its messages (R345, R346, R353), the dumbwaiter (R354), residue checks
(R351). -/
namespace Sys2Proof.Machine

/-! ### The exact sum of one element (R342 to R344) -/

/-- The exponent word of one contribution (R344). -/
def expWord (v : FV) : Word :=
  match v with
  | .nan => BitVec.ofNat 32 (2 ^ 31)
  | .inf s => BitVec.ofNat 32 (if s then 2 ^ 29 else 2 ^ 30)
  | .fin _ m _ => if m = 0 then 0 else BitVec.ofNat 32 (v.log2 + 1 + 65536).toNat

/-- Two exponent words merge (R344). -/
def mergeWord (a b : Word) : Word :=
  BitVec.ofNat 32 ((a.toNat / 2 ^ 29 ||| b.toNat / 2 ^ 29) * 2 ^ 29 + max (a.toNat % 2 ^ 18) (b.toNat % 2 ^ 18))

/-- Lists of words merge element by element; a shorter list counts as +0 contributions. -/
def mergeWords : List Word → List Word → List Word
  | [], b => b
  | a, [] => a
  | x :: a, y :: b => mergeWord x y :: mergeWords a b

/-- The exponent E of a word (R344). -/
def wordExp (w : Word) : Int := Int.ofNat (w.toNat % 2 ^ 18) - 65536

/-- The integer of a contribution under an agreed word (R342). -/
def contribution (w : Word) (v : FV) : BitVec 128 :=
  match v with
  | .fin _ m _ => if m = 0 ∨ w.toNat % 2 ^ 18 = 0 then 0 else BitVec.ofInt 128 (v.scale (113 - wordExp w)).floor
  | _ => 0

/-- Lists of integers add element by element (R342). -/
def addInts : List (BitVec 128) → List (BitVec 128) → List (BitVec 128)
  | [], b => b
  | a, [] => a
  | x :: a, y :: b => (x + y) :: addInts a b

/-- The value of a sum (R342, step 4). -/
def sumValue (w : Word) (v : BitVec 128) : FV :=
  let n := w.toNat
  if bit n 31 || (bit n 30 && bit n 29) then .nan
  else if bit n 30 then .inf false
  else if bit n 29 then .inf true
  else if n % 2 ^ 18 = 0 ∨ v = 0 then .fin false 0 0
  else .fin (decide (v.toInt < 0)) v.toInt.natAbs (wordExp w - 113)

/-! ### What a collective is -/

/-- The tensor that a collective sums (R235, R338). -/
def Rec.sumTensor (r : Rec) : Nat := if r.opcode = 10 then r.a else attWout r

/-- Number of local contributions L (R338). -/
def sumLocal (p : Plan) (r : Rec) : Nat := if r.opcode = 10 then (p.tensor r.a).dim 4 else 1

/-- Number of elements n (R338). -/
def sumCount (p : Plan) (r : Rec) : Nat := (p.tensor r.sumTensor).count / sumLocal p r

/-- The member set: that of AUX0, or this device alone; of ATTEND, the first that the plan declares (R235, R339,
notes/assumptions/24.md). -/
def sumMembers (s : State) (p : Plan) (r : Rec) : List Nat :=
  let set := if r.opcode = 10 then p.memberSets.find? (fun m => m.tensor == r.aux0) else p.memberSets.head?
  match set with
  | some m => m.members
  | none => [deviceNumber s]

/-- CRC-32 of a member set (R341). -/
def setCrc (l : List Nat) : Word := BitVec.ofNat 32 (crc32 (l.flatMap (toLE 4)))

/-- Whether a record takes the dumbwaiter (R354). -/
def onDumbwaiter (p : Plan) (r : Rec) : Bool :=
  r.opcode == 10 && decide (sumCount p r * (p.tensor r.a).fmt.width ≤ 512)

/-- Number of chunks (R345). -/
def sumChunks (p : Plan) (r : Rec) : Nat := if onDumbwaiter p r then 1 else ceilDiv (sumCount p r) 4096

/-- Hub that serves a chunk (R345, R354). -/
def chunkHub (k : Nat) : Nat := k % 2

/-- A collective as a chunk of it runs: its record, whether the tier leaves it out, its members, and this device's part. -/
structure Coll1 where
  ctx : Ctx
  skip : Bool
  members : List Nat
  dw : Bool
  chunk : Nat
  me : Nat
  /-- Listed groups and positions, ascending, and this device's indices among them. -/
  groups : List Nat
  places : List Nat
  gi : Nat
  pi : Nat
  dom : Option Domain

/-- The collective of a record, for one chunk. -/
def collOf (s : State) (n r k : Nat) : Option Coll1 :=
  match recordCtx s n r with
  | none => none
  | some (c, q) =>
    let ms := sumMembers s c.plan c.r
    let pl : List (Nat × Nat) := match s.member with
      | none => [(0, 0)]
      | some d => ms.filterMap d.place
    let sorted (l : List Nat) : List Nat := (l.eraseDups.foldl (fun a x => insertByFst (x, ()) a) []).map (·.1)
    let gs := sorted (pl.map (·.1))
    let ps := sorted (pl.map (·.2))
    let mine : Nat × Nat := (s.member.map (fun d => (d.myGroup, d.myPosition))).getD (0, 0)
    some ⟨c, !bit c.r.tiers q.tier, ms, onDumbwaiter c.plan c.r, k, deviceNumber s, gs, ps,
      (gs.findIdx? (· == mine.1)).getD 0, (ps.findIdx? (· == mine.2)).getD 0, s.member⟩

/-- Device of listed group `g` and listed position `p`, by their indices. -/
def Coll1.dev (e : Coll1) (g p : Nat) : Nat :=
  match e.dom with
  | none => e.me
  | some d => d.device (e.groups.getD g 0) (e.places.getD p 0)

/-- Index of the owner's position, and of the start group (R345). -/
def Coll1.owner (e : Coll1) : Nat := e.chunk / 2 % e.places.length
def Coll1.start (e : Coll1) : Nat := e.chunk / 2 % e.groups.length

/-- Whether this device owns the chunk in its group. -/
def Coll1.owns (e : Coll1) : Bool := e.pi == e.owner

/-- Place on the ring, counted from the start group in the direction of the chunk's hub (R346). -/
def Coll1.turn (e : Coll1) : Nat :=
  let q := e.groups.length
  if chunkHub e.chunk = 0 then (e.gi + q - e.start) % q else (e.start + q - e.gi) % q

/-- Owners before and after this one on the ring (R346). -/
def Coll1.step (e : Coll1) (forward : Bool) : Nat :=
  let q := e.groups.length
  e.dev (if (chunkHub e.chunk == 0) == forward then (e.gi + 1) % q else (e.gi + q - 1) % q) e.owner

/-- Listed members of this device's group, itself among them. -/
def Coll1.group (e : Coll1) : List Nat := (List.range e.places.length).map (e.dev e.gi)

/-- Members of other listed groups at this device's position. -/
def Coll1.ring (e : Coll1) : List Nat :=
  ((List.range e.groups.length).filter (· != e.gi)).map (fun g => e.dev g e.pi)

/-- Flat indices of the chunk (R345). -/
def Coll1.elems (e : Coll1) : List Nat :=
  let n := sumCount e.ctx.plan e.ctx.r
  (List.range (min 4096 (n - 4096 * e.chunk))).map (4096 * e.chunk + ·)

/-- Local contributions to an element: none of a skipped record (R350). -/
def Coll1.local (e : Coll1) (i : Nat) : List FV :=
  if e.skip then []
  else
    let n := sumCount e.ctx.plan e.ctx.r
    (List.range (sumLocal e.ctx.plan e.ctx.r)).map (fun l => e.ctx.val 0 e.ctx.r.sumTensor (i + n * l))

/-- Level 1 of the exponent pass (R346). -/
def Coll1.words (e : Coll1) : List Word := e.elems.map (fun i => ((e.local i).map expWord).foldl mergeWord 0)

/-- Level 1 of the value pass under agreed words (R346). -/
def Coll1.values (e : Coll1) (ws : List Word) : List (BitVec 128) :=
  e.elems.zipIdx.map (fun x => ((e.local x.1).map (contribution (ws.getD x.2 0))).foldl (· + ·) 0)

/-! ### The passes of a chunk (R346, R354) -/

/-- Devices whose words, or integers, this device needs before it can go on. -/
def Coll1.needs (e : Coll1) : List Nat :=
  if e.dw then e.group ++ e.ring
  else if e.owns then e.group ++ (if 0 < e.turn then [e.step false] else [])
  else [e.me]

/-- Whether those suffice for the complete sum: a dumbwaiter, an owner without a ring, or the last owner of the ring. -/
def Coll1.completes (e : Coll1) : Bool := e.dw || (e.owns && e.turn + 1 == e.groups.length)

/-- Data bytes of one message: at most 64 on VC2, four integers of the dumbwaiter among them (R325, R354), and at most 4,096 on VC1 (R328).
DEDUCED: the exponent words of more than 16 elements take two DWAIT messages, where R354 says one (notes/assumptions/17.md). -/
def Coll1.cut (e : Coll1) (k : SumKind) : Nat := if e.dw || k.width == 4 then 64 else 4096

/-- First elements of the messages that carry a chunk's words or integers. -/
def Coll1.firsts (e : Coll1) (k : SumKind) : List Nat :=
  (List.range (ceilDiv (e.elems.length * k.width) (e.cut k))).map (fun i => i * (e.cut k / k.width))

/-- The words of every group. -/
def ChunkState.words (x : ChunkState) : List Word := mergeWords x.exps x.ringExps
/-- The integers of every group. -/
def ChunkState.values (x : ChunkState) : List (BitVec 128) := addInts x.ints x.ringInts

/-- Whether all of a kind has come from a device. -/
def ChunkState.has (x : ChunkState) (e : Coll1) (k : SumKind) (d : Nat) : Bool :=
  if d = e.me then k == .exponents || x.own else (e.firsts k).all (fun f => x.got.contains (k, d, f))

/-- Whether all that an owner returns of a kind has come. -/
def ChunkState.returned (x : ChunkState) (e : Coll1) (k : SumKind) : Bool :=
  (e.firsts k).all (fun f => x.got.any (fun g => g.1 == k && g.2.2 == f))

/-- The exponent pass ends: every word has come, or the agreed ones (R346). -/
def ChunkState.agree (e : Coll1) (x : ChunkState) : ChunkState :=
  if !x.agreed && ((e.completes && e.needs.all (x.has e .exponents)) || x.returned e .agreed) then { x with agreed := true } else x

/-- The value pass ends: every integer has come, or the complete sums (R346). -/
def ChunkState.sum (e : Coll1) (x : ChunkState) : ChunkState :=
  if !x.total && x.agreed && ((e.completes && e.needs.all (x.has e .integers)) || x.returned e .total) then { x with total := true } else x

/-- Words and integers as messages carry them, and back. -/
def wordBytes (l : List Word) : List Byte := l.flatMap (fun x => toLE 4 x.toNat)
def intBytes (l : List (BitVec 128)) : List Byte := l.flatMap (fun x => toLE 16 x.toNat)
def bytesWords (b : List Byte) : List Word := (List.range (b.length / 4)).map (fun i => BitVec.ofNat 32 (fieldLE b (4 * i) 4))
def bytesInts (b : List Byte) : List (BitVec 128) := (List.range (b.length / 16)).map (fun i => BitVec.ofNat 128 (fieldLE b (16 * i) 16))

/-- Something that a chunk owes: destination, the peers whose grants it needs (R349), kind, and bytes. -/
structure Due where
  dst : Nat
  grants : List Nat
  kind : SumKind
  data : List Byte

/-- What goes to one peer. -/
def dueTo (d : Nat) (k : SumKind) (b : List Byte) : Due := ⟨d, [d], k, b⟩

/-- The ring of a dumbwaiter, forward and backward: the farthest listed member within half of the ring, to which the words go, and the listed
members up to it, which merge them as they pass (R354). A direction without listed members takes no message. -/
def Coll1.halves (e : Coll1) : List (Nat × List Nat) :=
  match e.dom with
  | none => []
  | some d =>
    let n := d.groups
    let reach (hops : Nat) (dist : Nat → Nat) : List (Nat × List Nat) :=
      let l := (List.range hops).filterMap (fun h =>
        ((List.range e.groups.length).find? (fun i => i != e.gi && dist (e.groups.getD i 0) == h + 1)).map (fun i => e.dev i e.pi))
      match l.getLast? with
      | some m => [(m, l)]
      | none => []
    reach (n / 2) (fun g => (g + n - d.myGroup) % n) ++ reach ((n - 1) / 2) (fun g => (d.myGroup + n - g) % n)

/-- Messages that a chunk owes, in order (R346, R354). -/
def ChunkState.owes (e : Coll1) (x : ChunkState) : List Due :=
  let others := e.group.filter (· != e.me)
  let gathered (k : SumKind) : Bool := e.group.all (x.has e k)
  if e.dw then
    others.map (fun d => dueTo d .exponents (wordBytes e.words))
    ++ (if gathered .exponents then e.halves.map (fun h => ⟨h.1, h.2, .exponents, wordBytes x.exps⟩) else [])
    ++ (if x.agreed then others.map (fun d => dueTo d .integers (intBytes (e.values x.words))) else [])
    ++ (if x.agreed ∧ gathered .integers = true then e.halves.map (fun h => ⟨h.1, h.2, .integers, intBytes x.ints⟩) else [])
  else if !e.owns then
    [dueTo (e.dev e.gi e.owner) .exponents (wordBytes e.words)]
    ++ (if x.agreed then [dueTo (e.dev e.gi e.owner) .integers (intBytes (e.values x.words))] else [])
  else
    let q := e.groups.length
    let t := e.turn
    let passes (k : SumKind) : Bool := decide (t + 1 < q) && e.needs.all (x.has e k)
    let returns := decide (1 < q) && (t + 1 == q || decide (t + 2 < q))
    (if passes .exponents then [dueTo (e.step true) .exponents (wordBytes x.exps)] else [])
    ++ (if x.agreed then others.map (fun d => dueTo d .agreed (wordBytes x.words))
          ++ (if returns then [dueTo (e.step true) .agreed (wordBytes x.words)] else []) else [])
    ++ (if x.agreed ∧ passes .integers = true then [dueTo (e.step true) .integers (intBytes x.ints)] else [])
    ++ (if x.total then others.map (fun d => dueTo d .total (intBytes x.values))
          ++ (if returns then [dueTo (e.step true) .total (intBytes x.values)] else []) else [])

/-- Peers from which a chunk receives messages: each is sent a grant (R349). -/
def Coll1.givers (e : Coll1) : List Nat :=
  (if e.dw then e.group ++ e.ring
   else if e.owns then e.group ++ (if 1 < e.groups.length then [e.step false] else [])
   else [e.dev e.gi e.owner]).filter (· != e.me) |>.eraseDups

/-! ### Messages (R328, R341, R353) -/

/-- A message of a chunk to a device (R341). -/
def Coll1.message (e : Coll1) (id : Dword) (k : SumKind) (dst first : Nat) (data : List Byte) : SumMsg :=
  ⟨id, e.chunk, k, first, BitVec.ofNat 12 e.me, BitVec.ofNat 12 dst, BitVec.ofNat 32 (sumCount e.ctx.plan e.ctx.r), setCrc e.members,
    e.dw, .no, data, false, 0, [], 0, ⟨0, 0, 0⟩⟩

/-- A run ends because sealed data may not be carried (R86). -/
def refuseRun (n : Nat) : Act := withRun n (fun _ q => endRun n (some { Reply.of stSealed with restarts := q.restarts }))

/-- Key slot that seals the messages of a chunk: of the contribution's region where that is sealed, else the one under whose key messages of
the chunk have come (R86, R353). -/
def sumKey (s : State) (e : Coll1) (id : Dword) : Option Nat :=
  let t := e.ctx.plan.tensor e.ctx.r.sumTensor
  if t.sealed then rangeKey s (localPart t.base)
  else (((s.coll (chunkHub e.chunk)).chunks.find? (fun x => x.id == id && x.chunk == e.chunk)).bind (·.key)).bind (fun k =>
    (keyById s k).map (·.1))

/-- A message of a chunk goes out, sealed where the collective's data are; a key that may carry no more ends the run (R86, R353). -/
def sendSum (e : Coll1) (m : SumMsg) : Act := fun s =>
  let t := e.ctx.plan.tensor e.ctx.r.sumTensor
  let out (m : SumMsg) : Act := sendFrom (slotClass s e.ctx.slot) none (.sum m)
  match sumKey s e m.id with
    | none => if t.sealed then [] else out m s
    | some i => match (s.key i).bind (fun k => k.spend.map (fun k' => (k, k'))) with
      | some (k, k') => Act.seq (Act.of [.key i (some k')]) (out (sealSum k m)) s
      | none => refuseRun e.ctx.slot s

/-- Everything that a due carries goes out, cut into messages. -/
def sendDue (e : Coll1) (id : Dword) (d : Due) : Act :=
  Act.each (fun f => sendSum e (e.message id d.kind d.dst f (slice d.data (f * d.kind.width) (e.cut d.kind)))) (e.firsts d.kind)

/-- Whether the links have acknowledged everything that they were handed for a chunk (R322, R348). -/
def chunkAcked (s : State) (id : Dword) (k : Nat) : Bool :=
  let other (r : Routed) : Bool := r.msg.chunk != some (id, k)
  s.links.all (fun x => x.2.waiting.all (fun m => other m.msg) && x.2.replay.all (fun f => f.msgs.all other)) && s.held.all other

/-! ### Results -/

/-- The quotient of two values, exact to 300 bits with a sticky bit, so that one rounding of it is the rounding of the exact
quotient (R235). -/
def FV.ratio (a b : FV) : FV :=
  match a, b with
  | .nan, _ => .nan
  | _, .nan => .nan
  | .inf _, .inf _ => .nan
  | .inf s, .fin t _ _ => .inf (s != t)
  | .fin s _ _, .inf t => .fin (s != t) 0 0
  | .fin s m e, .fin t n g =>
    if n = 0 then FV.zero
    else
      let k := m * 2 ^ 400
      .fin (s != t) (2 * (k / n) + (if k % n = 0 then 0 else 1)) (e - g - 401)

/-- Y of an attention record from the sums of WOUT (R235).
DESIGN CHOICE (notes/assumptions/51.md): a row whose sum of WL is +0 gives +0 even where its sum of WO is NaN, since both sentences of
R235 apply. -/
def yWrites (c : Ctx) (sums : List (Nat × Nat)) : List ElemW :=
  let t := c.plan.tensor c.r.out
  let d := attD c.r
  let at_ (i : Nat) : FV := decode .wide48 ((sums.lookup i).getD 0)
  c.outWrites c.r.out t.rnd ((List.range t.count).map (fun f =>
    let row := f / d
    let wl := at_ (d + (d + 1) * row)
    c.outV c.r.out t.rnd t.ovfNan (c.attHome (row / t.dim 1) (row % t.dim 1 / c.attBlockSize) 0) f
      (if wl.isZero then FV.zero else (at_ (f % d + (d + 1) * row)).ratio wl)))

/-- Element writes and their counts, outside a record's body. -/
def storeCounted (c : Ctx) (ws : List ElemW) : Act :=
  Act.seq (storeElems c ws) (convCounts c.slot c.record (satCount c ws) (nanCount ws))

/-- The results of a chunk: OUT of a SUM record, the sums of an attention record in WIDE48 with their counts, nothing of a skipped one
(R45, R235, R342, R350).
DESIGN CHOICE (notes/assumptions/51.md): the WIDE48 sums of an attention record are rounded by RNE whatever the RND of WOUT says, and
kept aside rather than written to WOUT (R235, R338 name neither). -/
def chunkResult (e : Coll1) (x : ChunkState) : Act :=
  let vs := e.elems.zipIdx.map (fun y => (y.1, sumValue (x.words.getD y.2 0) (x.values.getD y.2 0)))
  if e.skip then Act.none
  else if e.ctx.r.opcode = 10 then
    let t := e.ctx.plan.tensor e.ctx.r.out
    storeCounted e.ctx (vs.map (fun y => ⟨e.ctx.r.out, 0, y.1, Machine.convert t.fmt t.rnd 0 t.ovfNan y.2⟩))
  else
    let cs := vs.map (fun y => (y.1, Machine.convert .wide48 .rne 0 false y.2))
    Act.seq (convCounts e.ctx.slot e.ctx.record (cs.filter (·.2.sat)).length 0)
      (setRun e.ctx.slot (fun q => { q with collectives := q.collectives.map (fun a =>
        if a.record = e.ctx.record then { a with sums := a.sums ++ cs.map (fun y => (y.1, y.2.code)) } else a) }))

/-- A collective holds a dumbwaiter slot on each hub no more (R348, R354). -/
def dropDumbwaiter (id : Dword) : Act := fun s =>
  (s.colls.filter (fun x => x.2.dumbwaiters.contains id)).map (fun x =>
    .coll x.1 { x.2 with dumbwaiters := x.2.dumbwaiters.filter (· != id) })

/-- A collective whose last chunk has left its bins releases its admission; attention forms Y (R235, R348). The landing or the end of the
run that waited for it may come (R350). -/
def releaseAdmission (n r : Nat) : Act := fun s =>
  match recordCtx s n r with
  | none => []
  | some (c, q) =>
    match q.collectives.find? (fun a => a.record == r) with
    | none => []
    | some a =>
      let total := sumChunks c.plan c.r
      if a.next0 < total ∨ a.next1 < total ∨ (s.colls.any (fun x => x.2.chunks.any (fun y => y.slot == n && y.record == r))) = true
      then []
      else Act.all [
        (if c.r.opcode = 7 ∧ bit c.r.tiers q.tier = true then storeCounted c (yWrites c a.sums) else Act.none),
        dropDumbwaiter (collectiveId s n c.plan r),
        setRun n (fun q => { q with
          collectives := q.collectives.filter (fun b => b.record != r)
          summed := q.summed ++ [r] }),
        advance n] s

/-- Whether a peer of a collective is never sent to (R341). -/
def barredPeer (s : State) (id : Dword) (d : Nat) : Bool := s.colls.any (fun x => x.2.barred.contains (id, d))

/-- A chunk's state is replaced at its hub. -/
def putChunk (x : ChunkState) : Act := fun s =>
  let h := chunkHub x.chunk
  let v := s.coll h
  [.coll h { v with chunks := v.chunks.map (fun y => if y.id = x.id ∧ y.chunk = x.chunk then x else y) }]

/-! ### Adder lanes (R347, R351) -/

/-- Adder lanes still good. -/
def Coll.goodLanes (v : Coll) : List Nat := (List.range 68).filter (fun i => !v.retired.getLsbD i)
def Coll.good (v : Coll) : Nat := v.goodLanes.length

/-- The lane that adds element `i` of a chunk: lane `i` modulo 64, or the spare that has taken its elements, or with no spare left one of the
remaining lanes (R347, R351). -/
def Coll.laneOf (v : Coll) (i : Nat) : Nat :=
  let a := i % 64
  if !v.retired.getLsbD a then a
  else
    let k := ((List.range a).filter (fun j => v.retired.getLsbD j)).length
    let spares := v.goodLanes.filter (fun j => decide (64 ≤ j))
    if k < spares.length then spares.getD k 0 else v.goodLanes.getD (k % max 1 v.good) 0

/-- The residue check of an addition: the sum of the operands' residues modulo 255 against the residue of the result, the carry out of bit
127 counting as 1 (R351). -/
def residueOk (a b r : BitVec 128) : Bool :=
  (a.toNat % 255 + b.toNat % 255) % 255 == (r.toNat % 255 + (a.toNat + b.toNat) / 2 ^ 128) % 255

/-- One addition with a fault: how often its check fails, and its result. The operands are added again after a first mismatch, and by
another lane after a second (R351). -/
def faultyAdd (x : LaneFault) (a b : BitVec 128) : Nat × BitVec 128 :=
  let once := (a + b) ^^^ x.upset
  let twice := (a + b) ^^^ x.again
  if residueOk a b once then (0, once) else if residueOk a b twice then (1, twice) else (2, a + b)

/-- The element at which a faulty lane is at work in a step that adds elements `first` to `first + n`: the first of its elements, if it has
one. -/
def faultyElem (v : Coll) (x : LaneFault) (first n : Nat) : Option Nat :=
  if x.upset = 0 then none else ((List.range n).map (first + ·)).find? (fun i => v.laneOf i == x.lane.val)

/-- An addition step: integers are added from element `first` on; how often its check fails, and the sums (R342, R351). -/
def addIntegers (v : Coll) (x : LaneFault) (acc vs : List (BitVec 128)) (first : Nat) : Nat × List (BitVec 128) :=
  let sums := addInts acc (List.replicate first 0 ++ vs)
  match faultyElem v x first vs.length with
  | none => (0, sums)
  | some i =>
    let y := faultyAdd x (acc.getD i 0) (vs.getD (i - first) 0)
    (y.1, sums.set i y.2)

/-- A lane of the adders is retired; below 32 the engine is sheeted (R351, R376). -/
def retireLane (h lane reason : Nat) : Act := fun s =>
  let v := s.coll h
  let v' := { v with retired := v.retired ||| BitVec.ofNat 68 (2 ^ lane) }
  if v.retired.getLsbD lane then []
  else
    Act.seq (Act.of [.coll h { v' with sheeted := v.sheeted || decide (v'.good < 32) },
      .ledger 0x0101 (srcColl h) (toLE 2 lane ++ toLE 1 reason), sheetCount s])
      (fun s => if !v.sheeted && decide (v'.good < 32) then [sheetCount s] else []) s

/-- What an addition step counts (R351, R375): a first mismatch is repeated, a second retires the lane. -/
def addStep (h : Nat) (fails lane : Nat) : Act := fun s =>
  let v := s.coll h
  let old : Health := ⟨v.steps, Tab.look [] v.laneFaults lane⟩
  let new := Health.faultN fails old
  let v' := { v with steps := v.steps + 1, laneFaults := Tab.put [] v.laneFaults lane new.faults }
  if fails = 0 then [.coll h { v with steps := v.steps + 1 }]
  else
    Act.seq (Act.of [.coll h v', .count (counterId (srcColl h) 3) 1])
      (if fails = 2 then retireLane h lane 2
       else if thirdFault old then Act.seq (logAct 0x0100 (srcColl h) (toLE 8 v.steps ++ [4])) (retireLane h lane 1)
       else logAct 0x0100 (srcColl h) (toLE 8 v.steps ++ [4])) s

/-- Level 1 of the value pass follows the agreed words: this device's integers are added, with the check of their additions (R346, R351).
How often it fails, and the chunk; none where it is not due. -/
def ChunkState.convert (e : Coll1) (v : Coll) (x : ChunkState) : Option (Nat × ChunkState) :=
  if x.agreed && !x.own then
    let y := addIntegers v x.fault x.ints (e.values x.words) 0
    some (y.1, { x with ints := y.2, own := true })
  else none

/-- A chunk goes as far as it can: passes end, messages with a grant go out, the result is written, and the bin is left once the result
is written and the links have acknowledged every message (R346, R348, R349). -/
def settleChunk (id : Dword) (k : Nat) : Act := fun s =>
  let h := chunkHub k
  match (s.coll h).chunks.find? (fun x => x.id == id && x.chunk == k) with
  | none => []
  | some x0 =>
    match collOf s x0.slot x0.record k with
    | none => []
    | some e =>
      let v := s.coll h
      let x1 := x0.agree e
      let level1 := x1.convert e v
      let x2 := (level1.elim x1 (·.2)).sum e
      let due := x2.owes e
      let may := due.filter (fun m => !x2.sent.contains (m.kind, m.dst)
        && m.grants.all (fun d => v.grants.any (fun g => g.id == id && g.chunk == k && g.src == d) && !barredPeer s id d))
      let x := { x2 with sent := x2.sent ++ may.map (fun m => (m.kind, m.dst)) }
      Act.all [putChunk x,
        (match level1 with
          | some y => addStep h y.1 x.fault.lane.val
          | none => Act.none),
        Act.when (x.total && !x0.total) (chunkResult e x),
        Act.each (sendDue e id) may,
        fun s =>
          if !(x.total && due.all (fun m => x.sent.contains (m.kind, m.dst)) && chunkAcked s id k) then []
          else
            let v := s.coll h
            Act.seq (Act.of [.coll h { v with
                chunks := v.chunks.filter (fun y => !(y.id == id && y.chunk == k))
                grants := v.grants.filter (fun g => !(g.id == id && g.chunk == k)) },
              .count (counterId (srcColl h) (if e.dw then 4 else 2)) 1])
              (releaseAdmission x.slot x.record) s] s

/-- Every chunk in a bin goes as far as it can. -/
def settleChunks : Act := fun s =>
  Act.each (fun x => settleChunk x.id x.chunk) (s.colls.flatMap (·.2.chunks)) s

/-! ### Admission (R348) -/

/-- Whether a collective of a run is ready for admission: its record runs, or its tier leaves it out (R350). -/
def collectiveReady (p : Plan) (q : Run) (r : Nat) : Bool :=
  (p.record r).collective && q.active && decide (p.stepOf r ≤ q.step) && decide (r < p.records.length)
    && !q.summed.contains r && !q.collectives.any (fun a => a.record == r)
    && (!bit (p.record r).tiers q.tier
      || (q.inFlight.contains r && ((p.record r).opcode == 10 || q.bodyDone.contains r)))

/-- Whether every collective of a lower ID has been admitted (R348). -/
def lowerAdmitted (p : Plan) (q : Run) (r : Nat) : Bool :=
  (List.range p.records.length).all (fun j =>
    !(p.record j).collective || !(decide (p.stepOf j < p.stepOf r) || (p.stepOf j == p.stepOf r && decide (j < r)))
    || q.summed.contains j || q.collectives.any (fun a => a.record == j))

/-- COLLECTIVE_ADMIT (R348): in ascending ID order, at most PEAK_SUMS at a time; one on the dumbwaiter holds a slot on each hub (R354). Where
no route to a member is left the job ends (R333, R389). -/
def execCollectiveAdmit (slot : SlotId) (r : Nat) (s : State) : Host.Outcome State Fault Refusal :=
  Act.run (withRun slot.val (fun p q =>
    if collectiveReady p q r && lowerAdmitted p q r && decide (q.collectives.length < p.resource.peakSums)
    then fun s =>
      if (sumMembers s p (p.record r)).any (fun d => d != deviceNumber s && !reachable s d) then degrade slot.val 3 s
      else Act.seq (setRun slot.val (fun q => { q with collectives := q.collectives ++ [⟨r, 0, 1, []⟩] }))
        (Act.when (onDumbwaiter p (p.record r)) (Act.each (fun h => Act.seq (wakeDomain (srcColl h)) (fun s =>
          [.coll h { s.coll h with dumbwaiters := (s.coll h).dumbwaiters ++ [collectiveId s slot.val p r] }])) [0, 1])) s
    else Act.none)) s

/-- Whether the grant of a peer agrees with the collective (R341). -/
def grantAgrees (s : State) (p : Plan) (r : Nat) (g : Grant) : Bool :=
  g.n.toNat == sumCount p (p.record r) && g.setCrc == setCrc (sumMembers s p (p.record r))

/-- A peer whose grant differs is recorded once and never sent to (R341). -/
def barPeer (h : Nat) (g : Grant) : Act := fun s =>
  let v := s.coll h
  if barredPeer s g.id g.src then []
  else [.coll h { v with barred := v.barred ++ [(g.id, g.src)], grants := v.grants.filter (fun x => !(x.id == g.id && x.src == g.src)) },
    .ledger 0x0402 (srcColl h) (toLE 8 g.id.toNat ++ toLE 2 g.src)]

/-- CHUNK_BIN_ASSIGN (R348, R349): chunk k takes its bin once chunk k − 8 has left it, and each peer that sends for it, one whose grant
differs aside, is granted (R341). A gated engine returns to V_LO first (R31). -/
def execChunkBinAssign (slot : SlotId) (r : Nat) (b : ChunkStep) (s : State) : Host.Outcome State Fault Refusal :=
  Act.run (withRun slot.val (fun p q => fun s =>
    let n := slot.val
    let k := b.chunk
    let h := chunkHub k
    let id := collectiveId s n p r
    let v := s.coll h
    match q.collectives.find? (fun a => a.record == r), collOf s n r k with
    | some a, some e =>
      if (if h = 0 then a.next0 else a.next1) ≠ k ∨ sumChunks p (p.record r) ≤ k
          ∨ v.chunks.any (fun x => x.id == id && decide (x.chunk + 8 = k)) = true then []
      else
        let x : ChunkState := ⟨id, n, r, k, e.words, [], [], [], [], [], none, b.fault, false, false, false⟩
        Act.all [wakeDomain (srcColl h),
          setRun n (fun q => { q with collectives := q.collectives.map (fun b =>
            if b.record ≠ r then b else if h = 0 then { b with next0 := k + 2 } else { b with next1 := k + 2 }) }),
          Act.of [.coll h { v with chunks := v.chunks ++ [x] }],
          Act.each (fun g => barPeer h g) (v.grants.filter (fun g => g.id == id && !grantAgrees s p r g)),
          fun s => Act.each (fun d => sendSum e (e.message id .grant d 0 [])) (e.givers.filter (fun d => !barredPeer s id d)) s,
          settleChunk id k] s
    | _, _ => [])) s

/-! ### Messages -/

/-- The run and record of a collective ID on this device (R340, R341). -/
def collectiveOf (s : State) (id : Dword) : Option (Nat × Plan × Nat) :=
  s.plans.findSome? (fun x =>
    let r := id.toNat % 2 ^ 15
    if ((s.slot x.1).run.isSome && decide (r < x.2.records.length) && (x.2.record r).collective
        && collectiveId s x.1 x.2 r == id) = true
    then some (x.1, x.2, r) else none)

/-- A message's words or integers join a chunk that holds a bin, from element `first` on: from the own group, or on the dumbwaiter's
ring from another; with the check of its additions, and how often that fails (R351). Each message joins once. -/
def mergeMessage (e : Coll1) (v : Coll) (m : SumMsg) (x : ChunkState) : Nat × ChunkState :=
  let src := m.src.toNat
  let key := (m.kind, src, m.first)
  let ring := e.dw && e.ring.contains src
  let ws := List.replicate m.first 0 ++ bytesWords m.data
  let add (l : List (BitVec 128)) : Nat × List (BitVec 128) := addIntegers v m.fault l (bytesInts m.data) m.first
  if x.got.contains key then (0, x)
  else
    let y := { x with got := key :: x.got, key := if m.sealed then some m.keyId else x.key }
    match m.kind with
    | .grant => (0, x)
    | .exponents => (0, if ring then { y with ringExps := mergeWords x.ringExps ws } else { y with exps := mergeWords x.exps ws })
    | .agreed => (0, { y with exps := mergeWords x.exps ws })
    | .integers => if ring then ((add x.ringInts).1, { y with ringInts := (add x.ringInts).2 })
      else ((add x.ints).1, { y with ints := (add x.ints).2 })
    | .total => (0, { y with ints := x.ints.take m.first ++ bytesInts m.data ++ x.ints.drop (m.first + (bytesInts m.data).length) })

/-- A SUM or DWAIT message in the clear reaches its chunk (R341, R346, R349, R354). A gated engine returns to V_LO first (R31). -/
def acceptSum (m : SumMsg) : Act := fun s =>
  let h := chunkHub m.chunk
  let v := s.coll h
  Act.seq (wakeDomain (srcColl h)) (match m.kind with
    | .grant =>
      let g : Grant := ⟨m.id, m.chunk, m.src.toNat, m.n, m.setCrc⟩
      match collectiveOf s m.id with
      | none => Act.of [.coll h { v with grants := v.grants ++ [g] }]
      | some (_, p, r) =>
        if grantAgrees s p r g then Act.seq (Act.of [.coll h { v with grants := v.grants ++ [g] }]) (settleChunk m.id m.chunk)
        else barPeer h g
    | k =>
      match v.chunks.find? (fun x => x.id == m.id && x.chunk == m.chunk) with
      | none => Act.none
      | some x =>
        match collOf s x.slot x.record m.chunk with
        | none => Act.none
        | some e =>
          if !e.givers.contains m.src.toNat then Act.none
          else
            let y := mergeMessage e v m x
            Act.all [Act.when (k == .integers) (addStep h y.1 m.fault.lane.val), putChunk y.2, settleChunk m.id m.chunk]) s

/-- The answer to a message that cannot be opened (R86, R329). -/
def answerSum (s : State) (m : SumMsg) (a : SumAnswer) : SumMsg :=
  { m with
    src := BitVec.ofNat 12 (deviceNumber s)
    dst := m.src
    answer := a
    data := []
    sealed := false
    ctr := 0
    gcmTag := []
    keyId := 0
    fault := ⟨0, 0, 0⟩ }

/-- A sealed message whose tag fails is dropped (R86, R329): a transient fault of the port. -/
def tagFailure (port : LinkId) : Act := fun s =>
  [.ledger 0x0100 (srcLink port.val) (toLE 8 (s.link port.val).rxCount ++ [7])]

/-- A sealed SUM or DWAIT message whose tag fails is asked for once more; a second failure escapes (R329, R352, JOB_RESTART). -/
def sumTagFailure (port : LinkId) (m : SumMsg) : Act := fun s =>
  let h := chunkHub m.chunk
  let v := s.coll h
  let key := (m.id, m.chunk, m.kind, m.src.toNat, m.first)
  Act.all [tagFailure port, Act.of [.coll h { v with badTags := key :: v.badTags }],
    Act.when (!v.badTags.contains key) (send (.sum (answerSum s m .again)))] s

/-- The message that a peer asks for again is sent to it again, under the next transfer counter (R86, R329): the one addressed to it, or on a
dumbwaiter one that it merges as it passes. -/
def resendSum (m : SumMsg) : Act := fun s =>
  match s.outbox.reverse.findSome? (fun x => match x with
      | .sum y => if y.src = m.dst ∧ (y.dst = m.src ∨ y.dumbwaiter = true) ∧ y.id = m.id ∧ y.chunk = m.chunk ∧ y.kind = m.kind
          ∧ y.first = m.first ∧ y.answer = .no then some y else none
      | _ => none) with
  | none => []
  | some y =>
    match keyById s y.keyId with
    | none => []
    | some (i, k) => match openSum k y, k.spend with
      | some b, some k' => Act.seq (Act.of [.key i (some k')]) (send (.sum (sealSum k { y with
        dst := m.src
        data := b }))) s
      | _, _ => []

/-- A SUM or DWAIT message that is for this device, or that it merges as it passes, is opened (R86, R353): without its key the sender's plan
is refused. -/
def receiveSum (port : LinkId) (m : SumMsg) : Act := fun s =>
  match m.answer with
  | .again => resendSum m s
  | .refused => (match collectiveOf s m.id with
    | some (n, _, _) => refuseRun n s
    | none => [])
  | .no =>
    if !m.sealed then acceptSum m s
    else match keyById s m.keyId with
      | none => send (.sum (answerSum s m .refused)) s
      | some (_, k) => match openSum k m with
        | some b => acceptSum { m with data := b } s
        | none => sumTagFailure port m s

/-- Whether this device takes a message: one for it, or words or integers that pass it on the ring of a dumbwaiter whose collective lists
both it and their sender (R354). -/
def takesSum (s : State) (m : SumMsg) : Bool :=
  m.dst.toNat == deviceNumber s || (m.dumbwaiter && m.kind != .grant && m.answer == .no
    && (collectiveOf s m.id).any (fun x => (collOf s x.1 x.2.2 m.chunk).any (fun e => e.ring.contains m.src.toNat)))

/-- A message is passed on where another device is its target; a dumbwaiter's is merged on its way (R332, R354). -/
def takeSum (port : LinkId) (m : SumMsg) : Act :=
  Act.all [takeMessage port (.sum m),
    fun s => Act.when (m.dst.toNat != deviceNumber s) (relay port (.sum m)) s,
    fun s => Act.when (takesSum s m) (receiveSum port m) s]

/-- SUM_MESSAGE (R346, R349). -/
def execSumMessage (port : LinkId) (m : SumMsg) (s : State) : Host.Outcome State Fault Refusal := (takeSum port m).run s

/-- DWAIT (R354): the dumbwaiter's words and integers. -/
def execDwait (port : LinkId) (m : SumMsg) (s : State) : Host.Outcome State Fault Refusal := (takeSum port m).run s

/-! ### SUM (R338 to R344) -/

/-- Every result of a SUM record of this device alone (R346); the checks of its additions pass, and what a fault does to one that fails comes
with CHUNK_BIN_ASSIGN (R351). -/
def sumAlone (c : Ctx) : List ElemW :=
  let t := c.plan.tensor c.r.out
  let n := sumCount c.plan c.r
  (List.range n).map (fun i =>
    let vs := (List.range (sumLocal c.plan c.r)).map (fun l => c.val 0 c.r.a (i + n * l))
    let w := (vs.map expWord).foldl mergeWord 0
    ⟨c.r.out, 0, i, Machine.convert t.fmt t.rnd 0 t.ovfNan (sumValue w ((vs.map (contribution w)).foldl (· + ·) 0))⟩)

/-- What the chunks of a SUM of this device alone count that have not yet left their bins: an addition step and a chunk each, or a
dumbwaiter's sum (R375, R438). -/
def aloneCounts (c : Ctx) (q : Run) : Act := fun s =>
  let a := (q.collectives.find? (fun a => a.record == c.record)).getD ⟨c.record, 0, 1, []⟩
  let dw := onDumbwaiter c.plan c.r
  Act.each (fun h => fun s =>
    let next := if h = 0 then a.next0 else a.next1
    let waiting := (s.coll h).chunks.filter (fun y => y.slot == c.slot && y.record == c.record)
    let new := ((List.range (sumChunks c.plan c.r)).filter (fun k => decide (next ≤ k) && k % 2 == h)).length
    let n := new + waiting.length
    if n = 0 then [] else [.coll h { s.coll h with steps := (s.coll h).steps + new + (waiting.filter (fun y => !y.own)).length },
      .count (counterId (srcColl h) (if dw then 4 else 2)) n]) [0, 1] s

/-- A SUM record that has released its admission has its results in OUT; one of this device alone sums its own contributions
here, and releases it (R346, R348). -/
def execSum (slot : SlotId) (r : Nat) (s : State) : Host.Outcome State Fault Refusal :=
  Act.run (fun s =>
    let n := slot.val
    match bodyDue s n r 10 with
    | none => []
    | some (c, q) =>
      if q.summed.contains r then recordBody n r 10 (fun c => ⟨[], [], wholePart c 0 c.r.a, Act.none⟩) s
      else if q.collectives.any (fun a => a.record == r) && sumMembers s c.plan c.r == [deviceNumber s] then
        recordBody n r 10 (fun c => ⟨sumAlone c, [], wholePart c 0 c.r.a, Act.all [
          aloneCounts c q,
          Act.of (s.colls.map (fun x => .coll x.1 { x.2 with
            chunks := x.2.chunks.filter (fun y => !(y.slot == n && y.record == r)) })),
          dropDumbwaiter (collectiveId s n c.plan r),
          setRun n (fun q => { q with
            collectives := q.collectives.filter (fun a => a.record != r)
            summed := q.summed ++ [r] })]⟩) s
      else []) s

end Sys2Proof.Machine
end

