-- ==== Sys2Proof/Machine/Moves.lean ====
section
/-! DEFINITION. Sys2Proof/Machine/Moves.lean: remote accesses of commands and records (R86, R328 to R330) and MOVE records
(R261, R263). -/
namespace Sys2Proof.Machine

/-! ### Accesses -/

/-- Cuts of at most 4,096 bytes (R328). -/
def piecesOf (a n : Nat) : List (Nat × Nat) :=
  (List.range (ceilDiv n 4096)).map (fun i => (a + 4096 * i, min 4096 (n - 4096 * i)))

/-- The class of what an access belongs to (R305). -/
def XferOwner.cls (s : State) : XferOwner → Nat
  | .command i => (instrHdr i).elim 1 (fun h => (s.chute (chuteIx h.port h.chute)).cls.toNat)
  | .record slot _ => slotClass s slot.val

/-- An access changes. -/
def setXfer (x : Xfer) : Act := fun s => [.xfers (s.xfers.map (fun y => if y.xid = x.xid then x else y))]

/-- A message of this device, sealed under a key slot where one is given; the last activity is for a key that may carry no more (R86). -/
def sendSealed (cls kind : Nat) (m : Msg) (key : Option Nat) (spent : Act) : Act := fun s =>
  match key with
  | none => sendFrom cls none (.mem kind m) s
  | some i => match (s.key i).bind (fun k => k.spend.map (fun k' => (k, k'))) with
    | some (k, k') => Act.seq (Act.of [.key i (some k')]) (sendFrom cls none (.mem kind (sealMsg k m))) s
    | none => spent s

/-- The READ or WRITE message of an access goes out, the first time or again (R328, R329). -/
def sendAccess (x : Xfer) : Act := fun s =>
  sendSealed (x.owner.cls s) (if x.isRead then 2 else 1)
    ⟨false, false, false, BitVec.ofNat 16 x.length, BitVec.ofNat 12 (deviceNumber s), BitVec.ofNat 12 x.device,
      BitVec.ofNat 40 x.addr, x.xid, 0, x.sent, [], 0, false⟩ x.key
    (setXfer { x with done := true, refused := some true }) s

/-- One READ or WRITE of an owner goes to another device, sealed under key slot `key` where one is given; a read that is refused for its
sealing tries further key slots (R85, R86, notes/assumptions/17.md). -/
def access (o : XferOwner) (dev : Nat) (isRead : Bool) (key : Option Nat) (tries : List Nat) (a n : Nat) (bs : List Byte) : Act := fun s =>
  let x : Xfer := ⟨s.nextXid, o, dev, isRead, a, n, [], false, none, 0, 0, key, tries, if isRead then [] else bs⟩
  Act.seq (Act.of [.xfers (s.xfers ++ [x]), .nextXid (s.nextXid + 1)]) (sendAccess x) s

/-- The accesses of an owner, oldest first. -/
def xfersOf (s : State) (o : XferOwner) (isRead : Bool) : List Xfer := s.xfers.filter (fun x => decide (x.owner = o) && x.isRead == isRead)

/-- The accesses of an owner are over. -/
def dropXfers (o : XferOwner) : Act := fun s => [.xfers (s.xfers.filter (fun x => decide (x.owner ≠ o)))]

/-- The bytes that the answers to a read have brought. -/
def Xfer.got (x : Xfer) : List Byte :=
  let m := x.parts.foldl (fun m y => putMem m y.1 y.2) []
  (List.range x.length).map (fun i => Tab.look 0 m (x.addr + i))

/-- Bytes that reads have brought: a state in which the other device's bytes stand at their local addresses, in the clear. -/
def overlay (s : State) (xs : List Xfer) : State :=
  { s with
    mem := xs.foldl (fun m x => putMem m x.addr x.got) s.mem
    regions := []
    ecc := [] }

/-- Ranges that the other device refused. -/
def lostRanges (xs : List Xfer) : List (Nat × Nat) := (xs.filter (fun x => x.refused.isSome)).map (fun x => (x.addr, x.length))

/-- The event of a refused access of a MOVE (R330). -/
def refusedEvent (r t : Nat) (x : Xfer) : Option Malformed :=
  x.refused.map (fun isSealing => ⟨9, r, t, x.device, if isSealing then stSealed else stBadAddress⟩)

/-! ### MOVE (R263) -/

/-- Tensors of a MOVE that belong together: source and destination, then their scales (R263). -/
def movePairs (p : Plan) (r : Rec) : List (Nat × Nat) :=
  (r.a, r.out) :: (if (p.tensor r.a).scaled then [((p.tensor r.a).scale, (p.tensor r.out).scale)] else [])

/-- Whether a tensor lies on this device. -/
def moveHere (c : Ctx) (i : Nat) : Bool := (c.plan.tensor i).shelf || isLocal c.s (c.plan.tensor i).base

/-- Home of the split that moves element `f` of A (R263, R264). -/
def moveHome (c : Ctx) (f : Nat) : Nat :=
  let units := ceilDiv (c.plan.tensor c.r.a).count 512
  splitHome c.plan c.r (splitOf units c.r.split0 (min (f / 512) (units - 1))) 0 0

/-- Homes of the splits that move element `f` of tensor `i` of the source pair: an element of A's scale tensor goes with the data that it
scales (R47, R263). -/
def moveHomes (c : Ctx) (i f : Nat) : List Nat :=
  if i = c.r.a then [moveHome c f]
  else
    let t := c.plan.tensor c.r.a
    let ix := (c.plan.tensor i).index f
    let k := ix.getD t.blockDim 0 * 32
    (((List.range (min 32 (t.dim t.blockDim - k))).map (fun j => moveHome c (t.flat (ix.set t.blockDim (k + j))))).eraseDups)

/-- Parts of a compressed pair: source, destination and length, for codes, side entries and manifests (R93, R100). -/
def crateParts (t u : Tensor) (a b : Nat) : List (Nat × Nat × Nat) :=
  if t.comp = 3 then [(a, b, (t.crates + 1) * 4), (t.headerStart a, u.headerStart b, 8 * t.crates),
    (t.payloadStart a, u.payloadStart b, 512 * min t.capacity u.capacity)]
  else [(a, b, t.crates * t.crateBytes), (t.sideStart a, u.sideStart b, t.crates * t.sideBytes)]

/-- Element writes of an uncompressed pair, elements with refused bytes aside: codes bit for bit (R263, R330). -/
def moveElems (c src : Ctx) (lost : List (Nat × Nat)) (i j : Nat) : List ElemW :=
  let t := c.plan.tensor i
  (List.range t.count).flatMap (fun f =>
    if !moveHere c i && lost.any (meets (elemSpan c 0 i f)) then []
    else (moveHomes c i f).map (fun h => ⟨j, h, f, ⟨plainElem src h t f, false, false⟩⟩))

/-- Bytes of a compressed pair, by destination address. -/
def moveCrates (c src : Ctx) (lost : List (Nat × Nat)) (i j : Nat) : List (Nat × List Byte) :=
  let t := c.plan.tensor i
  let u := c.plan.tensor j
  (crateParts t u (localPart t.base) (localPart u.base)).flatMap (fun x =>
    if moveHere c i then [(x.2.1, memBytes src.s x.1 x.2.2)]
    else ((piecesOf x.1 x.2.2).filter (fun y => !lost.any (meets y))).map (fun y =>
      (x.2.1 + (y.1 - x.1), memBytes src.s y.1 y.2)))

/-- Byte ranges of a source tensor on another device. -/
def moveSpans (c : Ctx) (i : Nat) : List (Nat × Nat) :=
  let t := c.plan.tensor i
  let b := localPart t.base
  if t.comp ≠ 0 then (crateParts t t b b).map (fun x => (x.1, x.2.2))
  else
    let m : ByteMap := (List.range t.count).foldl (fun m f =>
      let x := elemSpan c 0 i f
      (List.range x.2).foldl (fun m k => Tab.ins m (x.1 + k) 0) m) []
    (byteRuns m).map (fun x => (x.1, x.2.length))

/-- Runs of bytes that a MOVE writes to another device; a nibble of a byte that the MOVE does not write is not stated
(notes/assumptions/6.md). -/
def remoteRuns (c src : Ctx) (lost : List (Nat × Nat)) (i j : Nat) : List (Nat × List Byte) :=
  if (c.plan.tensor i).comp ≠ 0 then moveCrates c src lost i j
  else
    let span := (c.plan.tensor j).extent
    let b := localPart (c.plan.tensor j).base
    let blank : State := { c.s with
      mem := putMem [] b ((List.range span).map (fun k => Config.freeByte c.s.free (b + k)))
      regions := []
      ecc := [] }
    byteRuns ((moveElems c src lost i j).foldl (elemBytes c blank) [])

/-- What a MOVE reads on this device, each element in the copy of its split's home. -/
def moveParts (c : Ctx) : List Part :=
  (movePairs c.plan c.r).flatMap (fun x =>
    let t := c.plan.tensor x.1
    if !moveHere c x.1 then []
    else if t.comp ≠ 0 then (crateParts t t (localPart t.base) (localPart t.base)).map (fun y => .bytes y.1 y.2.2)
    else if !t.shelf then [.codes 0 x.1 0 t.count]
    else (List.range t.count).flatMap (fun f => (moveHomes c x.1 f).map (fun h => .codes h x.1 f (f + 1))))

/-- Device on which a tensor of a MOVE lies. -/
def moveDevice (c : Ctx) (i : Nat) : Nat := domainDevice (c.plan.tensor i).base

/-- The accesses of a MOVE that concern tensor `i` of another device. -/
def accessesOf (c : Ctx) (i : Nat) (xs : List Xfer) : List Xfer :=
  let t := c.plan.tensor i
  let b := localPart t.base
  xs.filter (fun x => !moveHere c i && x.device == moveDevice c i && decide (b ≤ x.addr) && decide (x.addr < b + t.extent))

/-- Key slot that seals what a MOVE carries of source tensor `i`: of its region, or of the plan where it lies elsewhere, or the one under
which its reads were answered (R82, R86). -/
def moveKey (c : Ctx) (reads : List Xfer) (i : Nat) : Option Nat :=
  let t := c.plan.tensor i
  if !t.sealed then none else if moveHere c i then rangeKey c.s (localPart t.base)
  else ((accessesOf c i reads).findSome? (·.key)).or ((c.s.slot c.slot).keySlot.or ((keySlots c.s).head?))

/-- Key slots that remain to be tried for a sealed source of another device (notes/assumptions/17.md). -/
def moveTries (c : Ctx) (i : Nat) : List Nat :=
  if (c.plan.tensor i).sealed then (keySlots c.s).filter (fun k => moveKey c [] i != some k) else []

/-- The state in which the bytes of source tensor `i` stand at their local addresses. -/
def moveSource (c : Ctx) (reads : List Xfer) (i : Nat) : Ctx :=
  if moveHere c i then c else { c with s := overlay c.s (accessesOf c i reads) }

/-- The results of a MOVE on this device are stored, each pair of tensors from where its source lies to where its destination lies. -/
def moveStore (c : Ctx) (reads : List Xfer) : Act :=
  Act.each (fun x =>
    let src := moveSource c reads x.1
    let lost := lostRanges (accessesOf c x.1 reads)
    if !moveHere c x.2 then Act.none
    else if (c.plan.tensor x.1).comp ≠ 0 then Act.each (fun y => storeMem y.1 y.2) (moveCrates c src lost x.1 x.2)
    else storeElems c (moveElems c src lost x.1 x.2)) (movePairs c.plan c.r)

/-- The reads of a MOVE from other devices go out. -/
def moveReads (c : Ctx) (own : XferOwner) : Act :=
  Act.each (fun x => if moveHere c x.1 then Act.none else
    Act.each (fun y => Act.each (fun z => access own (moveDevice c x.1) true (moveKey c [] x.1) (moveTries c x.1) z.1 z.2 [])
      (piecesOf y.1 y.2)) (moveSpans c x.1)) (movePairs c.plan c.r)

/-- What a MOVE writes to other devices: source, device, address and bytes; where its outputs are undefined (`free`), free bytes (R70,
R260). -/
def moveRuns (c : Ctx) (reads : List Xfer) (free : Bool) : List (Nat × Nat × Nat × List Byte) :=
  (movePairs c.plan c.r).flatMap (fun x => if moveHere c x.2 then [] else
    (remoteRuns c (moveSource c reads x.1) (lostRanges (accessesOf c x.1 reads)) x.1 x.2).map (fun y => (x.1, moveDevice c x.2, y.1,
      if free then (List.range y.2.length).map (fun k => Config.freeByte c.s.free (y.1 + k)) else y.2)))

/-- The writes of a MOVE to other devices go out. -/
def moveWrites (c : Ctx) (own : XferOwner) (reads : List Xfer) (free : Bool) : Act :=
  Act.each (fun x => Act.each (fun z => access own x.2.1 false (moveKey c reads x.1) [] z.1 z.2 (slice x.2.2.2 (z.1 - x.2.2.1) z.2))
    (piecesOf x.2.2.1 x.2.2.2.length)) (moveRuns c reads free)

/-- The body of a MOVE goes as far as it can: reads of other devices, then the results here and the writes there; it ends once
every access is answered (R329, R330). Data and scales are judged each by where they lie. A device that no route reaches ends the job
(R333). -/
def moveStep (n r : Nat) : Act := fun s =>
  match bodyDue s n r 11 with
  | none => []
  | some (c, q) =>
    let own := XferOwner.record (Fin.ofNat 16 n) r
    let reads := xfersOf s own true
    let writes := xfersOf s own false
    let pairs := movePairs c.plan c.r
    let far := pairs.any (fun x => !moveHere c x.1)
    let parts := moveParts c
    let ends (events : List Malformed) : Act := Act.all [reportEvents n (inputEvents c parts ++ events), taintAct c, dropXfers own, markBody n r]
    let readEvents := pairs.flatMap (fun x => (accessesOf c x.1 reads).filterMap (refusedEvent r c.r.a))
    let free := outputsOpen s n c.plan q r
    let runs := moveRuns c reads free
    if landingEscape c parts then readParts c parts s
    else if !writes.isEmpty then
      if writes.all (·.done) then ends (readEvents ++ writes.filterMap (refusedEvent r c.r.out)) s else []
    else if far && reads.isEmpty then
      if pairs.any (fun x => !moveHere c x.1 && !reachable s (moveDevice c x.1)) then degrade n 3 s else moveReads c own s
    else if !reads.all (·.done) then []
    else if runs.any (fun x => !reachable s x.2.1) then degrade n 3 s
    else Act.all [blurDraw, Act.when (!runs.isEmpty) (Act.of [.fresh]), readParts c parts, moveStore c reads, moveWrites c own reads free,
      Act.when runs.isEmpty (ends readEvents)] s

/-- MOVE (R263): its body, or what of it can be done before the other device answers. -/
def execMove (slot : SlotId) (r : Nat) (s : State) : Host.Outcome State Fault Refusal := (moveStep slot.val r).run s

end Sys2Proof.Machine
end

