-- ==== Sys2Proof/Machine/Races.lean ====
section
/-! DEFINITION. Sys2Proof/Machine/Races.lean: bytes that two agents touch in no order (R14, R69, R70, R293): they are undefined, and so
are the outputs of a run whose bytes the host touches. -/
namespace Sys2Proof.Machine

/-- Held bytes that something touches, and whether it writes them. -/
structure Touch where
  write : Bool
  a : Nat
  n : Nat
  deriving DecidableEq, Repr

/-- A local range that is touched. -/
def touchRange (write : Bool) (a n : Nat) : List Touch := (heldRanges a n).map (fun x => ⟨write, x.1, x.2⟩)

/-- The range of a domain address, where it lies on this device. -/
def touchLocal (s : State) (write : Bool) (d : Dword) (n : Nat) : List Touch :=
  if isLocal s d.toNat && rangeOk s (localPart d.toNat) n then touchRange write (localPart d.toNat) n else []

/-- What a memory command touches on this device (R293). -/
def commandTouches (s : State) : Instr → List Touch
  | .writeMem _ dev _ len => touchLocal s true dev len.toNat
  | .readMem _ dev _ len => touchLocal s false dev len.toNat
  | .fillMem _ dev len _ => match (if isLocal s dev.toNat then wholeSlot s (localPart dev.toNat) len.toNat else none) with
    | some _ => touchRange true (localPart dev.toNat) planArea
    | none => touchLocal s true dev len.toNat
  | .copyMem _ src dst len => touchLocal s false src len.toNat ++ touchLocal s true dst len.toNat
  | _ => []

/-- Bytes that both touch, one of them writing. -/
def sharedBytes (xs ys : List Touch) : List (Nat × Nat) :=
  xs.flatMap (fun x => ys.filterMap (fun y =>
    let lo := max x.a y.a
    let hi := min (x.a + x.n) (y.a + y.n)
    if (x.write || y.write) = true ∧ lo < hi then some (lo, hi - lo) else none))

/-- Other memory commands that are in progress: two that are started together are ordered by nothing (R288, R293). -/
def otherCommands (s : State) (h : Hdr) : List Instr := s.started.filter (fun j => decide (instrHdr j ≠ some h))

/-- Bytes that a command shares with another in no order. -/
def commandRaces (s : State) (h : Hdr) (i : Instr) : List (Nat × Nat) :=
  ((otherCommands s h).flatMap (fun j => sharedBytes (commandTouches s i) (commandTouches s j)))
    ++ (s.races.filter (fun x => x.1 == h)).map (·.2)

/-! ### Runs (R70) -/

/-- Held bytes of a tensor: of every home's copy of a shelf tensor. -/
def tensorTouches (s : State) (n : Nat) (p : Plan) (write : Bool) (i : Nat) : List Touch :=
  if (p.tensor i).shelf then
    (List.range p.homes).flatMap (fun h => match homeCore s p h with
      | some k => touchRange write (shelfBase + k * shelfSlot + (s.slot n).shelfBase.getD h 0 + (p.tensor i).base) (p.extent i)
      | none => [])
  else if p.isHere s i && !p.control s i then touchRange write (localPart (p.tensor i).base) (p.extent i) else []

/-- What a record touches, trays among it (R246). -/
def recordTouches (s : State) (n : Nat) (p : Plan) (r : Nat) : List Touch :=
  let rc := p.record r
  (recWrites p rc).flatMap (tensorTouches s n p true) ++ (recReads p rc).flatMap (tensorTouches s n p false)
    ++ (if rc.opcode = 7 ∨ rc.opcode = 8 then (p.pageSet rc).elim [] (fun x =>
          (List.range x.trayCount).flatMap (fun t => touchRange (rc.opcode == 8) (trayAddr s n p (setIndex p rc) t) x.trayBytes)) else [])

/-- Whether record `b` is record `a`, or comes after it (R270). -/
def comesAfter (p : Plan) (a b : Nat) : Bool :=
  a == b || decide (p.stepOf a < p.stepOf b) || ((p.after[b]?).getD []).contains a

/-- Whether a hook that the plan has signalled orders a host access with a record (R70): the record has completed, and one at or after it
has signalled; or it waits, itself or through one before it, on a hook that it has not acquired, and the plan has signalled. -/
def hookOrders (p : Plan) (q : Run) (r : Nat) : Bool :=
  (q.completed.contains r && q.released.any (comesAfter p r))
    || (!q.completed.contains r && !q.inFlight.contains r && !q.released.isEmpty
      && (List.range p.records.length).any (fun w => comesAfter p w r && (p.record w).waitHook != 0xFFFF && !q.acquired.contains w
          && !q.isDone p w))

/-- Runs whose bytes a host access touches in no order with them, and those bytes: bytes that the run reads may not be written, those
that it writes may not be touched (R70). A run touches nothing between its periods. -/
def runRaces (s : State) (ts : List Touch) : List (Nat × List (Nat × Nat)) :=
  s.plans.filterMap (fun x => match (s.slot x.1).run with
    | none => none
    | some q =>
      if !q.active then none
      else
        let l := ((List.range x.2.records.length).filter (fun r => bit (x.2.record r).tiers q.tier && !hookOrders x.2 q r)).flatMap (fun r =>
          sharedBytes ts (recordTouches s x.1 x.2 r))
        if l.isEmpty then none else some (x.1, l))

/-! ### Records in flight (R14) -/

/-- What the records in flight touch: no one else sees what they store before an ordering step (R14, R269). -/
def flightTouches (s : State) : List Touch :=
  s.plans.flatMap (fun x => match (s.slot x.1).run with
    | none => []
    | some q => q.inFlight.flatMap (recordTouches s x.1 x.2))

/-- Bytes that an access of another device or of a codec engine shares with records in flight. -/
def flightBytes (s : State) (ts : List Touch) : List (Nat × Nat) := if ts.isEmpty then [] else sharedBytes ts (flightTouches s)

/-- Device memory as such an access sees it: uncorrectable words and the bytes of records in flight are free (R14, notes/assumptions/6.md). -/
def seen (s : State) (ts : List Touch) : State :=
  { s.blur with mem := (flightBytes s ts).foldl (fun m x =>
      putMem m x.1 ((List.range x.2).map (fun k => Config.freeByte s.free (x.1 + k)))) s.blur.mem }

/-- The free value that this takes, if it takes one. -/
def seenDraw (ts : List Touch) : Act := fun s => if (flightBytes s ts).isEmpty then blurDraw s else [.fresh]

/-- Such an access that writes: the outputs of the records in flight whose bytes it touches are undefined (R14, R70). -/
def otherWrite (ts : List Touch) (a : Act) : Act := fun s =>
  Act.seq (Act.each (fun x => match (s.slot x.1).run with
    | none => Act.none
    | some q =>
      let l := q.inFlight.filter (fun r => !(sharedBytes ts (recordTouches s x.1 x.2 r)).isEmpty)
      if l.isEmpty then Act.none else setRun x.1 (fun q => { q with unsettled := (q.unsettled ++ l).eraseDups })) s.plans) a s

/-! ### Undefined bytes -/

/-- Ranges of held bytes take free values (notes/assumptions/6.md). -/
def spoilBytes (l : List (Nat × Nat)) : Act := fun s =>
  if l.isEmpty then [] else
  Act.seq (Act.of [.fresh]) (Act.each (fun x => storeMem x.1 ((List.range x.2).map (fun k => Config.freeByte s.free (x.1 + k)))) l) s

/-- A host access that touches bytes of runs in no order with them: the bytes, and the outputs of those runs, are undefined (R70, R293). -/
def hostAccess (ts : List Touch) (a : Act) : Act := fun s =>
  let rs := runRaces s ts
  let l := rs.flatMap (·.2)
  Act.all [Act.each (fun x => Act.seq (setRun x.1 (fun q => { q with raced := true })) (spoil x.1)) rs, spoilBytes l, a,
    spoilBytes (if ts.any (·.write) then l else [])] s

/-- A memory command that shares bytes with another, or with a run, in no order with it: those bytes are undefined for both (R293). -/
def memCommand (i : Instr) (a : Act) : Act := fun s =>
  match instrHdr i with
  | none => a s
  | some h =>
    let ts := commandTouches s i
    let l := commandRaces s h i
    let told := (otherCommands s h).filterMap (fun j => (instrHdr j).map (fun g => (g, sharedBytes ts (commandTouches s j))))
    Act.all [
      Act.when (!l.isEmpty) (fun s => [.races ((s.races.filter (fun x => s.started.any (fun j => instrHdr j = some x.1)))
        ++ told.flatMap (fun x => x.2.map (fun r => (x.1, r))))]),
      spoilBytes l, hostAccess ts a, spoilBytes (if ts.any (·.write) then l else [])] s

end Sys2Proof.Machine
end

