-- ==== Sys2Proof/Machine/MemCommands.lean ====
section
/-! DEFINITION. Sys2Proof/Machine/MemCommands.lean: the memory commands (R62, R81, R84, R85, R293), sealed regions (R79, R83),
and the remote accesses that links bring and answer (R329, R330). -/
namespace Sys2Proof.Machine

/-! ### Ranges -/

/-- Whether a local byte lies in a sealed region (R79). -/
def sealedAt (s : State) (a : Nat) : Bool := (regionAt s (phys a)).isSome

/-- Offsets at which a run of `n` bytes from `a` reaches another 4 KiB granule. -/
def granuleCuts (a n : Nat) : List Nat := (List.range (n / 4096 + 2)).map (fun i => 4096 * i - a % 4096)

/-- Offsets and lengths that cut `n` bytes wherever one of the addresses reaches another granule: the bytes of a piece lie in
one sealed region, or in none. -/
def cutRange (l : List Nat) (n : Nat) : List (Nat × Nat) :=
  let cuts := (sortParts ((0, 0) :: (l.flatMap (fun a => granuleCuts a n)).map (fun x => (x, 0)))).map (·.1)
  (List.zip cuts (cuts.drop 1 ++ [n])).filterMap (fun x => if x.1 < min x.2 n then some (x.1, min x.2 n - x.1) else none)

/-- Whether every byte, or any byte, of a local range is sealed. -/
def anySealed (s : State) (a n : Nat) : Bool := (cutRange [a] n).any (fun x => sealedAt s (a + x.1))

/-- The one region that holds a whole local range, if any. -/
def wholeRegion (s : State) (a n : Nat) : Option Region :=
  match regionAt s (phys a) with
  | none => none
  | some (i, r) => if (cutRange [a] n).all (fun x => (regionAt s (phys (a + x.1))).any (fun y => y.1 == i)) then some r else none

/-- Whether a range touches a tainted shelf (R84). -/
def touchesTaint (s : State) (a : Nat) : Bool := (shelfCore a).any s.tainted

/-- Whether a word belongs to the landing set of a job (R75). -/
def inLanding (s : State) (v : Nat) : Bool :=
  (List.range 16).any (fun n => match runOf s n with
    | some (p, q) => p.landing.every != 0 && q.active
      && (landingRanges s n p).any (fun x => (badWords s x.1 x.2).any (fun w => phys w / 8 == phys v / 8))
    | none => false)

/-- Uncorrectable words that a write to a range meets: those it covers in part, in words or in sealed blocks (R74, R80). -/
def badStore (s : State) (isSealed : Bool) (a n : Nat) : List Nat :=
  if isSealed then
    (badWords s (a / 16 * 16) (roundUp 16 (a + n) - a / 16 * 16)).filter (fun v =>
      decide (v / 16 * 16 < a) || decide (a + n < v / 16 * 16 + 16))
  else badPartial s a n

/-- The reply of a memory command that met words: the lowest one outside every landing set is reported (R75, R107). -/
def memReply (s : State) (bad : List Nat) : Reply :=
  match (bad.filter (fun v => !inLanding s v)) with
  | [] => Reply.of stDone
  | v :: vs => let a := vs.foldl min v
    ⟨stMalformed, 1, a % 2 ^ 32, a / 2 ^ 32, 0, false, 0⟩

/-! ### Answers of other devices -/

/-- The reply of a command whose remote accesses are answered (R330). -/
def remoteReply (xs : List Xfer) (other : Reply) : Reply :=
  match xs.findSome? (·.refused) with
  | some true => Reply.of stSealed
  | some false => Reply.of stBadAddress
  | none => other

/-- Reads of a command, one for each piece; `tries` are the key slots under which a sealed source may be read (R85, R86). -/
def readRemote (i : Instr) (dev : Nat) (tries : List Nat) (a n : Nat) : Act :=
  Act.each (fun x => access (.command i) dev true none tries x.1 x.2 []) (piecesOf a n)

/-- Writes of a command, one for each piece. -/
def writeRemote (i : Instr) (dev : Nat) (key : Option Nat) (a : Nat) (bs : List Byte) : Act :=
  Act.each (fun x => access (.command i) dev false key [] x.1 x.2 (slice bs (x.1 - a) x.2)) (piecesOf a bs.length)

/-- A local range, checked, or another device that a route reaches, or the reply that refuses (R62, R68, R333). -/
inductive Target where
  | here (a : Nat)
  | remote (dev a : Nat)
  | refused (r : Reply)

/-- What a domain address of a command names: a packet field at an offset (R62, R68). -/
def target (s : State) (off : Nat) (d : Dword) (n : Nat) : Target :=
  let a := localPart d.toNat
  if 2 ^ 52 ≤ d.toNat then .refused (Reply.badField off)
  else if isLocal s d.toNat then if rangeOk s a n then .here a else .refused (Reply.of stBadAddress)
  else if 2 ^ 40 < a + n ∨ reachable s (domainDevice d.toNat) = false then .refused (Reply.of stBadAddress)
  else .remote (domainDevice d.toNat) a

/-! ### WRITE_MEM, READ_MEM -/

/-- WRITE_MEM (R62, R81): the host's bytes are stored as they are. -/
def writeMemCommand (h : Hdr) (dev host len : Dword) : Act := fun s =>
  let n := len.toNat
  if n = 0 then finish h stDone s
  else match target s 32 dev n with
    | .refused r => complete h r s
    | .here a => Act.seq (storeMem a (hostData s h host.toNat n)) (complete h (memReply s (badPartial s a n))) s
    | .remote d a => writeRemote (.writeMem h dev host len) d none a (hostData s h host.toNat n) s

def execWriteMem (h : Hdr) (dev host len : Dword) (s : State) : Host.Outcome State Fault Refusal :=
  (hostCommand h false (memCommand (.writeMem h dev host len) (writeMemCommand h dev host len))).run s

/-- READ_MEM (R62, R81, R84): the stored bytes go to the host; what it is given for an uncorrectable word is not stated
(notes/assumptions/6.md). -/
def readMemCommand (h : Hdr) (dev host len : Dword) : Act := fun s =>
  let n := len.toNat
  if n = 0 then finish h stDone s
  else match target s 32 dev n with
    | .refused r => complete h r s
    | .here a =>
      if touchesTaint s a then finish h stSealed s
      else Act.all [blurDraw, meetRange a n, toHost h host.toNat (memBytes s.blur a n),
        complete h (memReply s (badWords s a n))] s
    | .remote d a => readRemote (.readMem h dev host len) d [] a n s

def execReadMem (h : Hdr) (dev host len : Dword) (s : State) : Host.Outcome State Fault Refusal :=
  (hostCommand h false (memCommand (.readMem h dev host len) (readMemCommand h dev host len))).run s

/-! ### FILL_MEM -/

/-- The bytes of a fill. -/
def fillBytes (pattern : Dword) (n : Nat) : List Byte := (List.replicate (n / 8) (toLE 8 pattern.toNat)).flatten

/-- FILL_MEM (R62, R84, R293). -/
def fillMemCommand (h : Hdr) (dev len pattern : Dword) : Act := fun s =>
  let n := len.toNat
  if n = 0 then finish h stDone s
  else if 2 ^ 52 ≤ dev.toNat ∨ dev.toNat % 8 ≠ 0 then badField h 32 s
  else if n % 8 ≠ 0 then badField h 40 s
  else match (if isLocal s dev.toNat then wholeSlot s (localPart dev.toNat) n else none) with
    | some c => Act.seq (storeMem (localPart dev.toNat) (fillBytes pattern planArea))
        (fun s => [.fills (s.fills ++ [⟨h, c, pattern⟩])]) s
    | none => match target s 32 dev n with
      | .refused r => complete h r s
      | .here a => Act.seq (storeMem a (fillBytes pattern n)) (finish h stDone) s
      | .remote d a => writeRemote (.fillMem h dev len pattern) d none a (fillBytes pattern n) s

def execFillMem (h : Hdr) (dev len pattern : Dword) (s : State) : Host.Outcome State Fault Refusal :=
  (command h false (memCommand (.fillMem h dev len pattern) (fillMemCommand h dev len pattern))).run s

/-- SHELF_EPILOGUE_FILL (R84): the core runs no record, so the epilogue buffer is written and the taint cleared. -/
def execShelfEpilogueFill (c : CoreId) (s : State) : Host.Outcome State Fault Refusal :=
  Act.run (fun s =>
    let k := coreIx c
    match s.fills.find? (fun f => f.core == k) with
    | none => []
    | some f =>
      if !(s.core k).busy.isEmpty then []
      else Act.all [storeMem (shelfBase + k * shelfSlot + planArea) (fillBytes f.pattern (shelfSlot - planArea)),
        Act.of [.taint k [], .fills (s.fills.erase f)], finish f.hdr stDone] s) s

/-! ### COPY_MEM -/

/-- Bytes as a copy reads them: sealed ones deciphered (R85). -/
def copyRead (s : State) (a n : Nat) : List Byte := (List.range n).map (fun i => plainByte s (a + i))

/-- Bytes as a copy writes them: enciphered where they lie in a sealed region (R85). -/
def copyStore (a : Nat) (bs : List Byte) : Act := fun s =>
  Act.each (fun x => planStore (sealedAt s (a + x.1)) (a + x.1) (slice bs x.1 x.2)) (cutRange [a] bs.length) s

/-- Uncorrectable words that a copy meets. -/
def copyBad (s : State) (src dst : Option Nat) (n : Nat) : List Nat :=
  (match src with
    | some a => badWords s a n
    | none => [])
  ++ (match dst with
    | some b => (cutRange [b] n).flatMap (fun x => badStore s (sealedAt s (b + x.1)) (b + x.1) x.2)
    | none => [])

/-- Whether a copy would take sealed bytes to plain ones (R85). -/
def copyUnseals (s : State) (a b n : Nat) : Bool := (cutRange [a, b] n).any (fun x => sealedAt s (a + x.1) && !sealedAt s (b + x.1))

/-- Whether two ranges of domain addresses share a byte (R293). -/
def overlapping (s : State) (x y n : Nat) : Bool :=
  (isLocal s x == isLocal s y) && (isLocal s x || domainDevice x == domainDevice y)
    && anyMeet (heldRanges (localPart x) n) (heldRanges (localPart y) n)

/-- COPY_MEM as far as it can go: reads of another device, then the stores here or the writes there (R85, R86, R329). A source there is
read in the clear; one that proves sealed is read again under the keys that this device holds, where the bytes go to sealed ones
(notes/assumptions/17.md). -/
def copyStep (h : Hdr) (src dst len : Dword) (a b : Target) : Act := fun s =>
  let i := Instr.copyMem h src dst len
  let n := len.toNat
  let reads := xfersOf s (.command i) true
  let writes := xfersOf s (.command i) false
  let got := copyRead (overlay s reads)
  match a, b with
  | .here a, .here b =>
    Act.all [blurDraw, meetRange a n, copyStore b (copyRead s.blur a n), complete h (memReply s (copyBad s (some a) (some b) n))] s
  | .here a, .remote d b =>
    if writes.isEmpty then
      Act.all [blurDraw, meetRange a n,
        Act.each (fun x => writeRemote i d (rangeKey s (a + x.1)) (b + x.1) (copyRead s.blur (a + x.1) x.2)) (cutRange [a] n)] s
    else Act.seq (dropXfers (.command i)) (complete h (remoteReply writes (memReply s (copyBad s (some a) none n)))) s
  | .remote d a, .here b =>
    if reads.isEmpty then
      Act.each (fun x => readRemote i d (if sealedAt s (b + x.1) then keySlots s else []) (a + x.1) x.2) (cutRange [b] n) s
    else Act.all [
      Act.each (fun x => if x.refused.isSome then Act.none else copyStore (b + (x.addr - a)) (got x.addr x.length)) reads,
      dropXfers (.command i), complete h (remoteReply reads (memReply s (copyBad s none (some b) n)))] s
  | .remote d a, .remote d' b =>
    if reads.isEmpty then readRemote i d (keySlots s) a n s
    else if writes.isEmpty ∧ reads.any (fun x => x.refused.isNone) = true then
      Act.each (fun x => if x.refused.isSome then Act.none else writeRemote i d' x.key (b + (x.addr - a)) (got x.addr x.length)) reads s
    else Act.seq (dropXfers (.command i)) (complete h (remoteReply (reads ++ writes) (Reply.of stDone))) s
  | _, _ => []

/-- COPY_MEM (R62, R84, R85, R293). -/
def copyMemCommand (h : Hdr) (src dst len : Dword) : Act := fun s =>
  let n := len.toNat
  if n = 0 then finish h stDone s
  else match target s 32 src n, target s 40 dst n with
    | .refused r, .refused q => complete h (if r.status = stBadParameter ∨ q.status ≠ stBadParameter then r else q) s
    | .refused r, _ => complete h r s
    | _, .refused q => complete h q s
    | a, b =>
      if overlapping s src.toNat dst.toNat n then badField h 40 s
      else if (match a with
        | .here x => touchesTaint s x || (match b with
          | .here y => copyUnseals s x y n
          | _ => false)
        | _ => false) = true then finish h stSealed s
      else copyStep h src dst len a b s

def execCopyMem (h : Hdr) (src dst len : Dword) (s : State) : Host.Outcome State Fault Refusal :=
  (command h false (memCommand (.copyMem h src dst len) (copyMemCommand h src dst len))).run s

/-! ### Sealed regions -/

/-- Bytes of one rack buffer (R357). -/
def StreamDesc.bufferBytes (d : StreamDesc) : Nat :=
  let p := ceilDiv d.width 256 * 512
  let ch := if d.chroma = 0 then d.height / 2 else d.height
  roundUp 65536 (roundUp 64 (p * d.height) + 2 * roundUp 64 (p / 2 * ch) + 65536)

/-- The racks of the open streams (R357). -/
def racks (s : State) : List (Nat × Nat) :=
  (s.streams.filter (fun x => x.2.opened)).map (fun x => (x.2.desc.rackBase, x.2.desc.buffers * x.2.desc.bufferBytes))

/-- Held ranges of the tensors of loaded plans with a given sealed flag, and of the landing copies of those plans (R83). -/
def planRanges (s : State) (isSealed : Bool) : List (Nat × Nat) :=
  s.plans.flatMap (fun x =>
    ((List.range x.2.tensors.length).filter (fun i => x.2.isHere s i && (x.2.tensor i).sealed == isSealed)).flatMap (fun i =>
      heldRanges (localPart (x.2.tensor i).base) (x.2.extent i))
    ++ (if x.2.landing.every = 0 then [] else
      heldRanges x.2.landing.copy0 x.2.landing.copySize ++ heldRanges x.2.landing.copy1 x.2.landing.copySize))

/-- Regions of the table. -/
def regionRanges (s : State) : List (Nat × Nat) := s.regions.filterMap (fun x => x.2.map (fun r => (r.base, r.size)))

/-- SEAL_REGION (R62, R79, R83). A SIZE of 0 seals nothing; BAD_ADDRESS comes before BAD_PARAMETER, and BAD_PARAMETER before BUSY: the
spec gives none of the three (notes/assumptions/29.md). -/
def sealCommand (h : Hdr) (base size rid : Dword) (key : Byte) : Act := fun s =>
  let a := base.toNat
  let n := size.toNat
  let free := (List.range 256).find? (fun i => (s.region i).isNone)
  if 2 ^ 40 ≤ a then badField h 32 s
  else if n = 0 then finish h stDone s
  else if !rangeOk s a n then finish h stBadAddress s
  else if a % 65536 ≠ 0 ∨ cellarEnd < a + n ∨ anyMeet (regionRanges s) [(a, n)] = true then badField h 32 s
  else if n % 65536 ≠ 0 then badField h 40 s
  else if 63 < key.toNat ∨ (s.key key.toNat).isNone = true then badField h 56 s
  else match free with
    | none => finish h stBadParameter s
    | some i =>
      if anyMeet (planRanges s false ++ (racks s).flatMap (fun x => heldRanges x.1 x.2)) [(a, n)] then finish h stBusy s
      else Act.seq (Act.of [.region i (some ⟨a, n, rid, key.toNat⟩)]) (done3 h i 0 0) s

def execSealRegion (h : Hdr) (base size rid : Dword) (key : Byte) (s : State) : Host.Outcome State Fault Refusal :=
  (command h false (sealCommand h base size rid key)).run s

/-- UNSEAL_REGION (R83): a base that names no region is a wrong field. -/
def unsealCommand (h : Hdr) (base : Dword) : Act := fun s =>
  if 2 ^ 40 ≤ base.toNat then badField h 32 s
  else match s.regions.find? (fun x => x.2.any (fun r => r.base == base.toNat)) with
    | some (i, some r) =>
      if anyMeet (planRanges s true ++ (racks s).flatMap (fun x => heldRanges x.1 x.2)) [(r.base, r.size)] then finish h stBusy s
      else Act.seq (Act.of [.region i none]) (finish h stDone) s
    | _ => badField h 32 s

def execUnsealRegion (h : Hdr) (base : Dword) (s : State) : Host.Outcome State Fault Refusal :=
  (command h false (unsealCommand h base)).run s

end Sys2Proof.Machine
end

