-- ==== Sys2Proof/Machine/Reports.lean ====
section
/-! DEFINITION. Sys2Proof/Machine/Reports.lean: firmware images (R423, R424), IDENT (R402), the inventory (R379), the ATTEST report
(R430), ledger records and counters as they are read (R432 to R441). -/
namespace Sys2Proof.Machine

/-! ### Firmware images (R423, R424) -/

/-- The image that a bank holds, by its LENGTH. -/
def bankImage (bank : List Byte) : List Byte := bank.take (fieldLE bank 4 4)

/-- Whether an image passes verification (R424). -/
def imageOk (minSvn : Nat) (b : List Byte) : Bool :=
  let n := b.length
  decide (4096 ≤ n) && decide (n ≤ 28 * 2 ^ 20) && n % 4096 == 0 && fieldLE b 0 2 == 1 && allZero (slice b 2 2) && fieldLE b 4 4 == n
    && decide (fieldLE b 12 2 ≤ 63) && decide (fieldLE b 14 1 ≤ 1) && allZero (slice b 15 1) && allZero (slice b 176 80)
    && sha512 (slice b 16 32) == toLE 64 Config.fwKeyHash.toNat
    && sha512 (patch b 48 (List.replicate 128 0)) == slice b 48 64
    && edVerify (slice b 16 32) (slice b 0 112) (slice b 112 64)
    && decide (minSvn ≤ fieldLE b 12 2)

/-- A flash bank: false is A. -/
def Flash.bank (f : Flash) (b : Bool) : List Byte := if b then f.bankB else f.bankA

/-- Whether a bank's image passes verification. -/
def Flash.bankOk (f : Flash) (b : Bool) : Bool := imageOk f.minSvn (bankImage (f.bank b))

/-- Version of a bank, 0 if it fails verification (R402). -/
def Flash.bankVersion (f : Flash) (b : Bool) : Nat := if f.bankOk b then fieldLE (f.bank b) 8 4 else 0

/-- DIGEST of a bank, zeros if it fails verification (R430). -/
def Flash.bankDigest (f : Flash) (b : Bool) : List Byte := if f.bankOk b then slice (f.bank b) 48 64 else List.replicate 64 0

/-- SVN of the running image (R430). -/
def runningSvn (s : State) : Nat := if s.firmware.recovery then 0 else fieldLE (s.flash.bank s.firmware.bankB) 12 2

/-! ### IDENT and the inventory (R379, R402) -/

/-- Good physical cores. -/
def goodCores (s : State) : Nat := ((List.range 20).map (fun t => (s.tile t).goodCores)).sum

/-- Cores that serve positions (R266). -/
def activeCores (s : State) : List Nat := ((List.range 20).flatMap (fun t => (s.tile t).positions.filterMap id)).eraseDups

/-- Units sheeted, at shipment and since (R379). -/
def sheetedUnits (s : State) : Nat := s.flash.sheetedShipped + s.flash.sheetedInService

/-- The 256 bytes of IDENT as a port reads them (R402). -/
def identBytes (s : State) (port : Nat) : List Byte :=
  padTo 256 (toLE 2 Config.vendorId.toNat ++ toLE 2 0x0D20 ++ toLE 1 Config.stepping.toNat ++ toLE 1 port ++ toLE 2 1
    ++ toLE 8 Config.serial.toNat
    ++ toLE 4 s.firmware.version.toNat ++ toLE 4 (b2n s.firmware.bankB)
    ++ toLE 4 (s.flash.bankVersion false) ++ toLE 4 (s.flash.bankVersion true)
    ++ toLE 8 (deviceNumber s + 2 ^ 12 * b2n s.twin.bound + 2 ^ 13 * b2n s.twin.mode + 2 ^ 14 * b2n s.twin.steppedOut)
    ++ toLE 2 (activeCores s).length ++ toLE 2 (goodCores s) ++ toLE 2 (min (sheetedUnits s) 0xFFFF) ++ toLE 2 0
    ++ padTo 16 (ascii "AQ-PD20-L") ++ s.firmware.digest)

/-- Mask of the bits at which a condition holds. -/
def maskOf (n : Nat) (f : Nat → Bool) : Nat := (((List.range n).filter f).map (2 ^ ·)).sum

/-- A tile's entry of the inventory (R379). -/
def tileEntry (s : State) (t : Nat) : List Byte :=
  let v := s.tile t
  let act := activeCores s
  padTo 64 (toLE 2 (maskOf 13 (fun c => !v.sheeted.getLsbD c)) ++ toLE 2 (maskOf 13 (fun c => act.contains (16 * t + c)))
    ++ toLE 1 (match v.spare with
      | some c => c.val
      | none => 0xFF)
    ++ toLE 1 0 ++ toLE 2 v.sheeted.toNat
    ++ (List.range 12).flatMap (fun p => toLE 2 ((v.positions.getD p none).getD 0xFFFF))
    ++ (List.range 4).flatMap (fun i => toLE 1 (v.bankSpares.getD i 0)) ++ (List.range 4).flatMap (fun i => toLE 1 (v.inPlace.getD i 0))
    ++ (List.range 4).flatMap (fun i => toLE 1 (v.edgeSpare.getD i 0xFF)))

/-- A hub's entry of the inventory (R379). -/
def hubEntry (s : State) (h : Nat) : List Byte :=
  padTo 64 (toLE 1 (maskOf 8 (fun e => !(s.engine (8 * h + e)).sheeted)) ++ toLE 1 (maskOf 8 (fun j => !(s.link (8 * h + j)).sheeted))
    ++ (List.range 8).flatMap (fun j => toLE 1 (s.link (8 * h + j)).retired.toNat)
    ++ toLE 1 (if (s.coll h).sheeted then 0 else (s.coll h).good) ++ toLE 1 (s.hub h).spares ++ toLE 1 (s.hub h).inPlace)

/-- The 1,424 bytes of the inventory (R379). -/
def inventoryBytes (s : State) : List Byte :=
  toLE 2 1 ++ toLE 2 1424 ++ toLE 4 (sheetedUnits s) ++ toLE 4 s.flash.sheetedInService ++ toLE 4 0
    ++ (List.range 20).flatMap (tileEntry s) ++ (List.range 2).flatMap (hubEntry s)

/-! ### ATTEST (R430) -/

/-- A plan slot's digest, a key slot's entry and a region's entry of the report. -/
def attestPlan (s : State) (n : Nat) : List Byte := ((s.slot n).plan.map (·.digest)).getD (List.replicate 64 0)
def attestKey (s : State) (k : Nat) : List Byte :=
  match s.key k with
  | some v => toLE 4 v.keyId.toNat ++ toLE 4 v.policy.toNat ++ v.ownerHash.take 24
  | none => List.replicate 32 0
def attestRegion (s : State) (i : Nat) : List Byte :=
  match s.region i with
  | some r => padTo 32 (toLE 8 r.base ++ toLE 8 r.size ++ toLE 8 r.rid.toNat ++ toLE 1 r.key
      ++ toLE 1 (b2n (s.taint.any (fun x => x.2.contains r.rid))))
  | none => List.replicate 32 0

/-- The device's public keys, and the manufacturing signature over the serial number and them (R430, R431; that it is one of Ed25519 is
PRESUMED from its 64 bytes, notes/assumptions/8.md). -/
def identityKey : List Byte := edPublic (toLE 32 Config.identitySecret.toNat)
def wrapKey : List Byte := x25519Public (toLE 32 Config.wrapSecret.toNat)
def mfgSig : List Byte := edSign (toLE 32 Config.mfgSecret.toNat) (toLE 8 Config.serial.toNat ++ identityKey ++ wrapKey)

/-- Bytes 0 to 13,135 of the report. -/
def attestBody (s : State) (nonce : BitVec 256) : List Byte :=
  toLE 2 1 ++ toLE 2 0 ++ toLE 4 13200 ++ toLE 8 Config.serial.toNat ++ toLE 32 nonce.toNat ++ toLE 4 s.firmware.version.toNat
    ++ toLE 1 (b2n s.firmware.bankB)
    ++ toLE 1 (b2n s.status.bootFallback + 2 * b2n s.firmware.recovery + 4 * b2n s.twin.bound + 8 * b2n s.twin.steppedOut
        + 16 * b2n s.status.cellarTestDone)
    ++ toLE 2 (deviceNumber s) ++ toLE 2 (runningSvn s) ++ toLE 2 s.flash.minSvn ++ toLE 4 0
    ++ s.firmware.digest ++ s.flash.bankDigest false ++ s.flash.bankDigest true ++ toLE 64 Config.fwKeyHash.toNat
    ++ identityKey ++ wrapKey ++ mfgSig ++ inventoryBytes s
    ++ (List.range 16).flatMap (attestPlan s) ++ (List.range 64).flatMap (attestKey s) ++ (List.range 256).flatMap (attestRegion s)

/-- The signed report. -/
def attestBytes (s : State) (nonce : BitVec 256) : List Byte :=
  attestBody s nonce ++ edSign (toLE 32 Config.identitySecret.toNat) (attestBody s nonce)

/-! ### The ledger (R432 to R435) -/

/-- The 32 bytes of a ledger record (R432). -/
def recordBytes (r : LedgerRec) : List Byte := toLE 4 r.seq.toNat ++ toLE 2 r.event.toNat ++ toLE 2 r.source.toNat ++ r.data

/-- NEWEST and OLDEST (R409). -/
def newest (s : State) : Word := s.ledgerNext - 1
def oldest (s : State) : Word := s.ledgerNext - BitVec.ofNat 32 s.ledger.length

/-- Whether a sequence number is earlier than another (R435). -/
def seqEarlier (a b : Word) : Bool := earlier 32 a.toNat b.toNat

/-- First sequence number that a LEDGER_READ copies, and how many (R434). -/
def ledgerSpan (s : State) (first : Word) (count : Nat) : Word × Nat :=
  if s.ledger.isEmpty || seqEarlier (newest s) first then (s.ledgerNext, 0)
  else
    let start := if seqEarlier first (oldest s) then oldest s else first
    (start, min count ((newest s - start).toNat + 1))

/-- Records from a sequence number, ascending. -/
def ledgerSlice (s : State) (start : Word) (n : Nat) : List LedgerRec :=
  (s.ledger.reverse.drop (start - oldest s).toNat).take n

/-! ### Counters and sensors (R437 to R441) -/

/-- Highest counter number of a source, plus one; 0 for a source without counters (R437, R438). -/
def counterSpan (src : Nat) : Nat :=
  let i := src % 4096
  match src / 4096 with
  | 1 => if i / 16 < 20 ∧ i % 16 < 13 then 15 else 0
  | 2 => if i < 16 then 6 else 0
  | 3 => if i < 16 then 5 else 0
  | 4 => if i < 2 then 5 else 0
  | 6 => if i < 16 then 8 else 0
  | 7 => if i < 20 then 7 else 0
  | 9 => if i < 2 then 4 else 0
  | 10 => if i < 8 then 2 else 0
  | 11 => if i < 32 then 32768 else 0
  | _ => 0

/-- Whether a counter ID names a counter, or a sensor entry. -/
def isCounter (id : Nat) : Bool := decide (id % 65536 < counterSpan (id / 65536))
def isSensor (id : Nat) : Bool := id / 65536 == 0xC000 && (decide (id % 65536 < 0x54) || (decide (0x60 ≤ id % 65536) && decide (id % 65536 < 0x64)))

/-- Counters whose increments no command of this model carries: waves and holds. How much they have counted since they were last read or
cleared is free (R440, notes/assumptions/21.md). -/
def isActivity (id : Nat) : Bool :=
  let n := id % 65536
  match id / 65536 / 4096 with
  | 1 => decide (n < 2) || (decide (4 ≤ n) && decide (n ≤ 8))
  | 2 => decide (n < 2)
  | 4 => decide (n < 2)
  | 7 => decide (n < 2)
  | _ => false

/-- What an activity counter has counted since it was last read or cleared. -/
def activityOf (s : State) (id : Nat) : Nat := if isActivity id then Config.activity s.free id else 0

/-- A counter as it reads now: it sticks at the largest value (R439). -/
def counterNow (s : State) (id : Nat) : Counter :=
  let c := s.counter id
  let n := c.value + activityOf s id
  if n ≤ counterMax then ⟨n, c.sat⟩ else ⟨counterMax, true⟩

/-- The 8 bytes of a counter or sensor entry (R410, R441); 0 for an ID that names none. -/
def counterBytes (s : State) (id : Nat) : List Byte :=
  if isSensor id then toLE 4 (s.sensor (id % 65536)).reading.toNat ++ toLE 2 (s.sensor (id % 65536)).sample.toNat ++ toLE 2 0
  else if !isCounter id then toLE 8 0
  else toLE 6 (counterNow s id).value ++ toLE 2 (b2n (counterNow s id).sat * 2 ^ 15)

/-- Every source with counters (R437). -/
def counterSources : List Nat :=
  (List.range 320).map (0x1000 + ·) ++ (List.range 16).map (0x2000 + ·) ++ (List.range 16).map (0x3000 + ·)
    ++ [0x4000, 0x4001] ++ (List.range 16).map (0x6000 + ·) ++ (List.range 20).map (0x7000 + ·) ++ [0x9000, 0x9001]
    ++ (List.range 8).map (0xA000 + ·) ++ (List.range 32).map (0xB000 + ·)

/-- Counters that exist in a range of IDs, which never wraps (R439). -/
def countersIn (first count : Nat) : Nat :=
  (counterSources.map (fun src =>
    let a := src * 65536
    min (first + count) (a + counterSpan src) - max first a)).sum

/-- Activity counters (R438, R440). -/
def activityIds : List Nat :=
  (counterSources.filter (fun src => decide (src < 0x9000))).flatMap (fun src =>
    ((List.range (counterSpan src)).map (src * 65536 + ·)).filter isActivity)

/-- The activity counters of a range count what has been done up to now (R439, R440). -/
def countActivity (first count : Nat) : Act := fun s =>
  (activityIds.filter (fun id => decide (first ≤ id) && decide (id < first + count))).map (fun id => .count id (activityOf s id))

end Sys2Proof.Machine
end

