-- ==== Sys2Proof/Machine/Streams.lean ====
section
/-! DEFINITION. Sys2Proof/Machine/Streams.lean: codec streams: descriptors and placement (R355 to R361, R372, R373), submits (R363 to
R365, R374), STREAM_CONTROL (R371), RACK_MARK (R359) and STREAM_CLOSE (R362). -/
namespace Sys2Proof.Machine

/-! ### Descriptors (R355, R360) -/

/-- Block rows of 64 luma rows of a picture (R368). -/
def StreamDesc.rows (d : StreamDesc) : Nat := ceilDiv d.height 64

/-- Luma and chroma pitch of a rack buffer, chroma height, and places of the Cb and Cr planes and of the mode data (R357). -/
def StreamDesc.pitch (d : StreamDesc) : Nat := ceilDiv d.width 256 * 512
def StreamDesc.chromaHeight (d : StreamDesc) : Nat := if d.chroma = 0 then d.height / 2 else d.height
def StreamDesc.cbAt (d : StreamDesc) : Nat := roundUp 64 (d.pitch * d.height)
def StreamDesc.crAt (d : StreamDesc) : Nat := d.cbAt + roundUp 64 (d.pitch / 2 * d.chromaHeight)
def StreamDesc.modeAt (d : StreamDesc) : Nat := d.crAt + roundUp 64 (d.pitch / 2 * d.chromaHeight)

/-- Range of a quantiser (R360). -/
def qpRange (codec bitDepth : Nat) (q : Int) : Bool :=
  if codec = 0 then decide (-6 * ((bitDepth : Int) - 8) ≤ q) && decide (q ≤ 51) else decide (0 ≤ q) && decide (q ≤ 255)

/-- A descriptor, field for field (R360). -/
def parseStream (b : List Byte) : StreamDesc where
  dir := fieldLE b 2 1
  codec := fieldLE b 3 1
  profile := fieldLE b 4 1
  level := fieldLE b 5 1
  chroma := fieldLE b 6 1
  bitDepth := fieldLE b 7 1
  width := fieldLE b 8 2
  height := fieldLE b 10 2
  cls := fieldLE b 12 1
  markSrc := fieldLE b 13 1
  targetDepth := fieldLE b 14 1
  hub := fieldLE b 15 1
  rateKpix := fieldLE b 16 4
  rateMode := fieldLE b 20 1
  sliceRows := fieldLE b 21 1
  bframes := fieldLE b 22 1
  refs := fieldLE b 23 1
  bpf := fieldLE b 24 4
  cap := fieldLE b 28 4
  vbv := fieldLE b 32 4
  qpInit := signed 16 (fieldLE b 36 2)
  qpMin := signed 16 (fieldLE b 38 2)
  qpMax := signed 16 (fieldLE b 40 2)
  gop := fieldLE b 42 2
  buffers := fieldLE b 44 2
  signal := fieldLE b 46 2
  rackBase := fieldLE b 48 8
  ringBase := fieldLE b 56 8
  ringSize := fieldLE b 64 4
  producer := fieldLE b 72 8
  colour := fieldLE b 80 4
  timing := fieldLE b 84 8

/-- Profiles, levels, bit depths and chroma formats of the table of standards (R355). -/
def StreamDesc.standardOk (d : StreamDesc) : Bool :=
  let bc := (d.bitDepth, d.chroma)
  match d.codec, d.profile with
  | 0, 1 => decide (d.level ≤ 186) && bc == (8, 0)
  | 0, 2 => decide (d.level ≤ 186) && bc == (10, 0)
  | 0, 4 => decide (d.level ≤ 186) && bc == (10, 1)
  | 1, 0 => decide (d.level ≤ 19) && (bc == (8, 0) || bc == (10, 0))
  | 1, 2 => decide (d.level ≤ 19) && bc == (10, 1)
  | _, _ => false

/-- Fields that only an encode stream has (R360, R367). -/
def StreamDesc.encodeOk (d : StreamDesc) : Bool :=
  decide (d.rateMode ≤ 2) && decide (d.bframes ≤ 3) && decide (1 ≤ d.refs) && decide (d.refs ≤ 4)
    && decide (d.refs + d.bframes + 2 ≤ d.buffers)
    && (d.codec == 0 || d.sliceRows == 0 || decide (ceilDiv d.rows 64 ≤ d.sliceRows))

/-- The quantiser fields, which the table gives every stream (R360). -/
def StreamDesc.qpOk (d : StreamDesc) : Bool :=
  qpRange d.codec d.bitDepth d.qpInit && qpRange d.codec d.bitDepth d.qpMin && qpRange d.codec d.bitDepth d.qpMax
    && decide (d.qpMin ≤ d.qpMax)

/-- Whether a descriptor's fields lie in their ranges (R355, R360). -/
def streamOk (b : List Byte) : Bool :=
  let d := parseStream b
  fieldLE b 0 2 == 1 && allZero (slice b 68 4) && allZero (slice b 92 36) && decide (d.dir ≤ 1) && d.standardOk
    && decide (16 ≤ d.width) && decide (d.width ≤ 8192) && d.width % 2 == 0
    && decide (16 ≤ d.height) && decide (d.height ≤ 4320) && d.height % 2 == 0
    && decide (d.cls ≤ 2) && (decide (d.markSrc ≤ 7) || d.markSrc == 0xFF) && (d.cls != 2 || d.markSrc == 0xFF)
    && decide (1 ≤ d.targetDepth) && decide (d.targetDepth ≤ 8) && decide (d.hub ≤ 2) && (d.cls != 0 || d.rateKpix != 0)
    && decide (2 ≤ d.buffers) && decide (d.buffers ≤ 64)
    && (d.signal == 0xFFFF || (decide (64 ≤ d.signal) && decide (d.signal ≤ 0xFFF)))
    && d.rackBase % 65536 == 0 && decide (d.rackBase < 2 ^ 40) && d.ringBase % 4096 == 0 && d.producer % 8 == 0
    && (List.range 15).any (fun k => d.ringSize == 2 ^ (16 + k))
    && d.qpOk && (if d.dir = 0 then d.encodeOk else d.rateMode == 0)

/-! ### Placement (R361, R372, R373) -/

/-- Good engines of a descriptor's allowed hubs. -/
def StreamDesc.engines (s : State) (d : StreamDesc) : List Nat :=
  (List.range 16).filter (fun e => !(s.engine e).sheeted && (d.hub == 0 || e / 8 + 1 == d.hub))

/-- Declared luma samples per second of an engine's open streams, in thousands (R361). -/
def engineLoad (s : State) (e : Nat) : Nat :=
  ((s.streams.filter (fun x => x.2.opened && x.2.engine.any (fun f => f.val == e))).map (·.2.desc.rateKpix)).sum

/-- The engine with the smallest load, the lowest number among equals (R361). -/
def leastLoaded (s : State) : List Nat → Option Nat
  | [] => none
  | e :: l => match leastLoaded s l with
    | none => some e
    | some f => if engineLoad s f < engineLoad s e then some f else some e

/-- A stream ID: its index and generation (R360). -/
def streamId (i : Nat) (v : Stream) : Nat := i + 256 * v.gen.toNat

/-- A stream changes. -/
def setStream (i : Nat) (f : Stream → Stream) : Act := fun s => [.stream i (f (s.stream i))]

/-- Ledger source of a stream's events: its engine (R436). -/
def Stream.source (v : Stream) : Nat := (v.engine.map (fun e => srcEngine e.val)).getD 0

/-- STREAM_PLACED (R361, R372). -/
def logPlaced (i cause : Nat) : Act := fun s =>
  [.ledger 0x0500 (s.stream i).source (toLE 4 (streamId i (s.stream i)) ++ [BitVec.ofNat 8 cause])]

/-- The engines' lists forget a stream. -/
def unready (i : Nat) : Act := fun s =>
  (s.engines.filter (fun x => x.2.ready.contains i)).map (fun x => .engine x.1 { x.2 with ready := x.2.ready.filter (· != i) })

/-! ### STREAM_OPEN (R360, R361) -/

/-- Entries of the rack in use (R357). -/
def rackUsed (s : State) : Nat := ((s.streams.filter (·.2.opened)).map (·.2.desc.buffers)).sum

/-- Whether the rack of a stream lies in one region, and the region's key slot (R374). -/
def rackKey (s : State) (d : StreamDesc) : Option Nat := (wholeRegion s d.rackBase (d.buffers * d.bufferBytes)).map (·.key)

/-- Whether a key slot allows encoding (R82). -/
def allowsEncode (s : State) (k : Nat) : Bool := (s.key k).any (fun v => v.policy.getLsbD 0)

/-- An encode rack in sealed memory needs the key's policy (R82). -/
def rackRefused (s : State) (d : StreamDesc) : Bool :=
  d.dir == 0 && anySealed s d.rackBase (d.buffers * d.bufferBytes) && !((rackKey s d).any (allowsEncode s))

/-- Whether some bytes belong to a compressed tensor of a loaded plan, which no engine reads or writes (R90, R374). -/
def namesCrate (s : State) (l : List (Nat × Nat)) : Bool :=
  s.plans.any (fun x => (List.range x.2.tensors.length).any (fun i =>
    (x.2.tensor i).comp != 0 && x.2.isHere s i && anyMeet (l.flatMap (fun y => heldRanges y.1 y.2)) (x.2.held i)))

/-- The stream that an open of descriptor `b` makes. -/
def newStream (s : State) (i : Nat) (h : Hdr) (b : List Byte) (e : Nat) : Stream :=
  let d := parseStream b
  { Stream.reset with
    coderBase := Config.codecNext 0 b
    coder := Config.codecNext 0 b
    opened := true
    gen := (s.stream i).gen
    port := h.port
    desc := d
    engine := some (Fin.ofNat 16 e)
    qpF := d.qpInit
    wK := List.replicate d.rows 1
    wI := List.replicate d.rows 1
    regained := true }

/-- STREAM_OPEN of a descriptor. -/
def openStream (h : Hdr) (b : List Byte) : Act := fun s =>
  let d := parseStream b
  let n := d.buffers * d.bufferBytes
  if !streamOk b then finish h stBadParameter s
  else if !rangeOk s d.rackBase n then finish h stBadAddress s
  else if !(decide (d.rackBase + n ≤ cellarEnd) || isInter d.rackBase) then finish h stBadParameter s
  else if rackRefused s d then finish h stSealed s
  else match leastLoaded s (d.engines s), (List.range 256).find? (fun i => !(s.stream i).opened) with
    | none, _ => finish h stDegraded s
    | some _, none => finish h stBusy s
    | some e, some i =>
      if 1024 < rackUsed s + d.buffers ∨ (d.cls = 0 ∧ 2000000 < engineLoad s e + d.rateKpix) then finish h stBusy s
      else Act.all [Act.of [.stream i (newStream s i h b e)], logPlaced i 0, fun s => done3 h (streamId i (s.stream i)) 0 0 s] s

/-- STREAM_OPEN (R360). -/
def execStreamOpen (h : Hdr) (host : Dword) (len : Word) (s : State) : Host.Outcome State Fault Refusal :=
  (hostCommand h false (fun s =>
    if len.toNat ≠ 128 then badField h 40 s
    else openStream h (hostData s h host.toNat 128) s)).run s

/-- A command of an open stream; a closed, closing or stale ID is a wrong field (R360, R362). -/
def streamCommand (h : Hdr) (sid : Word) (f : Nat → Stream → Act) : Act := fun s =>
  let i := sid.toNat % 256
  let v := s.stream i
  if !v.opened || v.closing.isSome || streamId i v != sid.toNat then badField h 32 s else f i v s

/-! ### STREAM_SUBMIT (R363 to R365, R374) -/

/-- Heights and widths of the planes (R356). -/
def StreamDesc.planeShapes (d : StreamDesc) : List (Nat × Nat) :=
  [(d.height, d.width), (d.chromaHeight, d.width / 2), (d.chromaHeight, d.width / 2)]

/-- Address, pitch, height and width of each plane of a submit block (R363). -/
def planesOf (d : StreamDesc) (b : List Byte) : List (Nat × Nat × Nat × Nat) :=
  List.zipWith (fun x y => (fieldLE b x.1 8, fieldLE b x.2 4, y.1, y.2)) [(8, 32), (16, 36), (24, 36)] d.planeShapes

/-- The rule of R356 on a plane's address and pitch. -/
def planeOk (x : Nat × Nat × Nat × Nat) : Bool :=
  decide (x.1 < 2 ^ 40) && x.1 % 64 == 0 && x.2.1 % 64 == 0 && decide (2 * x.2.2.2 ≤ x.2.1)

/-- Bytes that a plane spans. -/
def planeSpan (x : Nat × Nat × Nat × Nat) : Nat := x.2.1 * (x.2.2.1 - 1) + 2 * x.2.2.2

/-- Whether sealed planes may be encoded by a stream (R374). -/
def planesSealedOk (s : State) (d : StreamDesc) (l : List (Nat × Nat × Nat × Nat)) : Bool :=
  !l.any (fun x => anySealed s x.1 (planeSpan x))
  || (match rackKey s d with
    | none => false
    | some k => allowsEncode s k && l.all (fun x => (wholeRegion s x.1 (planeSpan x)).any (fun r => r.key == k)))

/-- A submit joins its stream's queue. -/
def enqueue (i : Nat) (x : Submit) : Act :=
  setStream i (fun v => { v with queue := v.queue ++ [{ x with frame := v.nextFrame }], nextFrame := v.nextFrame + 1 })

/-- A submit of an encode stream (R356, R363). -/
def submitEncode (h : Hdr) (i : Nat) (d : StreamDesc) (b : List Byte) : Act := fun s =>
  let l := planesOf d b
  if fieldLE b 0 2 ≠ 1 ∨ 7 < fieldLE b 2 1 ∨ 7 < fieldLE b 3 1 ∨ allZero (slice b 4 4) = false ∨ allZero (slice b 48 16) = false
      ∨ l.all planeOk = false then finish h stBadParameter s
  else if !l.all (fun x => rangeOk s x.1 (planeSpan x)) then finish h stBadAddress s
  else if namesCrate s (l.map (fun x => (x.1, planeSpan x))) then finish h stBadParameter s
  else if !planesSealedOk s d l then finish h stSealed s
  else enqueue i ⟨h, fieldLE b 2 1, fieldLE b 3 1, l.map (·.1), [fieldLE b 32 4, fieldLE b 36 4], 0, 0, BitVec.ofNat 64 (fieldLE b 40 8), 0,
    false, none, false⟩ s

/-- Whether a decode source in sealed memory goes with the stream's rack (R374). -/
def sourceSealedOk (s : State) (d : StreamDesc) (a n : Nat) : Bool :=
  n == 0 || !anySealed s a n || (match rackKey s d with
    | none => false
    | some k => (wholeRegion s a n).any (fun r => r.key == k))

/-- A submit of a decode stream (R364). -/
def submitDecode (h : Hdr) (i : Nat) (d : StreamDesc) (b : List Byte) : Act := fun s =>
  let n := fieldLE b 4 4
  let a := fieldLE b 8 8
  let dev := bit (fieldLE b 2 1) 1
  if fieldLE b 0 2 ≠ 1 ∨ 3 < fieldLE b 2 1 ∨ fieldLE b 3 1 ≠ 0 ∨ allZero (slice b 24 40) = false ∨ (dev = true ∧ 2 ^ 40 ≤ a) then
    finish h stBadParameter s
  else if dev && n != 0 && !rangeOk s a n then finish h stBadAddress s
  else if dev && namesCrate s [(a, n)] then finish h stBadParameter s
  else if dev && !sourceSealedOk s d a n then finish h stSealed s
  else enqueue i ⟨h, fieldLE b 2 1, 0, [], [], a, n, BitVec.ofNat 64 (fieldLE b 16 8), 0, false, none, false⟩ s

/-- STREAM_SUBMIT (R363 to R365). -/
def execStreamSubmit (h : Hdr) (sid len : Word) (host : Dword) (s : State) : Host.Outcome State Fault Refusal :=
  (hostCommand h false (fun s =>
    if len = 0 then finish h stDone s
    else streamCommand h sid (fun i v => fun s =>
      let b := hostData s h host.toNat 64
      if len.toNat ≠ 64 then badField h 36 s
      else if v.engine.isNone then finish h stDegraded s
      else if 16 ≤ v.queue.length then finish h stBusy s
      else if v.desc.dir = 0 then submitEncode h i v.desc b s
      else submitDecode h i v.desc b s) s)).run s

/-! ### STREAM_CONTROL (R369, R371) -/

/-- RING_HEAD (R366, R371): the consumed count, between the previous one and the producer count. -/
def execRingHead (h : Hdr) (sid : Word) (consumed : Dword) (s : State) : Host.Outcome State Fault Refusal :=
  (command h false (streamCommand h sid (fun i v =>
    if (v.produced - v.consumed).toNat < (consumed - v.consumed).toNat then finish h stBadParameter
    else Act.seq (setStream i (fun v => { v with consumed := consumed })) (finish h stDone)))).run s

/-- RATE (R368, R371): from the next frame that starts. -/
def execRate (h : Hdr) (sid bpf cap vbv : Word) (qmin qmax : Half) (s : State) : Host.Outcome State Fault Refusal :=
  (command h false (streamCommand h sid (fun i v =>
    let lo := signed 16 qmin.toNat
    let hi := signed 16 qmax.toNat
    if (qpRange v.desc.codec v.desc.bitDepth lo && qpRange v.desc.codec v.desc.bitDepth hi && decide (lo ≤ hi)) = false then
      finish h stBadParameter
    else Act.seq (setStream i (fun v => { v with newRate := some ⟨bpf.toNat, cap.toNat, vbv.toNat, lo, hi⟩ })) (finish h stDone)))).run s

/-- FORCE_KEY (R371). -/
def execForceKey (h : Hdr) (sid : Word) (s : State) : Host.Outcome State Fault Refusal :=
  (command h false (streamCommand h sid (fun i _ =>
    Act.seq (setStream i (fun v => { v with forceKey := true })) (finish h stDone)))).run s

/-- The announcement of a decoded picture, and the stream without it among the held ones (R366, R367); a late frame's record carries
LATE (R369). -/
def Stream.announce (v : Stream) (x : Picture) : Stream :=
  { v with
    held := v.held.erase x
    out := v.out ++ [⟨x.submit, v.nextPicture, 0, 16 + 4 * b2n x.late, v.tier, [], x.pts, x.buffer, x.period⟩]
    nextPicture := v.nextPicture + 1 }

/-- The held picture that is next in output order (R364, notes/assumptions/25.md). -/
def nextHeld (v : Stream) : Option Picture := match v.held with
  | [] => none
  | x :: l => some (l.foldl (fun a y => if y.order < a.order then y else a) x)

/-- Up to `n` held pictures are announced, in the bitstream's output order (R364). -/
def announceAll : Nat → Stream → Stream
  | 0, v => v
  | n + 1, v => match nextHeld v with
    | none => v
    | some x => announceAll n (v.announce x)

/-- The held pictures of a stream are announced. -/
def flushStream (i : Nat) : Act := setStream i (fun v => announceAll v.held.length v)

/-- The last submit that waits takes END: no frame is held any longer for one behind it (R363). -/
def Stream.endQueue (v : Stream) : Stream :=
  { v with queue := v.queue.mapIdx (fun j x => if j + 1 = v.queue.length ∧ bit x.flags 2 = false then { x with flags := x.flags + 4 } else x) }

/-- FLUSH (R371): as END of an encode stream, as END_OF_STREAM of a decode stream. -/
def execFlush (h : Hdr) (sid : Word) (s : State) : Host.Outcome State Fault Refusal :=
  (command h false (streamCommand h sid (fun i v =>
    Act.seq (if v.desc.dir = 0 then setStream i Stream.endQueue else flushStream i) (finish h stDone)))).run s

/-- A stream whose mark source takes over: its tier starts at 3 (R312, R369). -/
def Stream.retier (v : Stream) : Stream := { v with tier := 3, onTime := 0, regained := true }

/-- A changed tier of a stream writes a ledger record (R312). -/
def streamTier (i old : Nat) : Act := fun s =>
  let v := s.stream i
  if v.tier = old then [] else [.ledger 0x0201 v.source (toLE 1 old ++ toLE 1 v.tier ++ toLE 2 0 ++ toLE 4 (streamId i v))]

/-- REBIND (R369): from the next mark. -/
def execRebind (h : Hdr) (sid : Word) (src depth : Byte) (s : State) : Host.Outcome State Fault Refusal :=
  (command h false (streamCommand h sid (fun i v =>
    let m := src.toNat
    if (7 < m ∧ m ≠ 0xFF) ∨ (v.desc.cls = 2 ∧ m ≠ 0xFF) ∨ depth.toNat = 0 ∨ 8 < depth.toNat then finish h stBadParameter
    else Act.all [setStream i (fun v => { v.retier with rebind := some (m, depth.toNat) }), streamTier i v.tier, finish h stDone]))).run s

/-! ### RACK_MARK (R358, R359) -/

/-- Tags of a stream's buffer. -/
def Stream.tags (v : Stream) (b : Nat) : Tags := Tab.look Tags.none v.buffers b

/-- A buffer's tags change. -/
def Stream.setTags (v : Stream) (b : Nat) (t : Tags) : Stream := { v with buffers := Tab.put Tags.none v.buffers b t }

/-- A RACK_MARK of a buffer: a refused operation, or the tags after it (R359). -/
def rackMark (h : Hdr) (sid : Word) (buffer : Half) (f : Stream → Tags → Option Tags) : Act :=
  streamCommand h sid (fun i v =>
    let b := buffer.toNat
    if v.desc.buffers ≤ b then finish h stBadParameter
    else match f v (v.tags b) with
      | none => finish h stBadParameter
      | some t => Act.seq (setStream i (fun v => v.setTags b t)) (done3 h (tagWord t) 0 0))

/-- HOLD, UNHOLD and RELEASE_OUT (R359). -/
def execHold (h : Hdr) (sid : Word) (buffer : Half) (s : State) : Host.Outcome State Fault Refusal :=
  (command h false (rackMark h sid buffer (fun _ t => some { t with hold := true }))).run s

def execUnhold (h : Hdr) (sid : Word) (buffer : Half) (s : State) : Host.Outcome State Fault Refusal :=
  (command h false (rackMark h sid buffer (fun _ t => some { t with hold := false }))).run s

def execReleaseOut (h : Hdr) (sid : Word) (buffer : Half) (s : State) : Host.Outcome State Fault Refusal :=
  (command h false (rackMark h sid buffer (fun _ t => some { t with out := false }))).run s

/-- SET_LONG (R359): of an encode stream's reconstruction. -/
def execSetLong (h : Hdr) (sid : Word) (buffer : Half) (lt : Byte) (s : State) : Host.Outcome State Fault Refusal :=
  (command h false (rackMark h sid buffer (fun v t =>
    if v.desc.dir ≠ 0 ∨ t.filled = false ∨ 7 < lt.toNat then none
    else some { t with long := t.long ||| BitVec.ofNat 8 (2 ^ lt.toNat) }))).run s

/-- CLEAR_LONG (R359). -/
def execClearLong (h : Hdr) (sid : Word) (buffer : Half) (lt : Byte) (s : State) : Host.Outcome State Fault Refusal :=
  (command h false (rackMark h sid buffer (fun v t =>
    if v.desc.dir ≠ 0 ∨ 7 < lt.toNat then none
    else some { t with long := t.long &&& ~~~ BitVec.ofNat 8 (2 ^ lt.toNat) }))).run s

/-! ### STREAM_CLOSE (R362) -/

/-- A closing stream without a frame in flight, whose records are in the ring, is closed: its index may be used again (R360, R362,
R372). -/
def finishClose (i : Nat) : Act := fun s =>
  let v := s.stream i
  match v.closing with
  | none => []
  | some h =>
    if v.frame.isSome || !v.out.isEmpty then []
    else Act.all [unready i, Act.of [.stream i { Stream.reset with gen := v.gen + 1 }], finish h stDone] s

/-- STREAM_CLOSE: queued frames are aborted, pictures that wait for announcement discarded, and the frame in flight completes. -/
def execStreamClose (h : Hdr) (sid : Word) (s : State) : Host.Outcome State Fault Refusal :=
  (command h false (streamCommand h sid (fun i v =>
    Act.all [setStream i (fun v => { v with
        closing := some h
        queue := []
        held := []
        out := if v.desc.dir = 0 then v.out else [] }),
      Act.each (fun x => finish x.hdr stAborted) v.queue, finishClose i]))).run s

end Sys2Proof.Machine
end

