-- ==== Sys2Proof/Machine/Codec.lean ====
section
/-! DEFINITION. Sys2Proof/Machine/Codec.lean: the codec engines: frames and block rows (R364, R368 to R371), rate control (R368), the
output ring (R366, R367), late frames (R369) and engines that are reset or sheeted (R372, R373, R376). What the two bitstream
standards decide (bit counts, coded bytes, decoded samples, reference marks) is free, but is decided by what the stream was given alone
(R21, notes/assumptions/25.md). -/
namespace Sys2Proof.Machine

/-! ### Rate control (R368) -/

/-- 64-bit arithmetic. -/
def i64 (x : Int) : Int := signed 64 (unsigned 64 x)

/-- clamp(x, lo, hi). -/
def clampRate (x lo hi : Int) : Int := min (max x lo) hi

/-- The factor G: 1 for HEVC, 4 for AV1. -/
def StreamDesc.gain (d : StreamDesc) : Int := if d.codec = 0 then 1 else 4

/-- A quotient that rounds toward −∞; by 0, where R368 states none, free number `j` of the stream's history `h`. -/
def rateDiv (h j : Nat) (a b : Int) : Int :=
  if b = 0 then (Config.codecNum h j : Int) - (Config.codecNum h (j + 1) : Int) else Int.fdiv a b

/-- The target T of a frame that starts. -/
def StreamDesc.target (d : StreamDesc) (f : Int) : Int :=
  let base := (d.bpf : Int) - Int.fdiv f 8
  match d.rateMode with
  | 0 => clampRate base (d.bpf / 4 : Nat) (2 * d.bpf : Nat)
  | 1 => clampRate base (d.bpf / 4 : Nat) (if 0 < d.cap then d.cap else 2 * d.bpf : Nat)
  | _ => d.cap

/-- Whether every row uses QP_INIT (RATE_MODE 2 without a cap). -/
def StreamDesc.constantQp (d : StreamDesc) : Bool := d.rateMode == 2 && d.cap == 0

/-- The quantiser of the next row, after rows of the bits given (R368). -/
def nextQp (h : Nat) (d : StreamDesc) (qpF target : Int) (w rowBits : List Nat) : Int :=
  if d.constantQp then d.qpInit
  else
    let c := Int.fdiv (i64 (target * ((w.take rowBits.length).sum : Nat))) ((w.sum : Nat) : Int)
    let q := clampRate (qpF + rateDiv h 2 (i64 (8 * d.gain * ((rowBits.sum : Nat) - c))) target) d.qpMin d.qpMax
    if d.rateMode = 2 then max q d.qpInit else q

/-- Bytes of filler that a CBR frame appends, with F before it. -/
def fillerBytes (d : StreamDesc) (f : Int) : Nat :=
  let floor : Int := -((d.vbv / 2 : Nat) : Int)
  if d.rateMode = 0 ∧ f < floor then ((floor - f + 7) / 8).toNat else 0

/-- Rate state at a frame's end: row weights of its kind, F and qp_f (R368). -/
def Stream.rateEnd (h : Nat) (v : Stream) (f : Frame) : Stream :=
  let d := v.desc
  let w := f.rowBits.map (· + 1)
  let v1 := if f.key then { v with wK := w } else { v with wI := w }
  let spent : Int := (f.rowBits.sum : Nat)
  if d.rateMode ≤ 1 then
    let debt := i64 (v.debtF + spent - d.bpf)
    { v1 with
      debtF := debt + 8 * (fillerBytes d debt : Nat)
      qpF := clampRate (v.qpF + rateDiv h 4 (i64 (4 * d.gain * (spent - f.target))) f.target) d.qpMin d.qpMax }
  else v1

/-! ### Frames (R358, R364, R369, R370, R372) -/

/-- Whether a rack buffer is free: no tag, and no picture that is held or waits for its record (R358). -/
def Stream.isFree (v : Stream) (b : Nat) : Bool := (v.tags b).free && !v.held.any (fun x => x.buffer == b) && !v.out.any (fun x => x.buffer == b)

/-- The free buffer that is taken next (R358). -/
def Stream.freeBuffer (v : Stream) : Option Nat := (List.range v.desc.buffers).find? v.isFree

/-- Whether a frame that starts is a key frame: the stream's first, a forced one, or every GOP-th (R360, R363, R371). -/
def Stream.startsKey (v : Stream) (x : Submit) : Bool :=
  v.forceKey || bit x.flags 0 || v.sinceKey == 0 || (v.desc.gop != 0 && decide (v.desc.gop ≤ v.sinceKey))

/-- A key frame removes every SHORT and LONG tag from the other buffers (R372). -/
def Stream.dropRefs (v : Stream) : Stream :=
  { v with
    buffers := Tab.remap Tags.none (fun t => { t with short := false, long := 0 }) v.buffers
    refs := [] }

/-- The tier of a frame that starts (R369, R370). -/
def Stream.frameTier (v : Stream) : Nat := if v.desc.markSrc = 0xFF ∨ v.desc.cls = 2 then 3 else v.tier

/-- What a tier sets (R370): the motion search range, horizontal and vertical, in luma samples, and the candidates kept for the full
decision. -/
def effort : Nat → Nat × Nat × Nat
  | 0 => (32, 16, 1)
  | 1 => (64, 32, 2)
  | 2 => (128, 64, 4)
  | _ => (256, 128, 8)

/-- What a frame that starts may refer to: the marks of the buffers (R358, R359). -/
def Stream.marks (v : Stream) : List Byte :=
  v.buffers.flatMap (fun x => toLE 2 x.1 ++ [BitVec.ofNat 8 (b2n x.2.short + 2 * b2n x.2.filled), x.2.long])

/-- The place in the queue of the frame that is coded next, if one may be: a frame that has been overtaken; else a key frame; else, with
BFRAMES = b, the one b places behind the head, which overtakes those before it, or a nearer one with END, before a key frame or at the
GOP's end. Until one of these has come the head is held for reordering (R360, R363, notes/assumptions/25.md). -/
def Stream.nextCoded (v : Stream) : Option Nat :=
  match v.queue with
  | [] => none
  | x :: _ =>
    if v.desc.bframes = 0 ∨ v.overtaken ≠ 0 ∨ v.startsKey x = true then some 0
    else (List.range (min (v.desc.bframes + 1) v.queue.length)).find? (fun k =>
      k == v.desc.bframes || (v.queue[k]?).any (fun y => bit y.flags 2) || (v.queue[k + 1]?).any (fun y => bit y.flags 0)
        || (v.desc.gop != 0 && decide (v.desc.gop ≤ v.sinceKey + k + 1)))

/-- The frame coded next leaves the queue. -/
def Stream.takeCoded (v : Stream) : Option (Submit × Stream) :=
  v.nextCoded.bind (fun k => (v.queue[k]?).map (fun x => (x, { v with
    queue := v.queue.eraseIdx k
    overtaken := if k = 0 then v.overtaken - 1 else k })))

/-- An encode stream starts a frame, taken from its queue, in buffer `b` (R368, R370). -/
def Stream.startEncode (v : Stream) (x : Submit) (b : Nat) : Stream :=
  let d0 := v.desc
  let d := match v.newRate with
    | some r => { d0 with bpf := r.bpf, cap := r.cap, vbv := r.vbv, qpMin := r.qpMin, qpMax := r.qpMax }
    | none => d0
  let key := v.startsKey x
  let v1 := if key then v.dropRefs else v
  let q := if d.rateMode = 2 then d.qpInit else v.qpF
  { v1 with
    desc := d
    coder := Config.codecNext (if key then v.coderBase else v.coder)
      ([x.flags, x.ltSlot, (effort v.frameTier).1, (effort v.frameTier).2.1, (effort v.frameTier).2.2, b2n key, x.frame.toNat, d.bpf, d.cap,
        d.vbv].flatMap (toLE 8) ++ v1.marks)
    newRate := none
    forceKey := false
    sinceKey := if key then 1 else v.sinceKey + 1
    qpF := q
    buffers := Tab.put Tags.none v1.buffers b Tags.none
    frame := some
      { sub := x, tier := v.frameTier, key := key, buffer := b, coding := true, row := 0, qp := q, target := d.target v.debtF, rowBits := [],
        units := 0, emitted := 0, bytes := 0, left := 0, decoded := 0, skipped := 0, bad := none } }

/-- The data of a decode submit: host memory on its port, or device memory as plaintext (R364, R374). -/
def submitData (s : State) (x : Submit) : List Byte :=
  if bit x.flags 1 then planBytes s true x.source x.length else hostData s x.hdr x.source x.length

/-- Whether the parameters that a unit sets lie within the table of standards and the stream's descriptor (R355): its bit depth and
chroma format, at most its level and picture size. -/
def StreamDesc.paramsOk (d : StreamDesc) (x : Nat × Nat × Nat × Nat × Nat × Nat) : Bool :=
  let (profile, level, chroma, depth, width, height) := x
  { d with profile := profile, level := level, chroma := chroma, bitDepth := depth }.standardOk
    && depth == d.bitDepth && chroma == d.chroma && decide (level ≤ d.level) && decide (width ≤ d.width) && decide (height ≤ d.height)
    && decide (16 ≤ width) && decide (16 ≤ height) && width % 2 == 0 && height % 2 == 0

/-- What the decoder has found in the units of a submit so far (R364, R372). -/
structure Scan where
  skipping : Bool
  params : Bool
  bad : Option Nat
  skipped : Nat
  pictures : Nat

/-- The next unit of a submit (R355, R364, R372): one in error starts a skip; a random access point under good parameters ends it; units
of a skip are counted, but for those that set parameters. -/
def Scan.unit (d : StreamDesc) (x : Scan) (u : Config.CodecUnit) : Scan :=
  let ok := match u.header with
    | none => x.params
    | some y => d.paramsOk y
  let goes := !x.skipping || (u.randomAccess && ok)
  if (u.header.isSome && !ok) || (u.bad && goes) then
    { x with
      skipping := true
      params := ok
      bad := x.bad.or (some u.offset) }
  else if goes then
    { x with
      skipping := false
      params := ok
      pictures := x.pictures + u.pictures }
  else
    { x with
      params := ok
      skipped := x.skipped + b2n u.header.isNone }

/-- A decode stream takes its next submit, unit by unit: its data `b` are read as the standards say (R364, R372,
notes/assumptions/25.md). -/
def Stream.startDecode (b : List Byte) (v : Stream) (x : Submit) : Stream :=
  let h := Config.codecNext v.coder (b2b v.skipping :: b)
  let y := (if b.isEmpty then [] else Config.codecUnits h v.desc.codec b).foldl (Scan.unit v.desc) ⟨v.skipping, v.params, none, 0, 0⟩
  { v with
    queue := v.queue.drop 1
    coder := h
    skipping := y.skipping
    params := y.params
    frame := some
      { sub := x, tier := v.tier, key := false, buffer := 0, coding := false, row := 0, qp := 0, target := 0, rowBits := [], units := 0,
        emitted := 0, bytes := 0, left := y.pictures, decoded := 0, skipped := y.skipped, bad := y.bad } }
where
  /-- A flag as a byte. -/
  b2b (x : Bool) : Byte := BitVec.ofNat 8 (b2n x)

/-- The next picture of a decode submit goes to buffer `b`. -/
def Stream.startPicture (v : Stream) (f : Frame) (b : Nat) : Stream :=
  { v with
    buffers := Tab.put Tags.none v.buffers b Tags.none
    frame := some { f with buffer := b, coding := true, row := 0 } }

/-- Whether an engine may work: it is good and not being reset (R298). -/
def engineOpen (s : State) (e : Nat) : Bool := !(s.engine e).sheeted && !s.resets.any (fun r => r.fid.toNat == srcEngine e)

/-- A stream's next block row is ready on its engine (R306, R371). -/
def readyRow (i : Nat) : Act := fun s =>
  match (s.stream i).engine with
  | none => []
  | some e => let g := s.engine e.val
    [.engine e.val { g with ready := g.ready.filter (· != i) ++ [i] }]

/-- FRAME_START (R358, R366, R370): the next frame or picture starts once a buffer is free and no record waits for the ring. -/
def execFrameStart (stream : Fin 256) (s : State) : Host.Outcome State Fault Refusal :=
  Act.run (fun s =>
    let i := stream.val
    let v := s.stream i
    if !v.opened || !v.out.isEmpty || !v.engine.any (fun e => engineOpen s e.val) then []
    else match v.frame, v.queue with
      | none, x :: _ =>
        if v.desc.dir = 1 then
          if !bit x.flags 1 && dmaStopped s x.hdr then []
          else if !bit x.flags 1 then [.stream i (v.startDecode (submitData s x) x)]
          else
            let ts := touchRange false x.source x.length
            Act.all [seenDraw ts, meetRange x.source x.length, Act.of [.stream i (v.startDecode (submitData (seen s ts) x) x)]] s
        else match v.freeBuffer, v.takeCoded with
          | some b, some (y, w) => Act.seq (Act.of [.stream i (w.startEncode y b)]) (readyRow i) s
          | _, _ => []
      | some f, _ =>
        if f.coding || f.left = 0 then []
        else match v.freeBuffer with
          | none => []
          | some b => Act.seq (Act.of [.stream i (v.startPicture f b)]) (readyRow i) s
      | none, [] => []) s

/-! ### Block rows (R356, R357, R367, R368, R371, R376) -/

/-- A sample row at offset `o` of the rack buffer at `base`, in 16-bit samples without the bits above the depth (R356): free bytes of
kind 2 of the stream's history `h`. -/
def sampleRow (h : Nat) (d : StreamDesc) (base o width : Nat) : Act :=
  copyStore (base + o) ((List.range (2 * width)).map (fun j =>
    if j % 2 = 0 then Config.codecByte h 2 (o + j) else if d.bitDepth = 8 then 0 else Config.codecByte h 2 (o + j) &&& 3))

/-- The samples of block row `r` in buffer `b`, and after the last row the mode data (R357). -/
def storeRow (h : Nat) (d : StreamDesc) (b r : Nat) : Act :=
  let base := d.rackBase + b * d.bufferBytes
  let ch := if d.chroma = 0 then 32 else 64
  Act.all [
    Act.each (fun y => sampleRow h d base (y * d.pitch) d.width) ((List.range 64).map (64 * r + ·) |>.filter (· < d.height)),
    Act.each (fun y => Act.seq (sampleRow h d base (d.cbAt + y * (d.pitch / 2)) (d.width / 2))
      (sampleRow h d base (d.crAt + y * (d.pitch / 2)) (d.width / 2)))
      ((List.range ch).map (ch * r + ·) |>.filter (· < d.chromaHeight)),
    Act.when (r + 1 == d.rows) (copyStore (base + d.modeAt) ((List.range 65536).map (fun j => Config.codecByte h 2 (d.modeAt + j))))]

/-- What an engine writes as it codes a picture: its rack buffer (R357). -/
def rackTouches (d : StreamDesc) (b : Nat) : List Touch := touchRange true (d.rackBase + b * d.bufferBytes) d.bufferBytes

/-- The picture of a submit as its planes hold it now, without the bits above the depth, which the encoder ignores (R356, R363). -/
def pictureBytes (s : State) (d : StreamDesc) (x : Submit) : List Byte :=
  let pitch (i : Nat) : Nat := x.pitches.getD (if i = 0 then 0 else 1) 0
  d.planeShapes.zipIdx.flatMap (fun z => (List.range z.1.1).flatMap (fun y =>
    (planBytes s true (x.planes.getD z.2 0 + y * pitch z.2) (2 * z.1.2)).mapIdx (fun j b =>
      if j % 2 = 0 then b else if d.bitDepth = 8 then 0 else b &&& 3)))

/-- Whether a unit ends with row `r` (R367). -/
def StreamDesc.unitEnds (d : StreamDesc) (r : Nat) : Bool := r + 1 == d.rows || (d.sliceRows != 0 && (r + 1) % d.sliceRows == 0)

/-- Period sequence number of a frame's own mark: the first of its source after its submit (R369), 0 when unbound. -/
def framePeriod (s : State) (v : Stream) (x : Submit) : Word :=
  if v.desc.markSrc = 0xFF then 0 else x.mark.getD (s.mark v.desc.markSrc + 1)

/-- A record of the frame in flight (R366). -/
def frameRec (s : State) (v : Stream) (f : Frame) (unit flags : Nat) (payload : List Byte) : OutRec :=
  ⟨f.sub.frame, f.sub.frame, unit, flags, f.tier, payload, f.sub.pts, f.buffer, framePeriod s v f.sub⟩

/-- Rows of the unit that row `r` ends: their bits. -/
def unitBits (d : StreamDesc) (rowBits : List Nat) : Nat :=
  let n := rowBits.length
  let m := if d.sliceRows = 0 then n else if n % d.sliceRows = 0 then d.sliceRows else n % d.sliceRows
  (rowBits.drop (n - m)).sum

/-- The planes of a submit, by address and length (R356). -/
def planeRanges (d : StreamDesc) (x : Submit) : List (Nat × Nat) :=
  d.planeShapes.zipIdx.map (fun z => (x.planes.getD z.2 0, x.pitches.getD (if z.2 = 0 then 0 else 1) 0 * (z.1.1 - 1) + 2 * z.1.2))

/-- What an engine touches of a picture that it encodes. -/
def planeTouches (d : StreamDesc) (x : Submit) : List Touch := (planeRanges d x).flatMap (fun y => touchRange false y.1 y.2)

/-- HRD parameters of a CBR stream with TIMING: cbr_flag, rate and buffer size (R368); TIMING holds ticks per frame, then ticks per
second (R360). -/
def StreamDesc.hrd (d : StreamDesc) : List Nat :=
  let frame := d.timing % 2 ^ 32
  let second := d.timing / 2 ^ 32
  if d.rateMode = 0 ∧ d.timing ≠ 0 then [1, d.bpf * second / frame, d.vbv] else []

/-- The parameter sets or the sequence header of a stream, before every key frame: they state the profile, the picture, the colour
description, the timing where it is given, and the HRD parameters (R355, R356, R360, R367, R368). -/
def StreamDesc.headers (d : StreamDesc) : List Byte :=
  Config.codecHeader (([d.codec, d.profile, d.level, d.chroma, d.bitDepth, d.width, d.height, d.refs, d.bframes, d.sliceRows, d.colour, d.timing]
    ++ d.hrd).flatMap (toLE 8))

/-- The AV1 size field (leb128) of `n` bytes. -/
def leb128 : Nat → Nat → List Byte
  | 0, _ => []
  | k + 1, n => if n < 128 then [BitVec.ofNat 8 n] else BitVec.ofNat 8 (n % 128 + 128) :: leb128 k (n / 128)

/-- A coded unit as the bitstream form has it (R355, R367): for HEVC a slice's NAL unit behind a start code, an IDR or a trailing one; for
AV1 a tile group OBU, the frame header's OBU before the first. The codes are those of the two standards (PRESUMED, notes/assumptions/25.md). -/
def StreamDesc.unitForm (d : StreamDesc) (h : Nat) (key first : Bool) (body : List Byte) : List Byte :=
  if d.codec = 0 then [0, 0, 0, 1, if key then 0x26 else 0x02, 0x01] ++ body
  else
    let head := (List.range (Config.codecNum h 6 % 256 + 1)).map (Config.codecByte h 4)
    (if first then [0x1A] ++ leb128 8 head.length ++ head else []) ++ [0x22] ++ leb128 8 body.length ++ body

/-- `n` bytes of filler: a filler-data NAL unit, or a padding OBU (R368); one too short for its own frame has free bytes. -/
def StreamDesc.filler (d : StreamDesc) (h n : Nat) : List Byte :=
  let free := (List.range n).map (Config.codecByte h 1)
  if d.codec = 0 then
    if n < 7 then free else [0, 0, 0, 1, 0x4C, 0x01] ++ List.replicate (n - 7) 0xFF ++ [0x80]
  else
    match (List.range 9).find? (fun k => (leb128 8 (n - 1 - k)).length == k) with
    | some k => if n < k + 2 then free else [0x7A] ++ leb128 8 (n - 1 - k) ++ List.replicate (n - 2 - k) 0 ++ [0x80]
    | none => free

/-- A row of an encode frame is coded: its bit count and, at a unit's end, the unit's bytes beyond those bits are free numbers and
bytes of kind 0 of the stream's history, which the picture and the row's quantiser extend (R21, R368). A key frame's first unit has the
parameter sets or the sequence header before it (R367). -/
def encodeRow (i : Nat) (v0 : Stream) (f : Frame) : Act := fun s =>
  let ts := planeTouches v0.desc f.sub
  let h := Config.codecNext v0.coder (pictureBytes (seen s ts) v0.desc f.sub ++ toLE 8 f.row ++ toLE 8 (unsigned 64 f.qp))
  let v : Stream := { v0 with coder := h }
  let d := v.desc
  let bitsNow := f.rowBits ++ [Config.codecNum h 0]
  let f1 : Frame := { f with row := f.row + 1, rowBits := bitsNow, coding := decide (f.row + 1 < d.rows) }
  let last := f.row + 1 == d.rows
  let f2 : Frame := { f1 with qp := nextQp h d v.qpF f.target (if f.key then v.wK else v.wI) bitsNow }
  let unit : List OutRec := if d.unitEnds f.row then
    [frameRec s v f f.units (b2n last + 2 * b2n f.key) ((if f.key && f.units == 0 then d.headers else [])
      ++ d.unitForm h f.key (f.units == 0) ((List.range (ceilDiv (unitBits d bitsNow) 8 + Config.codecNum h 1)).map (Config.codecByte h 0)))]
    else []
  let v1 := if last then v.rateEnd h f2 else v
  let fill := if last then fillerBytes d (i64 (v.debtF + (bitsNow.sum : Nat) - d.bpf)) else 0
  let filler : List OutRec := if fill = 0 then []
    else [frameRec s v f (f.units + unit.length) (32 + 2 * b2n f.key) (d.filler h fill)]
  Act.all [seenDraw ts, Act.each (fun x => meetRange x.1 x.2) (planeRanges d f.sub),
    otherWrite (rackTouches d f.buffer) (storeRow h d f.buffer f.row),
    Act.of [.stream i { v1 with
      out := v.out ++ unit ++ filler
      frame := some { f2 with units := f.units + unit.length + filler.length } }]] s

/-- Tags that the bitstream gives the reference pictures of a decode stream (R358): free. -/
def Stream.decodeTags (v : Stream) : Stream :=
  { v with
    buffers := Tab.remap Tags.none (fun t => t)
      (v.buffers.map (fun x => (x.1, { x.2 with short := (Config.codecByte v.coder 3 (2 * x.1)).getLsbD 0, long := Config.codecByte v.coder 3 (2 * x.1 + 1) }))) }

/-- Pictures that the bitstream may hold for output order; once more are held, the next in output order are announced (R364, R365). -/
def Stream.bump (v : Stream) : Stream := announceAll (v.held.length - Config.codecNum v.coder 5 % 17) v

/-- A row of a picture is decoded; after the last one the picture is held until it is next in output order (R364, R365, R367). -/
def decodeRow (i : Nat) (v0 : Stream) (f : Frame) : Act := fun s =>
  let v : Stream := { v0 with coder := Config.codecNext v0.coder (toLE 8 f.row) }
  let d := v.desc
  let last := f.row + 1 == d.rows
  let f1 : Frame := { f with row := f.row + 1, coding := !last }
  let f2 : Frame := if last then { f1 with left := f.left - 1, decoded := f.decoded + 1 } else f1
  let v1 := if last then
    Stream.bump { (v.setTags f.buffer { v.tags f.buffer with filled := true }).decodeTags with
      held := v.held ++ [⟨f.buffer, Config.codecNum v.coder 7, f.sub.pts, framePeriod s v f.sub, f.sub.frame, f.sub.late⟩] }
    else v
  Act.all [otherWrite (rackTouches d f.buffer) (storeRow v.coder d f.buffer f.row), Act.of [.stream i { v1 with frame := some f2 }],
    Act.when last (bumpAct v.source 2 1)] s

/-! ### Engines that are reset or sheeted (R372, R373, R376) -/

/-- The record of a frame that stops after some of its units went out (R372). -/
def abortedRec (s : State) (v : Stream) (f : Frame) : List OutRec :=
  if f.emitted = 0 then [] else [frameRec s v f f.emitted (8 + 1 + 2 * b2n f.key + 4 * b2n f.sub.late) []]

/-- The frame in flight of a stream stops: its submit completes with ABORTED_BY_RESET (R372). -/
def stopFrame (i : Nat) : Act := fun s =>
  let v := s.stream i
  match v.frame with
  | none => []
  | some f =>
    let pictures := v.out.filter (fun x => bit x.flags 4)
    Act.all [unready i, Act.of [.stream i { v with
        frame := none
        out := pictures ++ (if v.desc.dir = 0 then abortedRec s v f else []) }],
      finish f.sub.hdr stReset, finishClose i] s

/-- A stream leaves engine `e`: another engine takes it; where none is left it stays on an engine in reset, or has no engine and its
queue completes with DEVICE_DEGRADED (R372, R373). -/
def moveStream (e : Nat) (sheeted : Bool) (i : Nat) : Act := fun s =>
  let v := s.stream i
  if !v.opened then []
  else
    let v1 : Stream := if v.desc.dir = 0 then { v with forceKey := true } else { v with skipping := true }
    match leastLoaded s ((v.desc.engines s).filter (· != e)) with
    | some g => Act.all [unready i, Act.of [.stream i { v1 with engine := some (Fin.ofNat 16 g) }], logPlaced i 1] s
    | none =>
      if !sheeted then [.stream i v1]
      else Act.all [logPlaced i 1, unready i, Act.of [.stream i { v1 with engine := none, queue := [] }],
        Act.each (fun x => finish x.hdr stDegraded) v.queue] s

/-- Every stream of an engine stops its frame and moves (R303, R372). -/
def leaveEngine (e : Nat) (sheeted : Bool) : Act := fun s =>
  let l := (s.streams.filter (fun x => x.2.opened && x.2.engine.any (fun f => f.val == e))).map (·.1)
  Act.seq (Act.each stopFrame l) (Act.each (moveStream e sheeted) l) s

/-- A permanently faulty engine is sheeted (R376, R378). -/
def sheetEngine (e reason : Nat) : Act := fun s =>
  if (s.engine e).sheeted then []
  else Act.seq (Act.of [.engine e { s.engine e with sheeted := true }, .ledger 0x0101 (srcEngine e) (toLE 2 0 ++ [BitVec.ofNat 8 reason]),
    sheetCount s]) (leaveEngine e true) s

/-- `rows` operations of an engine, `n` of which failed their check and were repeated (R375, R376). -/
def engineOps (e rows n : Nat) : Act := fun s =>
  let g := s.engine e
  let h : Health := { g.health with ops := g.health.ops + rows }
  Act.seq (Act.of ([.engine e { g with health := h.faultN n }]
      ++ List.replicate n (.ledger 0x0100 (srcEngine e) (toLE 8 h.ops ++ [4]))
      ++ (if n = 0 then [] else [.count (counterId (srcEngine e) 4) n])))
    (if Health.permanent n h then sheetEngine e 1 else Act.none) s

/-! ### Dispatch of an engine (R306, R315, R371) -/

/-- The class of a stream's row: promotion stops at INTERACTIVE (R315). -/
def Stream.rowClass (v : Stream) : Nat := if v.promoted then 1 else v.desc.cls

/-- Streams that an engine may serve: their row is ready and no record of theirs waits for the ring (R366). -/
def servable (s : State) (e : Nat) : List Nat :=
  (s.engine e).ready.filter (fun i => (s.stream i).out.isEmpty && (s.stream i).frame.any (·.coding))

/-- The first stream of the highest class (R306). -/
def pickRow (s : State) (l : List Nat) : Option Nat :=
  ([0, 1, 2].map (fun c => l.find? (fun i => (s.stream i).rowClass == c))).findSome? id

/-- Rows of lower classes that wait are passed over; a promoted row is INTERACTIVE (R315). -/
def passRows (i : Nat) (l : List Nat) : Act := fun s =>
  let c := (s.stream i).rowClass
  (l.filter (fun j => j != i && decide (c < (s.stream j).rowClass) && decide (1 < (s.stream j).rowClass))).map (fun j =>
    let v := s.stream j
    .stream j (if patience s 2 ≤ v.passes + 1 then { v with passes := 0, promoted := true } else { v with passes := v.passes + 1 }))

/-- BLOCK_ROW (R371): the engine codes one block row; a failed parity or residue check repeats it (R376). -/
def execBlockRow (engine : EngineId) (failures : Fin 3) (s : State) : Host.Outcome State Fault Refusal :=
  Act.run (fun s =>
    let e := engine.val
    let l := servable s e
    if !engineOpen s e || (s.rail (srcEngine e)).rail == .gated then []
    else match pickRow s l with
      | none => []
      | some i =>
        Act.all [passRows i l, unready i, setStream i (fun v => { v with passes := 0, promoted := false }),
          (fun s => match (s.stream i).frame with
            | none => []
            | some f => if (s.stream i).desc.dir = 0 then encodeRow i (s.stream i) f s else decodeRow i (s.stream i) f s),
          (fun s => Act.when ((s.stream i).out.isEmpty && (s.stream i).frame.any (·.coding)) (readyRow i) s),
          engineOps e (1 + failures.val) failures.val] s) s

/-! ### The output ring (R366, R413) -/

/-- The header of a record (R366). -/
def recHeader (i : Nat) (v : Stream) (x : OutRec) (flags length : Nat) : List Byte :=
  toLE 4 (streamId i v) ++ toLE 4 x.frame.toNat ++ toLE 2 x.unit ++ toLE 1 flags ++ toLE 1 x.tier ++ toLE 4 length ++ toLE 8 x.pts.toNat
    ++ toLE 2 x.buffer ++ toLE 2 0 ++ toLE 4 x.period.toNat

/-- Bytes of a record in the ring. -/
def OutRec.bytes (x : OutRec) : Nat := 32 + roundUp 32 x.payload.length

/-- Bytes that a SKIP header covers before a record (R366). -/
def skipBytes (v : Stream) (x : OutRec) : Nat :=
  let o := v.produced.toNat % v.desc.ringSize
  if v.desc.ringSize < o + x.bytes then v.desc.ringSize - o else 0

/-- Whether the ring has room for a record, its SKIP header included. -/
def hasRoom (v : Stream) (x : OutRec) : Bool :=
  decide ((v.produced - v.consumed).toNat + skipBytes v x + x.bytes ≤ v.desc.ringSize)

/-- Whether a port carries codec output: a reference clock runs, Bus Master Enable is 1 and its DMA runs (R23, R413, R415). -/
def outputRuns (s : State) (p : Nat) : Bool := clocked s && (s.port p).dlUp && (s.port p).busMaster && !(s.port p).perst && !(s.port p).d3hot

/-- A record whose frame in flight has become late carries LATE (R369). -/
def lateFlag (v : Stream) (x : OutRec) : Nat :=
  if !bit x.flags 2 && v.frame.any (fun f => f.sub.late && f.sub.frame == x.submit) then 4 else 0

/-- A record and the producer word are written (R366); an announced picture carries OUT and releases the stream's hook (R360, R365). -/
def emitRec (i : Nat) (x : OutRec) (rest : List OutRec) : Act := fun s =>
  let v := s.stream i
  let p := v.port.val
  let skip := skipBytes v x
  let o := v.produced.toNat % v.desc.ringSize
  let at' := if skip = 0 then o else 0
  let flags := x.flags + lateFlag v x
  let after := v.produced + BitVec.ofNat 64 (skip + x.bytes)
  let picture := bit x.flags 4
  let frame := v.frame.map (fun f => if !picture && f.sub.frame == x.frame then
    { f with emitted := f.emitted + 1, bytes := f.bytes + x.payload.length } else f)
  let v1 : Stream := { v with out := rest, produced := after, frame := frame }
  let v2 := if picture then v1.setTags x.buffer { v1.tags x.buffer with out := true } else v1
  Act.all [
    Act.of ((if skip = 0 then [] else [.host p (v.desc.ringBase + o) (recHeader i v x 64 0)])
      ++ [.host p (v.desc.ringBase + at') (recHeader i v x flags x.payload.length ++ padTo (roundUp 32 x.payload.length) x.payload),
        .host p v.desc.producer (toLE 8 after.toNat), .stream i v2]
      ++ (if x.payload.isEmpty then [] else [.count (counterId v.source 5) x.payload.length])),
    Act.when (picture && v.desc.signal != 0xFFFF) (releaseHook v.desc.signal 1 0 false)] s

/-- UNIT_EMIT (R366, R367): the next record goes out once it has room; a closing stream whose records are all out closes (R362, R372). -/
def execUnitEmit (stream : Fin 256) (s : State) : Host.Outcome State Fault Refusal :=
  Act.run (fun s =>
    let i := stream.val
    let v0 := s.stream i
    if !v0.opened || !outputRuns s v0.port.val then []
    else
      match v0.out with
      | [] => []
      | x :: rest =>
        if !hasRoom v0 x then []
        else Act.all [emitRec i x rest, fun s =>
          Act.when ((s.stream i).out.isEmpty && (s.stream i).frame.any (·.coding)) (readyRow i) s, finishClose i] s) s

/-! ### Completion (R358, R363, R364, R369) -/

/-- SHORT references after a frame in buffer `b`: the encoder's own structure, a free choice of at most REFS of them (R358). -/
def Stream.keepRefs (v : Stream) (b : Nat) : Stream :=
  let l := (v.refs ++ [b]).filter (fun x => (Config.codecByte v.coder 3 x).getLsbD 0)
  let kept := l.drop (l.length - v.desc.refs)
  { (v.setTags b { v.tags b with filled := true }) with
    refs := kept
    buffers := Tab.remap Tags.none (fun t => t) (((v.setTags b { v.tags b with filled := true }).buffers).map (fun x =>
      (x.1, { x.2 with short := kept.contains x.1 }))) }

/-- Whether a frame completes before the mark after its own (R312, R369). -/
def inTime (x : Submit) : Bool := !x.passed

/-- The tier after a frame completes (R312, rules 3 and 4); decode has none (R369). -/
def Stream.onTimeFrame (v : Stream) (timely : Bool) : Stream :=
  if !timely || v.desc.dir = 1 || v.desc.markSrc = 0xFF || v.desc.cls = 2 then v
  else
    let x := onTimeStep v.onTime v.tier v.regained
    { v with onTime := x.1, tier := x.2 }

/-- The reply of a submit whose frame is complete (R363, R364). -/
def frameReply (dir : Nat) (f : Frame) : Reply :=
  let st := if f.sub.late then stDoneLate else stDone
  if dir = 0 then ⟨st, 0, f.sub.frame.toNat, f.bytes % 2 ^ 32, f.tier + 256 * b2n f.key + 512 * b2n f.sub.late, f.sub.late, 0⟩
  else match f.bad with
    | none => ⟨st, 0, f.decoded % 2 ^ 32, f.skipped % 2 ^ 32, 0, f.sub.late, 0⟩
    | some o => ⟨stMalformed, 8, f.decoded % 2 ^ 32, f.skipped % 2 ^ 32, o, f.sub.late, 0⟩

/-- FRAME_COMPLETE (R363, R364): the last unit is in the ring, or the last picture of the data is decoded. -/
def execFrameComplete (stream : Fin 256) (s : State) : Host.Outcome State Fault Refusal :=
  Act.run (fun s =>
    let i := stream.val
    let v := s.stream i
    match v.frame with
    | none => []
    | some f =>
      let encode := v.desc.dir == 0
      if !v.opened || f.coding || (if encode then v.out.any (fun x => x.frame == f.sub.frame) else f.left != 0) then []
      else
        let long := encode && bit f.sub.flags 1
        let v1 := if encode then v.keepRefs f.buffer else v
        let t := v1.tags f.buffer
        let v2 := if long then v1.setTags f.buffer { t with long := t.long ||| BitVec.ofNat 8 (2 ^ f.sub.ltSlot) } else v1
        let v3 := { v2 with frame := none }.onTimeFrame (inTime f.sub)
        Act.all [Act.of [.stream i v3], streamTier i v.tier,
          Act.when encode (bumpAct v.source 2 1),
          Act.when (encode && v.desc.signal != 0xFFFF) (releaseHook v.desc.signal 1 0 false),
          Act.when (!encode && bit f.sub.flags 0) (flushStream i),
          complete f.sub.hdr (frameReply v.desc.dir f), finishClose i] s) s

/-! ### Marks (R311, R312, R369) -/

/-- A REBIND takes effect at the next mark of the old or the new source (R369). -/
def Stream.bindNow (v : Stream) (src : Nat) : Stream :=
  match v.rebind with
  | some (m, d) => if src = m ∨ src = v.desc.markSrc then { v with desc := { v.desc with markSrc := m, targetDepth := d }, rebind := none } else v
  | none => v

/-- A submit whose own mark has not arrived takes this one; of one whose own mark has arrived, this is one after it. -/
def Submit.takeMark (x : Submit) (seq : Word) : Submit := if x.mark.isNone then { x with mark := some seq } else { x with passed := true }

/-- How many submits the stream has taken since one. -/
def Stream.age (v : Stream) (x : Submit) : Nat := (v.nextFrame - x.frame).toNat

/-- Pending frames of a stream, oldest first: one in flight may have overtaken others (R369). -/
def Stream.pendingSubs (v : Stream) : List Submit :=
  match v.frame with
  | none => v.queue
  | some f => v.queue.filter (fun x => decide (v.age f.sub < v.age x)) ++ f.sub :: v.queue.filter (fun x => !decide (v.age f.sub < v.age x))

/-- A stream's pending frames change, each by its place among them. -/
def Stream.mapSubs (v : Stream) (f : Nat → Submit → Submit) : Stream :=
  let place (x : Submit) : Nat := (v.pendingSubs.filter (fun y => decide (v.age x < v.age y))).length
  { v with
    frame := v.frame.map (fun x => { x with sub := f (place x.sub) x.sub })
    queue := v.queue.map (fun x => f (place x) x) }

/-- Held pictures, and announcements that wait, of submits that are now late carry LATE (R369). -/
def Stream.latePictures (v : Stream) (l : List Submit) : Stream :=
  let late (n : Word) : Bool := l.any (fun x => x.frame == n)
  { v with
    held := v.held.map (fun x => if late x.submit then { x with late := true } else x)
    out := v.out.map (fun x => if bit x.flags 4 && !bit x.flags 2 && late x.submit then { x with flags := x.flags + 4 } else x) }

/-- A late mark, or one at which the schedule is regained, moves the tier of an encode stream (R312). -/
def Stream.markTier (v : Stream) (late : Bool) : Stream :=
  if v.desc.dir = 1 then v
  else if late then { v with tier := v.tier - 1, onTime := 0, regained := false }
  else if v.onTime = 8 then { v with regained := true, onTime := 0, tier := min 3 (v.tier + 1) }
  else { v with regained := true }

/-- A mark of source `src` reaches a stream (R311, R312, R369). -/
def markStream (src : Nat) (seq : Word) (i : Nat) : Act := fun s =>
  let v0 := s.stream i
  let v := v0.bindNow src
  if !v.opened || v.desc.markSrc != src then [.stream i v]
  else
    let v1 := v.mapSubs (fun _ x => x.takeMark seq)
    let subs := v1.pendingSubs
    let excess := subs.length - v.desc.targetDepth
    let fresh := (subs.take excess).filter (fun x => !x.late)
    let v2 := ((v1.mapSubs (fun j x => if j < excess then { x with late := true } else x)).latePictures (subs.take excess)).markTier (0 < excess)
    Act.all [Act.of (.stream i v2 :: fresh.flatMap (fun x =>
      [.count (counterId v.source 3) 1, .ledger 0x0200 v.source (toLE 4 (x.mark.getD 0).toNat ++ toLE 4 (streamId i v))])),
      streamTier i v0.tier] s

/-- A mark reaches every stream. -/
def markStreams (src : Nat) (seq : Word) : Act := fun s => Act.each (markStream src seq) ((s.streams.filter (·.2.opened)).map (·.1)) s

end Sys2Proof.Machine
end

