-- ==== Sys2Proof/Machine/Commands.lean ====
section
/-! DEFINITION. Sys2Proof/Machine/Commands.lean: reports (R292, R379, R430, R434, R439), hook commands (R299), keys (R428, R429),
table sets (R195 to R199) and firmware staging (R425, R426). -/
namespace Sys2Proof.Machine

/-! ### NOP and reports -/

/-- NOP (R292). -/
def execNop (h : Hdr) (s : State) : Host.Outcome State Fault Refusal := (command h true (finish h stDone)).run s

/-- IDENTIFY (R292, R402). -/
def execIdentify (h : Hdr) (host : Dword) (s : State) : Host.Outcome State Fault Refusal :=
  (hostCommand h true (fun s => Act.seq (toHost h host.toNat (identBytes s h.port)) (done3 h (deviceNumber s) h.port 0) s)).run s

/-- A capacity too small for the data: BAD_PARAMETER with the required length (R293). -/
def tooSmall (h : Hdr) (off need : Nat) : Act := complete h { Reply.badField off with w0 := need }

/-- INVENTORY (R379). -/
def execInventory (h : Hdr) (host : Dword) (capacity : Word) (s : State) : Host.Outcome State Fault Refusal :=
  (hostCommand h true (fun s =>
    if capacity.toNat < 1424 then tooSmall h 40 1424 s
    else Act.seq (toHost h host.toNat (inventoryBytes s)) (done3 h 1424 0 0) s)).run s

/-- ATTEST (R430). -/
def execAttest (h : Hdr) (host : Dword) (capacity : Word) (nonce : BitVec 256) (s : State) : Host.Outcome State Fault Refusal :=
  (hostCommand h true (fun s =>
    if capacity.toNat < 13200 then tooSmall h 40 13200 s
    else Act.seq (toHost h host.toNat (attestBytes s nonce)) (done3 h 13200 0 0) s)).run s

/-- LEDGER_READ (R434). -/
def execLedgerRead (h : Hdr) (first count : Word) (host : Dword) (s : State) : Host.Outcome State Fault Refusal :=
  (hostCommand h true (fun s =>
    if count = 0 ∨ 16384 < count.toNat then badField h 36 s
    else
      let x := ledgerSpan s first count.toNat
      let rs := ledgerSlice s x.1 x.2
      Act.seq (toHost h host.toNat (rs.flatMap recordBytes)) (done3 h rs.length x.1.toNat (oldest s).toNat) s)).run s

/-- COUNTER_READ (R439). -/
def execCounterRead (h : Hdr) (first count : Word) (host : Dword) (s : State) : Host.Outcome State Fault Refusal :=
  (hostCommand h false (fun s =>
    if count = 0 ∨ 4096 < count.toNat then badField h 36 s
    else Act.all [toHost h host.toNat ((List.range count.toNat).flatMap (fun k =>
        if first.toNat + k < 2 ^ 32 then counterBytes s (first.toNat + k) else toLE 8 0)),
      countActivity first.toNat count.toNat, Act.of [.fresh], done3 h count.toNat 0 0] s)).run s

/-- COUNTER_CLEAR (R439). -/
def execCounterClear (h : Hdr) (first count : Word) (s : State) : Host.Outcome State Fault Refusal :=
  (command h false (fun s =>
    let a := first.toNat
    let b := min (a + count.toNat) (2 ^ 32)
    Act.all [countActivity a (b - a),
      fun s => (s.counters.filter (fun x => decide (a ≤ x.1) && decide (x.1 < b))).map (fun x => .clearCounter x.1),
      Act.of [.fresh], done3 h (countersIn a (b - a)) 0 0] s)).run s

/-! ### Hook commands (R299) -/

/-- A hook that hosts may use, or the wrong field. -/
def hookCommand (h : Hdr) (hook : Half) (a : Act) : Act :=
  if hook.toNat < 64 ∨ 4095 < hook.toNat then badField h 32 else a

/-- HOOK_ACQUIRE (R299). -/
def execHookAcquire (h : Hdr) (hook : Half) (value : Word) (s : State) : Host.Outcome State Fault Refusal :=
  (command h false (hookCommand h hook
    (if value = 0 then badField h 36 else acquireHook hook.toNat (.command h value)))).run s

/-- HOOK_RELEASE (R299): the count after every waiter that it serves has taken its value. -/
def execHookRelease (h : Hdr) (hook : Half) (inc : Word) (s : State) : Host.Outcome State Fault Refusal :=
  (command h false (hookCommand h hook
    (if inc = 0 then badField h 36
     else fun s =>
      let k := hook.toNat
      let v := s.hook k
      let st := if overflows v.count inc.toNat then stHookOverflow else stDone
      Act.all [Act.of [.hook k { v with count := releasedCount v.count inc.toNat }], jobs [.serve k],
        fun s => complete h ⟨st, 0, (s.hook k).count.toNat, 0, 0, false, 0⟩ s] s))).run s

/-- HOOK_SET (R299). -/
def execHookSet (h : Hdr) (hook : Half) (value : Word) (s : State) : Host.Outcome State Fault Refusal :=
  (command h false (hookCommand h hook (fun s =>
    Act.seq (setHook hook.toNat value) (done3 h (s.hook hook.toNat).count.toNat 0 0) s))).run s

/-- HOOK_READ (R292): any hook. -/
def execHookRead (h : Hdr) (hook : Half) (s : State) : Host.Outcome State Fault Refusal :=
  (command h false (fun s =>
    if 4095 < hook.toNat then badField h 32 s
    else done3 h (s.hook hook.toNat).count.toNat (s.hook hook.toNat).waiters.length 0 s)).run s

/-! ### Keys (R428, R429) -/

/-- The wrapped key's plaintext, or none where its signature, agreement or tag fails (R428, R429). -/
def unwrapKey (b : List Byte) : Option (List Byte) :=
  let shared := x25519 (toLE 32 Config.wrapSecret.toNat) (slice b 24 32)
  if !edVerify (slice b 148 32) (slice b 0 180) (slice b 180 64) || allZero shared then none
  else gcmOpen (hkdf512 shared (toLE 8 Config.serial.toNat) (ascii "AQ-PD20 key wrap") 32) (slice b 56 12) (slice b 0 68)
    (slice b 68 64) (slice b 132 16)

/-- INSTALL_KEY (R429). -/
def installCommand (h : Hdr) (host : Dword) (len : Word) (key : Byte) : Act := fun s =>
  let b := hostData s h host.toNat 244
  let k := key.toNat
  if len.toNat ≠ 244 then badField h 40 s
  else if 63 < k then badField h 44 s
  else if fieldLE b 0 2 ≠ 1 ∨ allZero (slice b 2 2) = false ∨ fieldLE b 4 4 = 0 ∨ 1 < fieldLE b 8 4
      ∨ allZero (slice b 12 4) = false ∨ fieldLE b 16 8 ≠ Config.serial.toNat then finish h stBadParameter s
  else match unwrapKey b with
    | none => finish h stSealed s
    | some p =>
      let owner := sha512 (slice b 148 32)
      let old := s.key k
      let same : Bool := match old with
        | some v => v.dataKey == p.take 32 && v.tweakKey == p.drop 32
        | none => false
      let named := s.regions.any (fun x => x.2.any (fun r => r.key == k))
      if p.take 32 = p.drop 32 then finish h stSealed s
      else if old.any (fun v => v.ownerHash != owner) then finish h stSealed s
      else if named && (!same || old.any (fun v => v.keyId.toNat != fieldLE b 4 4)) then finish h stBusy s
      else
        let ctr (f : KeySlot → Dword) : Dword := if same then (old.map f).getD 0 else 0
        Act.seq (Act.of [.key k (some ⟨p.take 32, p.drop 32, BitVec.ofNat 32 (fieldLE b 4 4), BitVec.ofNat 32 (fieldLE b 8 4), owner,
          ctr (·.transferCtr), ctr (·.contextCtr)⟩)]) (done3 h (fieldLE b 4 4) 0 0) s

def execInstallKey (h : Hdr) (host : Dword) (len : Word) (key : Byte) (s : State) : Host.Outcome State Fault Refusal :=
  (hostCommand h false (installCommand h host len key)).run s

/-! ### Table sets (R195 to R199) -/

/-- A table image, if it passes its checks (R196). -/
def parseTables (b : List Byte) : Option TableSet :=
  let nodes := (List.range 877).map (fun i => BitVec.ofNat 32 (fieldLE b (64 + 4 * i) 4))
  if fieldLE b 0 2 ≠ 1 ∨ allZero (slice b 2 6) = false ∨ allZero (slice b 16 48) = false ∨ allZero (slice b 3572 12) = false
      ∨ fieldLE b 12 4 = 0 ∨ nodes.any (fun w => bits w.toNat 30 23 == 255) = true then none
  else some (.loaded (BitVec.ofNat 64 (fieldLE b 8 8)) nodes)

/-- A switch starts: the inactive banks are written (R197). -/
def startSwitch (h : Hdr) (t : TableSet) : Act := fun s => [.tables { s.tables with writing := some t, command := some h }]

/-- TABLE_LOAD (R196, R197).
DESIGN CHOICE (notes/assumptions/51.md): a wrong length is BAD_PARAMETER before a pending switch is BUSY, and BUSY comes before the
checks of the image (R196); no rule orders them. -/
def execTableLoad (h : Hdr) (host : Dword) (len : Word) (s : State) : Host.Outcome State Fault Refusal :=
  (hostCommand h false (fun s =>
    if len = 0 then finish h stDone s
    else if len.toNat ≠ 3584 then badField h 40 s
    else if s.tables.command.isSome then finish h stBusy s
    else match parseTables (hostData s h host.toNat 3584) with
      | none => finish h stBadParameter s
      | some t => startSwitch h t s)).run s

/-- TABLE_SELECT (R196). -/
def execTableSelect (h : Hdr) (set : Byte) (s : State) : Host.Outcome State Fault Refusal :=
  (command h false (fun s =>
    if 1 < set.toNat then badField h 32 s
    else if s.tables.command.isSome then finish h stBusy s
    else startSwitch h (if set = 0 then .standard else .c12) s)).run s

/-- TABLE_BANKS_WRITTEN (R197): the active-set generation advances by one. -/
def execTableBanksWritten (s : State) : Host.Outcome State Fault Refusal :=
  Act.run (fun s => match s.tables.writing with
    | none => []
    | some t => [.tables { s.tables with
        generation := s.tables.generation + 1
        active := t
        old := some s.tables.active
        writing := none }]) s

/-- Whether a job still carries an older generation, in its records or in the resume landing that it would restart from while a newer
one waits for its confirmation (R198, R199). -/
def carriesOld (s : State) : Bool :=
  s.slots.any (fun x => x.2.run.any (fun q => q.gen != s.tables.generation
    || (q.landings.waiting.isSome && q.landings.resume.isSome && q.landings.resumeGen != s.tables.generation)))

/-- TABLE_SWITCH_COMPLETE (R199). -/
def execTableSwitchComplete (s : State) : Host.Outcome State Fault Refusal :=
  Act.run (fun s => match s.tables.command with
    | none => []
    | some h =>
      if s.tables.writing.isSome || carriesOld s then []
      else
        let id := s.tables.active.ident
        Act.all [Act.of [.tables { s.tables with old := none, command := none }], logAct 0x0306 0 (toLE 8 id),
          done3 h (id % 2 ^ 32) (id / 2 ^ 32) 0] s) s

/-! ### Firmware staging (R425, R426) -/

/-- The bank that is not running. -/
def stageBank (s : State) : Bool := !s.firmware.bankB

/-- Bytes of a flash bank change. -/
def Flash.setBank (f : Flash) (b : Bool) (bs : List Byte) : Flash := if b then { f with bankB := bs } else { f with bankA := bs }

/-- FIRMWARE_STAGE (R425): a length of 0 breaks the rules of a later stage, and moves nothing at offset 0 (R293). -/
def execFirmwareStage (h : Hdr) (host : Dword) (offset len : Word) (s : State) : Host.Outcome State Fault Refusal :=
  (hostCommand h true (fun s =>
    let o := offset.toNat
    let n := len.toNat
    let staged : List Byte := if o = 0 then [] else (s.stage.map (·.bytes)).getD []
    if o = 0 ∧ n = 0 then finish h stDone s
    else if s.stage.any (fun x => x.port != h.port) then finish h stBusy s
    else if o ≠ staged.length then badField h 40 s
    else if n = 0 ∨ 2 ^ 20 < n ∨ 28 * 2 ^ 20 < o + n then badField h 44 s
    else
      let bs := staged ++ hostData s h host.toNat n
      Act.seq (Act.of [.stage (some ⟨h.port, bs⟩), .flash (s.flash.setBank (stageBank s) bs)]) (finish h stDone) s)).run s

/-- FIRMWARE_COMMIT (R426). -/
def execFirmwareCommit (h : Hdr) (len : Word) (s : State) : Host.Outcome State Fault Refusal :=
  (command h true (fun s =>
    match s.stage with
    | none => finish h stBusy s
    | some x =>
      if x.port ≠ h.port then finish h stBusy s
      else if len.toNat ≠ x.bytes.length ∨ imageOk s.flash.minSvn x.bytes = false then
        Act.all [Act.of [.stage none], eventAct 3, logAct 0x0005 (srcPort h.port) (toLE 1 1), finish h stFirmware] s
      else Act.seq (Act.of [.stage none,
          .flash { s.flash with preferB := stageBank s, writeCount := s.flash.writeCount + 1 }])
        (done3 h (b2n (stageBank s)) 0 0) s)).run s

end Sys2Proof.Machine
end

