-- ==== Sys2Proof/Machine/Contexts.lean ====
section
/-! DEFINITION. Sys2Proof/Machine/Contexts.lean: contexts of plans: SAVE_CONTEXT, CONTEXT_WRITTEN and RESTORE_CONTEXT (R184 to R186,
R280 to R282). -/
namespace Sys2Proof.Machine

/-! ### Lane contexts (R185) -/

/-- Reductions of a pass, in order: destination register and kind (R179). -/
def passReductions (g : LaneProg) (pass : Nat) : List (Nat × Reduce) :=
  (passInstrs g.instrs pass).filterMap (fun w =>
    let d := bits w 23 18
    match bits w 31 24 with
    | 0x70 => some (d, .sum)
    | 0x71 => some (d, .max)
    | 0x72 => some (d, .min)
    | 0x73 => some (d, .wel)
    | _ => none)

/-- Subtrees that a stack of `n` completed chunks holds: first chunk and number of chunks, a power of two each (R179). -/
def stackBlocks : Nat → Nat → Nat → List (Nat × Nat)
  | 0, _, _ => []
  | f + 1, c, n => if n = 0 then [] else (c, 2 ^ Nat.log2 n) :: stackBlocks f (c + 2 ^ Nat.log2 n) (n - 2 ^ Nat.log2 n)

/-- The stack of one reduction: 20 entries of 12 bytes (R185). -/
def stackBytes (o : OpenRow) (r : Nat × Reduce) : List Byte :=
  let ps := (chunkParts r.1 o.partials).map (·.2)
  padTo 240 ((stackBlocks 20 0 o.completed.length).flatMap (fun b =>
    let p := treeRoot (Partial.merge r.2) ⟨0, 0, 0⟩ ((ps.drop b.1).take b.2)
    match r.2 with
    | .wel => toLE 4 p.count ++ toLE 4 p.p.toNat ++ toLE 4 p.q.toNat
    | _ => toLE 4 b.2 ++ toLE 4 p.p.toNat ++ toLE 4 0))

/-- A row record (R185). -/
def rowBytes (g : LaneProg) (o : OpenRow) : List Byte :=
  toLE 8 o.row ++ toLE 1 o.pass ++ toLE 3 o.completed.length ++ toLE 4 0
    ++ (List.range 16).flatMap (fun i => toLE 4 (Tab.look 0 o.vrow (48 + i)).toNat)
    ++ padTo 960 ((passReductions g o.pass).flatMap (stackBytes o))

/-- The context of a split (R185). -/
def laneContext (g : LaneProg) (q : LaneRun) : List Byte :=
  padTo 64 (toLE 4 q.record ++ toLE 8 q.nextRow ++ toLE 2 q.rows.length) ++ q.rows.flatMap (rowBytes g)

/-- Partials of a reduction from its stack: a whole subtree stands at its first chunk (R186). -/
def stackParts (b : List Byte) (r : Nat × Reduce) (n : Nat) : List (Nat × Reduce × Nat × Partial) :=
  (stackBlocks 20 0 n).zipIdx.flatMap (fun x =>
    let e := slice b (12 * x.2) 12
    let p : Partial := match r.2 with
      | .wel => ⟨fieldLE e 0 4, BitVec.ofNat 32 (fieldLE e 4 4), BitVec.ofNat 32 (fieldLE e 8 4)⟩
      | _ => ⟨32 * x.1.2, BitVec.ofNat 32 (fieldLE e 4 4), 0⟩
    (List.range x.1.2).map (fun i => (r.1, r.2, x.1.1 + i, if i = 0 then p else ⟨0, 0, 0⟩)))

/-- A row in progress from its record. -/
def parseRow (g : LaneProg) (b : List Byte) : OpenRow :=
  let n := fieldLE b 9 3
  { row := fieldLE b 0 8
    pass := fieldLE b 8 1
    dealt := n
    completed := List.range n
    vrow := (List.range 16).foldl (fun t i => Tab.put 0 t (48 + i) (BitVec.ofNat 32 (fieldLE b (16 + 4 * i) 4))) []
    partials := (passReductions g (fieldLE b 8 1)).zipIdx.flatMap (fun x => stackParts (slice b (80 + 240 * x.2) 240) x.1 n) }

/-- Lane contexts of a run's stopped records: record and split, ascending (R280). -/
def stoppedSplits (s : State) (n : Nat) (q : Run) : List LaneRun :=
  let l := (s.cores.flatMap (fun x => x.2.laneRuns.filter (fun y => y.slot == n))) ++ q.laneContexts
  (l.foldl (fun acc y => insertByFst (y.record * 65536 + y.split, y) acc) []).map (·.2)

/-! ### The context (R280) -/

/-- The bytes of a context after byte 127, as plaintext: DONE, LANE, TRAYS, SHELF. -/
def contextBody (s : State) (n : Nat) (p : Plan) (q : Run) : List Byte :=
  let done := (List.range (roundUp 64 (ceilDiv p.records.length 8))).map (fun i =>
    BitVec.ofNat 8 (maskOf 8 (fun k => q.completed.contains (8 * i + k))))
  done ++ (stoppedSplits s n q).flatMap (fun y => laneContext (p.program (p.record y.record)) y)
    ++ p.trays.flatMap (fun x => memBytes s (trayAddr s n p x.1 x.2) (p.trayLen x.1))
    ++ (List.range p.homes).flatMap (fun h => memBytes s
      (shelfBase + ((homeCore s p h).getD 0) * shelfSlot + (s.slot n).shelfBase.getD h 0) p.resource.shelfBytes)

/-- Digest by which the elements that a context leaves in unfinished crates are found again: of the plan and of what the context holds
(R97, R186). -/
def crateId (p : Plan) (body : List Byte) : List Byte := sha512 (p.digest ++ body)
def contextId (s : State) (n : Nat) (p : Plan) (q : Run) : List Byte := crateId p (contextBody s n p q)

/-- The kept elements with those of one more context; a context without any leaves nothing. -/
def keptWith (s : State) (id : List Byte) (l : List CratePart) : List (List Byte × List CratePart) :=
  let rest := s.kept.filter (fun x => x.1 != id)
  if l.isEmpty then rest else rest ++ [(id, l)]

/-- The first 128 bytes of a context. -/
def contextHead (s : State) (n : Nat) (p : Plan) (q : Run) (len : Nat) (key : Option (Nat × KeySlot)) (iv : List Byte) : List Byte :=
  toLE 2 1 ++ toLE 1 (b2n key.isSome) ++ toLE 1 0 ++ toLE 4 len ++ toLE 8 q.seed.toNat ++ toLE 8 (s.slot n).advance.toNat
    ++ toLE 8 (jobSet s q.gen).ident ++ toLE 4 q.step ++ toLE 1 q.tier
    ++ (match key with
      | some (k, v) => toLE 1 k ++ toLE 2 0 ++ toLE 4 v.keyId.toNat ++ iv ++ toLE 8 Config.serial.toNat
      | none => List.replicate 27 0)
    ++ p.digest

/-- The GCM key of a context (R281). -/
def contextKey (v : KeySlot) (serial : Nat) : List Byte := hkdf512 v.dataKey (toLE 8 serial) (ascii "AQ-PD20 context") 32

/-- A written context; none where the key slot's context counter has run out, or the plan reads sealed tensors and no key slot holds a key
(R82, R280, R281). -/
def contextBytes (s : State) (n : Nat) (p : Plan) (q : Run) : Option (List Byte × Act) :=
  let body := contextBody s n p q
  if !p.readsSealed then some (contextHead s n p q (128 + body.length) none [] ++ body, Act.none)
  else match (s.slot n).keySlot.bind (fun k => (s.key k).map (fun v => (k, v))) with
    | none => none
    | some (k, v) =>
      if v.contextCtr = BitVec.allOnes 64 then none
      else
        let iv := toLE 8 v.contextCtr.toNat ++ toLE 4 s.flash.startCount.toNat
        let hd := contextHead s n p q (144 + body.length) (some (k, v)) iv
        let e := gcmSeal (contextKey v Config.serial.toNat) iv hd body
        some (hd ++ e.1 ++ e.2, Act.of [.key k (some { v with contextCtr := v.contextCtr + 1 })])

/-! ### SAVE_CONTEXT (R280) -/

/-- SAVE_CONTEXT stops dispatch; a slot without a run has no context (notes/assumptions/22.md). -/
def saveCommand (h : Hdr) (addr capacity : Dword) (slot toDev : Byte) : Act :=
  slotCommand h slot 48 (fun n v _ =>
    if 1 < toDev.toNat then badField h 49
    else match v.run with
      | none => badField h 48
      | some q =>
        if q.saving.isSome then finish h stBusy
        else Act.of [.slot n { v with run := some { q with
          paused := true
          saving := some ⟨h, addr, capacity, toDev == 1, q.restarts⟩ } }])

def execSaveContext (h : Hdr) (addr capacity : Dword) (slot target : Byte) (s : State) : Host.Outcome State Fault Refusal :=
  (command h false (saveCommand h addr capacity slot target)).run s

/-- The bytes of a context go to host or device memory, and the command completes. -/
def deliverContext (n : Nat) (v : SaveReq) (bs : List Byte) (restarts : Nat) : Act := fun s =>
  let len := bs.length
  let ok : Reply := ⟨stDone, 0, len % 2 ^ 32, len / 2 ^ 32, 0, false, restarts⟩
  let i : Instr := .saveContext v.hdr v.addr v.capacity (BitVec.ofNat 8 n) 1
  if !v.toDevice then Act.seq (toHost v.hdr v.addr.toNat bs) (complete v.hdr ok) s
  else match target s 32 v.addr len with
    | .refused r => complete v.hdr { r with restarts := restarts } s
    | .here a => Act.seq (storeMem a bs) (complete v.hdr ok) s
    | .remote d a => Act.seq (Act.of [.saves (s.saves ++ [(v.hdr, restarts)])]) (writeRemote i d none a bs) s

/-- CONTEXT_WRITTEN (R280): running records have completed or stopped; the context is written and the plan left paused. -/
def execContextWritten (slot : SlotId) (s : State) : Host.Outcome State Fault Refusal :=
  Act.run (withRun slot.val (fun p q => fun s =>
    let n := slot.val
    match q.saving with
    | none => []
    | some v =>
      if q.stopped.isSome || !q.inFlight.all (settled s n p q) || (!v.toDevice && dmaStopped s v.hdr) then []
      else
        let again := q.restarts - v.restarts
        let meet : Act := Act.each (fun x => meetRange (trayAddr s n p x.1 x.2) (p.trayLen x.1)) p.trays
        Act.all [blurDraw, meet, setRun n (fun q => { q with saving := none }),
          (match contextBytes s.blur n p q with
            | none => complete v.hdr { Reply.of stSealed with restarts := again }
            | some (bs, a) =>
              if v.capacity.toNat < bs.length then complete v.hdr { Reply.badField 40 with
                w0 := bs.length
                restarts := again }
              else Act.all [Act.of [.kept (keptWith s (contextId s.blur n p q) q.crates)], a, deliverContext n v bs again])] s)) s

/-! ### RESTORE_CONTEXT (R282) -/

/-- Lane contexts that a run of bytes holds: splits and the bytes after them. A record's contexts come one for each split. -/
def parseLanes (slot : Nat) (p : Plan) : Nat → List Byte → List LaneRun → List LaneRun × List Byte
  | 0, b, acc => (acc, b)
  | f + 1, b, acc =>
    let r := fieldLE b 0 4
    let rc := p.record r
    let split := (acc.filter (fun y => y.record == r)).length
    let g := p.program rc
    let opened := fieldLE b 12 2
    let y : LaneRun := ⟨slot, r, split, fieldLE b 4 8, (splitRange g.rows rc.split0 split).2,
      (List.range opened).map (fun j => parseRow g (slice b (64 + 1040 * j) 1040))⟩
    parseLanes slot p f (b.drop (64 + 1040 * opened)) (acc ++ [y])

/-- Number of lane contexts in `n` bytes before the trays and shelves. -/
def countLanes : Nat → List Byte → Nat
  | 0, _ => 0
  | f + 1, b => if b.isEmpty then 0 else 1 + countLanes f (b.drop (64 + 1040 * fieldLE b 12 2))

/-- The trays and shelf areas of a context go to the cores that now serve them (R246, R266, R282). -/
def placeContext (n : Nat) (p : Plan) (b : List Byte) : Act := fun s =>
  let put (acc : List Byte × List Act) (size a : Nat) : List Byte × List Act := (acc.1.drop size, acc.2 ++ [storeMem a (acc.1.take size)])
  let x := p.trays.foldl (fun acc t => put acc (p.trayLen t.1) (trayAddr s n p t.1 t.2)) (b, [])
  let y := (List.range p.homes).foldl (fun acc h => put acc p.resource.shelfBytes
    (shelfBase + ((homeCore s p h).getD 0) * shelfSlot + (s.slot n).shelfBase.getD h 0)) x
  Act.all y.2 s

/-- The restored run: paused at the saved step, with the current table generation (R199, R211, R282). A run that was paused
keeps its RUN packet; a run with landings takes one before it goes on (notes/assumptions/22.md). -/
def restoredRun (s : State) (h : Hdr) (n : Nat) (p : Plan) (hd body : List Byte) (lanes : List LaneRun) : Run :=
  let base : Run := ((s.slot n).run).getD { newRun s h n none with answers := false }
  let done := (List.range p.records.length).filter (fun r => bit (fieldLE body (r / 8) 1) (r % 8))
  let open_ := (lanes.map (·.record)).eraseDups
  { base with
    seed := BitVec.ofNat 64 (fieldLE hd 8 8)
    gen := s.tables.generation
    active := true
    step := fieldLE hd 32 4
    completed := done
    waiting := []
    inFlight := []
    bodyDone := []
    acquired := done ++ open_
    released := done
    paused := true
    stopped := none
    tier := fieldLE hd 36 1
    reports := []
    summed := done.filter (fun r => (p.record r).collective)
    landings := { next := if p.landing.every = 0 then 0 else fieldLE hd 32 4 / p.landing.every, due := p.landing.every != 0, waiting := none,
                  notices := [], resume := none, resumeGen := 0, copying := false }
    laneContexts := lanes
    crates := ((s.kept.find? (fun x => x.1 == crateId p body)).map (·.2)).getD []
    aged := []
    unsettled := [] }

/-- A context's fields that this plan and device take (R281, R282). -/
def contextOk (p : Plan) (isSealed : Bool) (b : List Byte) : Bool :=
  fieldLE b 0 2 == 1 && fieldLE b 2 1 == b2n isSealed && allZero (slice b 3 1) && fieldLE b 4 4 == b.length && allZero (slice b 38 2)
    && decide (fieldLE b 36 1 ≤ 3) && decide (fieldLE b 32 4 ≤ p.steps.length) && slice b 64 64 == p.digest
    && (isSealed || allZero (slice b 37 27)) && decide (128 ≤ b.length)

/-- A context restored into a slot (R282). -/
def restoreBytes (h : Hdr) (slot : Byte) (b : List Byte) : Act :=
  slotCommand h slot 48 (fun n v p => fun s =>
    let key := v.keySlot
    let isSealed := p.readsSealed
    if v.run.any (fun q => !q.paused || q.saving.isSome) then finish h stBadParameter s
    else if !contextOk p isSealed b then finish h stBadParameter s
    else
      let body : Option (List Byte) := if !isSealed then some (b.drop 128) else (key.bind s.key).bind (fun x =>
          if x.keyId.toNat ≠ fieldLE b 40 4 then none
          else gcmOpen (contextKey x (fieldLE b 56 8)) (slice b 44 12) (b.take 128) (slice b 128 (b.length - 144)) (b.drop (b.length - 16)))
      match body with
      | none => finish h stSealed s
      | some body =>
        let doneLen := roundUp 64 (ceilDiv p.records.length 8)
        let kept := ((p.trays.map (fun x => p.trayLen x.1)).sum) + p.homes * p.resource.shelfBytes
        let laneBytes := slice body doneLen (body.length - doneLen - kept)
        let lanes := (parseLanes n p (countLanes laneBytes.length laneBytes) laneBytes []).1
        let sealedTaint : Act := if key.isSome then Act.of (((List.range p.homes).filterMap (homeCore s p)).map (fun c =>
            .taint c ((Tab.look [] s.taint c ++ ((s.regions.filterMap (fun x => x.2.bind (fun r => if some r.key = key then some r.rid else none))))).eraseDups)))
          else Act.none
        Act.all [discardWork n, placeContext n p (body.drop (body.length - kept)),
          fun t => [.slot n { t.slot n with
            seed := BitVec.ofNat 64 (fieldLE b 8 8 + fieldLE b 16 8)
            advance := BitVec.ofNat 64 (fieldLE b 16 8)
            epoch := if (t.slot n).run.isSome then (t.slot n).epoch else (t.slot n).epoch + 1
            run := some (restoredRun t h n p (b.take 128) body lanes) }],
          sealedTaint,
          complete h (if fieldLE b 24 8 = s.tables.active.ident then Reply.of stDone else { Reply.of stDone with detail := 0x10 })] s)

/-- RESTORE_CONTEXT (R282). -/
def restoreCommand (h : Hdr) (addr len : Dword) (slot toDev : Byte) : Act := fun s =>
  if len = 0 then finish h stDone s
  else if 15 < slot.toNat ∨ (s.slot slot.toNat).plan.isNone = true then badField h 48 s
  else if 1 < toDev.toNat then badField h 49 s
  else if toDev = 0 then (if dmaStopped s h then [] else restoreBytes h slot (hostData s h addr.toNat len.toNat) s)
  else match target s 32 addr len.toNat with
    | .refused r => complete h r s
    | .here a => Act.all [blurDraw, meetRange a len.toNat, restoreBytes h slot (memBytes s.blur a len.toNat)] s
    | .remote d a => readRemote (.restoreContext h addr len slot toDev) d [] a len.toNat s

def execRestoreContext (h : Hdr) (addr len : Dword) (slot target : Byte) (s : State) : Host.Outcome State Fault Refusal :=
  (command h false (restoreCommand h addr len slot target)).run s

end Sys2Proof.Machine
end

