-- ==== Sys2Proof/Machine/Packets.lean ====
section
/-! DEFINITION. Sys2Proof/Machine/Packets.lean: command packets: their header and parameters (R286, R292), the checks of R287, and the
command that a packet names. -/
namespace Sys2Proof.Machine

/-! ### The table of opcodes (R292) -/

/-- A row of the table of opcodes: opcode, packet length in bytes, and offset and size of each parameter. -/
structure OpRow where
  code : Nat
  length : Nat
  params : List (Nat × Nat)
  deriving DecidableEq, Repr

/-- The opcodes (R292). -/
def opRows : List OpRow := [
  ⟨0x0000, 32, []⟩, ⟨0x0001, 48, [(0, 8)]⟩, ⟨0x0002, 80, [(0, 8), (8, 4), (16, 32)]⟩, ⟨0x0003, 48, [(0, 8), (8, 4)]⟩,
  ⟨0x0100, 64, [(0, 8), (8, 8), (16, 8)]⟩, ⟨0x0101, 64, [(0, 8), (8, 8), (16, 8)]⟩, ⟨0x0102, 64, [(0, 8), (8, 8), (16, 8)]⟩,
  ⟨0x0103, 64, [(0, 8), (8, 8), (16, 8)]⟩, ⟨0x0104, 64, [(0, 8), (8, 8), (16, 8), (24, 1)]⟩, ⟨0x0105, 48, [(0, 8)]⟩,
  ⟨0x0106, 48, [(0, 8), (8, 4), (12, 1)]⟩,
  ⟨0x0200, 48, [(0, 8), (8, 4), (12, 1)]⟩, ⟨0x0201, 48, [(0, 1)]⟩, ⟨0x0202, 64, [(0, 8), (8, 8), (16, 1), (17, 1)]⟩,
  ⟨0x0203, 64, [(0, 8), (8, 8), (16, 1), (17, 1)]⟩,
  ⟨0x0300, 48, [(0, 1), (1, 1)]⟩, ⟨0x0301, 48, [(0, 1)]⟩, ⟨0x0302, 48, [(0, 1)]⟩, ⟨0x0303, 48, [(0, 1)]⟩, ⟨0x0304, 48, [(0, 1)]⟩,
  ⟨0x0400, 48, [(0, 2), (4, 4)]⟩, ⟨0x0401, 48, [(0, 2), (4, 4)]⟩, ⟨0x0402, 48, [(0, 2), (4, 4)]⟩, ⟨0x0403, 48, [(0, 2)]⟩,
  ⟨0x0500, 48, [(0, 8), (8, 4)]⟩, ⟨0x0501, 48, [(0, 4), (4, 4), (8, 8)]⟩, ⟨0x0502, 48, [(0, 4), (4, 4), (8, 8)]⟩, ⟨0x0503, 48, [(0, 4)]⟩,
  ⟨0x0504, 48, [(0, 4), (4, 4), (8, 8)]⟩,
  ⟨0x0600, 48, [(0, 1), (4, 4), (8, 8)]⟩, ⟨0x0601, 48, [(0, 4), (8, 8)]⟩, ⟨0x0602, 48, [(0, 1)]⟩, ⟨0x0603, 32, []⟩,
  ⟨0x0700, 48, [(0, 8), (8, 4)]⟩, ⟨0x0701, 48, [(0, 1)]⟩, ⟨0x0702, 64, [(0, 1), (8, 8), (16, 8)]⟩,
  ⟨0x0800, 48, [(0, 4), (4, 4), (8, 8)]⟩, ⟨0x0801, 48, [(0, 4), (4, 4), (8, 8)]⟩, ⟨0x0802, 48, [(0, 4), (4, 4)]⟩,
  ⟨0x0900, 48, [(0, 8), (8, 4), (12, 4)]⟩, ⟨0x0901, 48, [(0, 4)]⟩, ⟨0x0A00, 48, [(0, 2)]⟩, ⟨0x0A01, 48, [(0, 4)]⟩]

/-- The row of an opcode. -/
def opRow (code : Nat) : Option OpRow := opRows.find? (fun r => r.code == code)

/-- Offsets at which a run of reserved bytes begins, with its length (R6, R292). -/
def OpRow.reserved (r : OpRow) : List (Nat × Nat) :=
  let used (i : Nat) : Bool := r.params.any (fun p => decide (32 + p.1 ≤ i) && decide (i < 32 + p.1 + p.2))
  ((List.range r.length).filter (fun i => decide (32 ≤ i) && !used i && (i == 32 || used (i - 1)))).map (fun i =>
    (i, ((List.range (r.length - i)).takeWhile (fun k => !used (i + k))).length))

/-! ### Checks (R287) -/

/-- Wrong fields of the header: offsets (R286, R287). -/
def headerFaults (b : List Byte) : List Nat :=
  let flags := fieldLE b 3 1
  let hook (on : Bool) (ho vo : Nat) : List Nat :=
    let k := fieldLE b ho 2
    let v := fieldLE b vo 4
    (if on then (if k < 64 ∨ 0xFFF < k then [ho] else []) else (if k ≠ 0 then [ho] else []))
      ++ (if on then (if v = 0 then [vo] else []) else (if v ≠ 0 then [vo] else []))
  (if fieldLE b 2 1 ≠ 1 then [2] else []) ++ (if 31 < flags then [3] else []) ++ (if fieldLE b 6 2 ≠ 0 then [6] else [])
    ++ hook (bit flags 0) 12 16 ++ hook (bit flags 1) 14 20

/-- Device addresses of a packet, with the number of their bits: domain addresses, and the local bases of sealed regions (R68, R292). -/
def addressParams (code : Nat) (b : List Byte) : List (Nat × Nat) :=
  match code with
  | 0x0100 => [(32, 52)]
  | 0x0101 => [(32, 52)]
  | 0x0102 => [(32, 52)]
  | 0x0103 => [(32, 52), (40, 52)]
  | 0x0104 => [(32, 40)]
  | 0x0105 => [(32, 40)]
  | 0x0202 => if fieldLE b 49 1 = 1 then [(32, 52)] else []
  | 0x0203 => if fieldLE b 49 1 = 1 then [(32, 52)] else []
  | _ => []

/-- Wrong parameters that step 3 of R287 names: reserved bytes, reserved bits of device addresses (R68), and the hook number of a hook
command. -/
def paramFaults (r : OpRow) (b : List Byte) : List Nat :=
  ((addressParams r.code b).filter (fun x => decide (2 ^ x.2 ≤ fieldLE b x.1 8))).map (·.1) ++
  (r.reserved.filter (fun x => !allZero (slice b x.1 x.2))).map (·.1)
    ++ (if r.code / 256 = 4 ∧ (0xFFF < fieldLE b 32 2 ∨ (r.code ≠ 0x0403 ∧ fieldLE b 32 2 < 64)) then [32] else [])

/-- Wrong parameters that R294 names: the slot and the mark source of run control. -/
def runFaults (s : State) (code : Nat) (b : List Byte) : List Nat :=
  if code / 256 = 3 ∧ code ≠ 0x0304 then
    (if 15 < fieldLE b 32 1 ∨ (s.slot (fieldLE b 32 1)).plan.isNone = true then [32] else [])
      ++ (if code = 0x0300 ∧ 7 < fieldLE b 33 1 ∧ fieldLE b 33 1 ≠ 0xFF then [33] else [])
  else []

/-- The smallest number of a list. -/
def least : List Nat → Nat
  | [] => 0
  | [x] => x
  | x :: l => min x (least l)

/-- The checks of R287, in their order: the reply of a packet that fails one. -/
def packetRefused (s : State) (b : List Byte) : Option Reply :=
  match opRow (fieldLE b 0 2) with
  | none => some (Reply.of stBadOpcode)
  | some r =>
    if 16 * fieldLE b 4 2 ≠ r.length then some (Reply.of stBadLength)
    else
      let wrong := headerFaults b ++ paramFaults r b
      if wrong.isEmpty then none else some (Reply.badField (least (wrong ++ runFaults s r.code b)))

/-! ### The command of a packet (R286, R292) -/

/-- The header of a packet of a chute. -/
def packetHdr (port : PortId) (chute : Fin 64) (epoch : Nat) (partner : Option Dword) (b : List Byte) : Hdr :=
  let flags := fieldLE b 3 1
  { port := port
    chute := chute
    seq := BitVec.ofNat 32 (fieldLE b 8 4)
    tag := BitVec.ofNat 64 (fieldLE b 24 8)
    interrupt := bit flags 4
    ordered := bit flags 3
    replyOnErrorOnly := bit flags 2
    signal := bit flags 1
    signalHook := BitVec.ofNat 12 (fieldLE b 14 2)
    signalInc := BitVec.ofNat 32 (fieldLE b 20 4)
    epoch := epoch
    partner := partner }

/-- Hook and amount that a packet acquires before it starts (R288). -/
def packetWait (b : List Byte) : Option (Nat × Word) :=
  if bit (fieldLE b 3 1) 0 then some (fieldLE b 12 2, BitVec.ofNat 32 (fieldLE b 16 4)) else none

/-- What a packet that has passed R287 names: a command, or the reply that its control or tag block calls for. -/
inductive Parsed where
  | command (i : Instr)
  | refused (r : Reply)
  deriving DecidableEq, Repr

/-- STREAM_CONTROL by its block (R371): a block of another length, or with a field that breaks the layout, is BAD_PARAMETER. -/
def parseControl (h : Hdr) (sid len : Word) (b : List Byte) : Parsed :=
  let bad : Parsed := .refused (Reply.of stBadParameter)
  if len = 0 then .refused (Reply.of stDone)
  else if len.toNat ≠ 32 then .refused (Reply.badField 36)
  else if fieldLE b 0 2 ≠ 1 then bad
  else match fieldLE b 2 1 with
    | 0 => .command (.ringHead h sid (BitVec.ofNat 64 (fieldLE b 8 8)))
    | 1 => .command (.rate h sid (BitVec.ofNat 32 (fieldLE b 8 4)) (BitVec.ofNat 32 (fieldLE b 12 4))
        (BitVec.ofNat 32 (fieldLE b 16 4)) (BitVec.ofNat 16 (fieldLE b 20 2)) (BitVec.ofNat 16 (fieldLE b 22 2)))
    | 2 => .command (.forceKey h sid)
    | 3 => .command (.flush h sid)
    | 4 => .command (.rebind h sid (BitVec.ofNat 8 (fieldLE b 8 1)) (BitVec.ofNat 8 (fieldLE b 9 1)))
    | _ => bad

/-- RACK_MARK by its block (R359). -/
def parseTag (h : Hdr) (sid len : Word) (b : List Byte) : Parsed :=
  let bad : Parsed := .refused (Reply.of stBadParameter)
  let buf : Half := BitVec.ofNat 16 (fieldLE b 4 2)
  let lt : Byte := BitVec.ofNat 8 (fieldLE b 3 1)
  if len = 0 then .refused (Reply.of stDone)
  else if len.toNat ≠ 16 then .refused (Reply.badField 36)
  else if fieldLE b 0 2 ≠ 1 ∨ 7 < fieldLE b 3 1 ∨ allZero (slice b 6 10) = false then bad
  else match fieldLE b 2 1 with
    | 0 => .command (.hold h sid buf)
    | 1 => .command (.unhold h sid buf)
    | 2 => .command (.releaseOut h sid buf)
    | 3 => .command (.setLong h sid buf lt)
    | 4 => .command (.clearLong h sid buf lt)
    | _ => bad

/-- The command of a packet that has passed R287; `blk a n` are host bytes. -/
def parsePacket (h : Hdr) (b : List Byte) (blk : Nat → Nat → List Byte) : Parsed :=
  let b1 (o : Nat) : Byte := BitVec.ofNat 8 (fieldLE b (32 + o) 1)
  let b2 (o : Nat) : Half := BitVec.ofNat 16 (fieldLE b (32 + o) 2)
  let b4 (o : Nat) : Word := BitVec.ofNat 32 (fieldLE b (32 + o) 4)
  let b8 (o : Nat) : Dword := BitVec.ofNat 64 (fieldLE b (32 + o) 8)
  match fieldLE b 0 2 with
  | 0x0000 => .command (.nop h)
  | 0x0001 => .command (.identify h (b8 0))
  | 0x0002 => .command (.attest h (b8 0) (b4 8) (BitVec.ofNat 256 (fieldLE b 48 32)))
  | 0x0003 => .command (.inventory h (b8 0) (b4 8))
  | 0x0100 => .command (.writeMem h (b8 0) (b8 8) (b8 16))
  | 0x0101 => .command (.readMem h (b8 0) (b8 8) (b8 16))
  | 0x0102 => .command (.fillMem h (b8 0) (b8 8) (b8 16))
  | 0x0103 => .command (.copyMem h (b8 0) (b8 8) (b8 16))
  | 0x0104 => .command (.sealRegion h (b8 0) (b8 8) (b8 16) (b1 24))
  | 0x0105 => .command (.unsealRegion h (b8 0))
  | 0x0106 => .command (.installKey h (b8 0) (b4 8) (b1 12))
  | 0x0200 => .command (.loadPlan h (b8 0) (b4 8) (b1 12))
  | 0x0201 => .command (.unloadPlan h (b1 0))
  | 0x0202 => .command (.saveContext h (b8 0) (b8 8) (b1 16) (b1 17))
  | 0x0203 => .command (.restoreContext h (b8 0) (b8 8) (b1 16) (b1 17))
  | 0x0300 => .command (.run h (b1 0) (b1 1))
  | 0x0301 => .command (.pause h (b1 0))
  | 0x0302 => .command (.resume h (b1 0))
  | 0x0303 => .command (.abort h (b1 0))
  | 0x0304 => .command (.mark h (b1 0))
  | 0x0400 => .command (.hookAcquire h (b2 0) (b4 4))
  | 0x0401 => .command (.hookRelease h (b2 0) (b4 4))
  | 0x0402 => .command (.hookSet h (b2 0) (b4 4))
  | 0x0403 => .command (.hookRead h (b2 0))
  | 0x0500 => .command (.streamOpen h (b8 0) (b4 8))
  | 0x0501 => .command (.streamSubmit h (b4 0) (b4 4) (b8 8))
  | 0x0502 => parseControl h (b4 0) (b4 4) (blk (b8 8).toNat 32)
  | 0x0503 => .command (.streamClose h (b4 0))
  | 0x0504 => parseTag h (b4 0) (b4 4) (blk (b8 8).toNat 16)
  | 0x0600 => .command (.linkConfigure h (b1 0) (b4 4) (b8 8))
  | 0x0601 => .command (.domainJoin h (b4 0) (b8 8))
  | 0x0602 => .command (.twinBind h (b1 0))
  | 0x0603 => .command (.twinRelease h)
  | 0x0700 => .command (.tableLoad h (b8 0) (b4 8))
  | 0x0701 => .command (.tableSelect h (b1 0))
  | 0x0702 => .command (.seedStreams h (b1 0) (b8 8) (b8 16))
  | 0x0800 => .command (.ledgerRead h (b4 0) (b4 4) (b8 8))
  | 0x0801 => .command (.counterRead h (b4 0) (b4 4) (b8 8))
  | 0x0802 => .command (.counterClear h (b4 0) (b4 4))
  | 0x0900 => .command (.firmwareStage h (b8 0) (b4 8) (b4 12))
  | 0x0901 => .command (.firmwareCommit h (b4 0))
  | 0x0A00 => .command (.resetFunction h (b2 0))
  | _ => .command (.resetDevice h (b4 0))

end Sys2Proof.Machine
end

