-- ==== Sys2Proof/Machine/Remote.lean ====
section
/-! DEFINITION. Sys2Proof/Machine/Remote.lean: remote accesses that links bring and answer (R329, R330), and host reads that
fail (R417). -/
namespace Sys2Proof.Machine

/-! ### What waits for answers -/

/-- Restarts of its job while a SAVE_CONTEXT ran (R291, R384): as its context was written, or so far. -/
def savedRestarts (s : State) (h : Hdr) : Nat :=
  match s.saves.find? (fun x => decide (x.1 = h)) with
  | some x => x.2
  | none => ((s.slots.filterMap (fun x => x.2.run.bind (fun q => q.saving.bind (fun v =>
      if v.hdr = h then some (q.restarts - v.restarts) else none)))).head?).getD 0

/-- A SAVE_CONTEXT is over. -/
def dropSave (h : Hdr) : Act := fun s => [.saves (s.saves.filter (fun x => decide (x.1 ≠ h)))]

/-- A command whose remote accesses have all been answered goes on, or completes (R329, R330). -/
def commandStep (i : Instr) : Act := fun s =>
  let own := XferOwner.command i
  let xs := s.xfers.filter (fun x => decide (x.owner = own))
  if xs.isEmpty || !xs.all (·.done) then []
  else match i with
    | .writeMem h _ _ _ => Act.seq (dropXfers own) (complete h (remoteReply xs (Reply.of stDone))) s
    | .fillMem h _ _ _ => Act.seq (dropXfers own) (complete h (remoteReply xs (Reply.of stDone))) s
    | .readMem h dev host _ =>
      Act.all [Act.each (fun x => if x.refused.isSome then Act.none
          else toHost h (host.toNat + (x.addr - localPart dev.toNat)) x.got) xs,
        dropXfers own, complete h (remoteReply xs (Reply.of stDone))] s
    | .saveContext h _ _ _ _ => let n := (xs.map (·.length)).sum
      Act.all [dropXfers own, dropSave h, complete h { remoteReply xs (Reply.done (n % 2 ^ 32) (n / 2 ^ 32) 0) with
        restarts := savedRestarts s h }] s
    | .restoreContext h addr len slot _ =>
      let bs := memBytes (overlay s xs) (localPart addr.toNat) len.toNat
      Act.seq (dropXfers own) (if xs.any (·.refused.isSome) then complete h (remoteReply xs (Reply.of stDone))
        else restoreBytes h slot bs) s
    | .copyMem h src dst len => memCommand i (copyStep h src dst len (target s 32 src len.toNat) (target s 40 dst len.toNat)) s
    | _ => []

/-- A command whose data or accesses are in flight ends with a status; a run that a SAVE_CONTEXT has stopped goes on as after any save that
does not complete (R280, R303, R333). -/
def endCommandXfers (status : Nat) (i : Instr) : Act :=
  Act.seq (dropXfers (.command i)) (match instrHdr i with
    | some h => fun s => Act.all [dropSave h, Act.each (fun n => setRun n (fun q =>
        if q.saving.any (fun v => decide (v.hdr = h)) then { q with saving := none } else q)) (List.range 16),
        complete h { Reply.of status with restarts := savedRestarts s h }] s
    | none => Act.none)

/-- What an access belongs to goes on. -/
def resumeOwner : XferOwner → Act
  | .command i => commandStep i
  | .record slot r => moveStep slot.val r

/-! ### Accesses that reach this device (R330) -/

/-- Whether a message is for this device; another member's is passed on (R332). -/
def forMe (s : State) (m : Msg) : Bool := m.dst.toNat == deviceNumber s

/-- The cause for which an access is refused, if it is: false for its address, true for sealing (R330). -/
def accessRefused (s : State) (m : Msg) : Option Bool :=
  let a := m.addr.toNat
  let n := m.length.toNat
  if !rangeOk s a n || touchesTaint s a then some false
  else if m.sealed then
    match (wholeRegion s a n).bind (fun r => s.key r.key) with
    | some k => if k.keyId = m.keyId then none else some true
    | none => some true
  else if anySealed s a n then some true
  else none

/-- An answer to the sender of a message (R328, R330). -/
def answerMsg (s : State) (kind : Nat) (m : Msg) (refused : Option Bool) (again : Bool) (bs : List Byte) : Msg :=
  ⟨false, refused.isSome, refused == some true, BitVec.ofNat 16 bs.length, BitVec.ofNat 12 (deviceNumber s), m.src,
    if kind = 3 then m.addr else 0, m.xid, 0, bs, [], 0, again⟩

/-- An answer goes back, sealed under a key slot where one is given; one whose key may carry no more is a refusal (R86). -/
def answer (kind : Nat) (m : Msg) (refused : Option Bool) (bs : List Byte) (key : Option Nat) : Act := fun s =>
  sendSealed 1 kind (answerMsg s kind m refused false bs) key (send (.mem kind (answerMsg s kind m (some true) false []))) s

/-- A sealed message whose tag fails is dropped, and its sender asked for it once more, by an ACK (R86, R329, notes/assumptions/17.md). -/
def askAgain (port : LinkId) (m : Msg) : Act :=
  Act.seq (tagFailure port) (fun s => send (.mem 4 (answerMsg s 4 m none true [])) s)

/-- A message that is not for this device is passed on (R332); its bytes leave the receive buffer (R325). -/
def forHere (port : LinkId) (kind : Nat) (m : Msg) (a : Act) : Act :=
  Act.seq (takeMessage port (.mem kind m)) (fun s => if forMe s m then a s else relay port (.mem kind m) s)

/-- The bytes of a message: opened under the key that it names (R86). -/
def messageBytes (s : State) (m : Msg) : Option (List Byte) :=
  if m.sealed then (keyById s m.keyId).bind (fun k => openMsg k.2 m) else some m.data

/-- WRITE (R330): the access is checked, the bytes are written, and an ACK answers. -/
def execWrite (port : LinkId) (m : Msg) (s : State) : Host.Outcome State Fault Refusal :=
  (forHere port 1 m (fun s =>
    let a := m.addr.toNat
    let n := m.length.toNat
    match accessRefused s m with
    | some c => answer 4 m (some c) [] none s
    | none =>
      match messageBytes s m with
      | none => askAgain port m s
      | some bs =>
        let bad := badStore s m.sealed a n
        if !bad.isEmpty then Act.seq (Act.each (fun v => meetRange v 8) bad) (answer 4 m (some false) [] none) s
        else Act.seq (otherWrite (touchRange true a n) (planStore m.sealed a bs)) (answer 4 m none [] none) s)).run s

/-- READ (R330): the access is checked, and one DATA message answers. -/
def execRead (port : LinkId) (m : Msg) (s : State) : Host.Outcome State Fault Refusal :=
  (forHere port 2 m (fun s =>
    let a := m.addr.toNat
    let n := m.length.toNat
    match accessRefused s m with
    | some c => answer 3 m (some c) [] none s
    | none =>
      if (messageBytes s m).isNone then askAgain port m s
      else
        let ts := touchRange false a n
        Act.all [seenDraw ts, meetRange a n,
          answer 3 m none (planBytes (seen s ts) m.sealed a n) (if m.sealed then rangeKey s a else none)] s)).run s

/-- The access that a message answers. -/
def answered (s : State) (m : Msg) (isRead : Bool) : Option Xfer :=
  s.xfers.find? (fun x => x.xid == m.xid && x.isRead == isRead && !x.done && x.device == m.src.toNat)

/-- An access ends as refused. -/
def endAccess (x : Xfer) (sealing : Bool) : Act :=
  Act.seq (setXfer { x with done := true, refused := some sealing }) (resumeOwner x.owner)

/-- An access whose message, or whose answer, fails its tag is sent once more; the failures of the message (`own`) and of its answer count
apart. A second failure of one of them escapes: the job of a record restarts
(R380, JOB_RESTART); of a command the spec names no consequence, and it ends as where no route is left (notes/assumptions/17.md). -/
def retryAccess (own : Bool) (x : Xfer) : Act :=
  let y := if own then { x with tagFails := x.tagFails + 1 } else { x with dataFails := x.dataFails + 1 }
  Act.seq (setXfer y) (if y.tagFails ≤ 1 ∧ y.dataFails ≤ 1 then sendAccess y else match x.owner with
    | .command _ => endAccess y false
    | .record _ _ => Act.none)

/-- DATA (R329, R330): bytes of a read, or its refusal. -/
def execData (port : LinkId) (m : Msg) (s : State) : Host.Outcome State Fault Refusal :=
  (forHere port 3 m (fun s =>
    match answered s m true with
    | none => []
    | some x =>
      if m.refused then
        match m.causeSealing, x.tries with
        | true, k :: ks => let y := { x with key := some k, tries := ks }
          Act.seq (setXfer y) (sendAccess y) s
        | c, _ => endAccess x c s
      else if m.sealed && (keyById s m.keyId).isNone then endAccess x true s
      else match messageBytes s m with
        | none => Act.seq (tagFailure port) (retryAccess false x) s
        | some bs =>
          let parts := (x.parts.filter (fun y => y.1 != m.addr.toNat)) ++ [(m.addr.toNat, bs)]
          let whole := (List.range x.length).all (fun i => parts.any (fun y => decide (y.1 ≤ x.addr + i) && decide (x.addr + i < y.1 + y.2.length)))
          Act.seq (setXfer { x with parts := parts, done := whole }) (resumeOwner x.owner) s)).run s

/-- ACK (R329, R330): a remote write is complete, or refused; or a message is asked for again. -/
def execAck (port : LinkId) (m : Msg) (s : State) : Host.Outcome State Fault Refusal :=
  (forHere port 4 m (fun s =>
    if m.again then (match (answered s m false).or (answered s m true) with
      | some x => retryAccess true x s
      | none => [])
    else match answered s m false with
    | none => []
    | some x =>
      if m.refused then endAccess x m.causeSealing s
      else Act.seq (setXfer { x with done := true }) (resumeOwner x.owner) s)).run s

/-! ### Failed host reads (R417) -/

/-- The started packet of a header. -/
def startedOf (s : State) (h : Hdr) : Option Instr := s.started.find? (fun i => decide (instrHdr i = some h) && (match i with
  | .hostDataReadFailed _ _ => false
  | _ => true))

/-- Host address and length that a command reads (R292), and where WRITE_MEM's bytes go. -/
def hostReads : Instr → Option (Nat × Nat)
  | .writeMem _ _ host len => some (host.toNat, len.toNat)
  | .installKey _ host len _ => some (host.toNat, len.toNat)
  | .loadPlan _ host len _ => some (host.toNat, len.toNat)
  | .restoreContext _ addr len _ target => if target = 0 then some (addr.toNat, len.toNat) else none
  | .streamOpen _ host len => some (host.toNat, len.toNat)
  | .streamSubmit _ _ len host => some (host.toNat, len.toNat)
  | .linkConfigure _ _ len host => some (host.toNat, len.toNat)
  | .domainJoin _ len host => some (host.toNat, len.toNat)
  | .tableLoad _ host len => some (host.toNat, len.toNat)
  | .firmwareStage _ host _ len => some (host.toNat, len.toNat)
  | _ => none

/-- Commands whose packet names a control block in host memory (R359, R371). -/
def readsBlock : Instr → Bool
  | .ringHead _ _ _ => true
  | .rate _ _ _ _ _ _ _ => true
  | .forceKey _ _ => true
  | .flush _ _ => true
  | .rebind _ _ _ _ => true
  | .hold _ _ _ => true
  | .unhold _ _ _ => true
  | .releaseOut _ _ _ => true
  | .setLong _ _ _ _ => true
  | .clearLong _ _ _ _ => true
  | _ => false

/-- The stream in whose queue a decode submit waits with a bitstream in host memory that is not read yet, its address and its length
(R364). -/
def queuedRead (s : State) (h : Hdr) : Option (Nat × Nat × Nat) :=
  s.streams.findSome? (fun x => if x.2.desc.dir = 1 then
    (x.2.queue.find? (fun q => decide (q.hdr = h) && !bit q.flags 1)).map (fun q => (x.1, q.source, q.length)) else none)

/-- Whether a command's host data have moved and it waits for something else: a table switch, the domain, a frame. -/
def dataMoved (s : State) (h : Hdr) : Bool :=
  s.tables.command == some h || s.joining.any (fun x => x.1 == h)
    || s.streams.any (fun x => x.2.queue.any (fun q => q.hdr == h) || x.2.frame.any (fun f => f.sub.hdr == h))

/-- HOST_DATA_READ_FAILED (R417): the command stops and completes with BAD_ADDRESS, a decode submit that still waits in its stream's queue
too. How many of the bytes before the failing address WRITE_MEM has moved is not stated: a free number of them (notes/assumptions/6.md). -/
def execHostDataReadFailed (h : Hdr) (host : Dword) (s : State) : Host.Outcome State Fault Refusal :=
  Act.run (fun s =>
    match startedOf s h with
    | none => []
    | some i =>
      let failed : Act := complete h ⟨stBadAddress, 0, host.toNat % 2 ^ 32, host.toNat / 2 ^ 32, 0, false, 0⟩
      match queuedRead s h, hostReads i with
      | some (k, a, n), _ =>
        if host.toNat < a ∨ a + n ≤ host.toNat then []
        else Act.seq (Act.of [.stream k { s.stream k with queue := (s.stream k).queue.filter (fun q => decide (q.hdr ≠ h)) }]) failed s
      | none, none => if readsBlock i then failed s else []
      | none, some (a, n) =>
        if host.toNat < a ∨ a + n ≤ host.toNat ∨ dataMoved s h = true then []
        else
          let moved : Act := match i with
            | .writeMem _ dev b len => (match target s 32 dev len.toNat with
              | .here d => Act.seq (Act.of [.fresh])
                  (storeMem d (hostData s h b.toNat (Config.free s.free % (host.toNat - a + 1))))
              | _ => Act.none)
            | _ => Act.none
          Act.all [moved, dropXfers (.command i), failed] s) s

end Sys2Proof.Machine
end

