-- ==== Sys2Proof/Machine/Marks.lean ====
section
/-! DEFINITION. Sys2Proof/Machine/Marks.lean: the eight mark sources (R308, R309), and marks as bound runs and streams see them (R310
to R312, R314). -/
namespace Sys2Proof.Machine

/-- An accepted mark: the source's period sequence number advances, and every run and stream bound to it sees the mark (R309 to
R311). -/
def acceptMark (src : Nat) : Act := fun s =>
  let seq := s.mark src + 1
  Act.all [Act.of [.mark src seq], bumpAct (srcMark src) 0 1,
    Act.each (fun n => markRun n (Fin.ofNat 8 src) seq) (List.range 16), markStreams src seq] s

/-- MARK (R292, R309): sources 4 to 7. -/
def execMark (h : Hdr) (src : Byte) (s : State) : Host.Outcome State Fault Refusal :=
  (command h false (
    let m := src.toNat
    if m < 4 ∨ 7 < m then badField h 32
    else Act.seq (acceptMark m) (fun s => done3 h (s.mark m).toNat 0 0 s))).run s

/-- One of the items that satisfy `p` is removed. -/
def dropFirst {α : Type} (p : α → Bool) : List α → List α
  | [] => []
  | x :: l => if p x then l else x :: dropFirst p l

/-- A mark that one twin of a pair has seen, at the orderer: it takes its place in the order once both have (R314). -/
def orderMark (src : Nat) (own : Bool) : Act := fun s =>
  let t := s.twin
  if t.marksSeen.contains (src, !own) then
    Act.all [Act.of [.twin { t with marksSeen := dropFirst (· == (src, !own)) t.marksSeen }], giveNumber (.mark src), acceptMark src] s
  else [.twin { t with marksSeen := t.marksSeen ++ [(src, own)] }]

/-- A mark at its place in the order, at the follower (R314). -/
def agreedMark (src : Nat) : Act := fun s =>
  Act.seq (Act.of [.twin { s.twin with marksSeen := dropFirst (· == (src, true)) s.twin.marksSeen }]) (acceptMark src) s

/-- The own marks that a partner that has left will not order take effect (R314, R395). -/
def leftMarks : Act := fun s =>
  if !s.twin.partnerOut then []
  else Act.seq (Act.of [.twin { s.twin with marksSeen := [] }])
    (Act.each (fun x => acceptMark x.1) (s.twin.marksSeen.filter (·.2))) s

/-- PERIOD_MARK (R308): an edge of MARK_IN after `low` samples read low and before `high` samples read high is a mark where both
numbers are at least 4, and counts in MARK_GLITCH otherwise. -/
def execPeriodMark (src : Fin 4) (low high : Nat) (s : State) : Host.Outcome State Fault Refusal :=
  Act.run (fun s =>
    if !clocked s then []
    else if low < 4 ∨ high < 4 then bumpAct (srcMark src.val) 1 1 s
    else if s.paired && orderer s then orderMark src.val true s
    else if s.paired then Act.seq (Act.of [.twin { s.twin with marksSeen := s.twin.marksSeen ++ [(src.val, true)] }])
      (sendTwin 6 src.val []) s
    else acceptMark src.val s) s

end Sys2Proof.Machine
end

