-- ==== Sys2Proof/Machine/Links.lean ====
section
/-! DEFINITION. Sys2Proof/Machine/Links.lean: link ports: states (R334), flits as they arrive (R321, R322, R325, R326), lanes (R323, R324),
LINK_CONFIGURE (R335), DOMAIN_JOIN (R336, R337) and the loss of the twin link (R396). -/
namespace Sys2Proof.Machine

/-! ### States -/

/-- Codes of the states, in table order (R335). -/
def LinkState.code : LinkState → Nat
  | .disabled => 0
  | .training => 1
  | .verify => 2
  | .up => 3
  | .down => 4

/-- Every unacknowledged flit after SEQ `after` is sent again, in SEQ order (R322). -/
def replayAfter (p : Nat) (after : Option Half) : Act := fun s =>
  let l := s.link p
  let fs := l.replay.filter (fun x => !after.any (seqUpTo x.seq))
  let l' := fs.foldl (fun a x => a.emit x.seq.toNat x.vc 0 x.body) l
  let n := fs.length
  if n = 0 ∨ clocked s = false then [] else [.link p l', .count (counterId (srcLink p) 0) n, .count (counterId (srcLink p) 1) n]

/-- Every unacknowledged flit is sent again (R322). -/
def replayPort (p : Nat) : Act := replayAfter p none

/-- Commands with a remote access under way to a device that no route reaches any more complete with BAD_ADDRESS, and jobs with work in
flight to one end as where a member that they need is out of reach (R333, R389). -/
def loseRoutes : Act := fun s =>
  let lost (x : Xfer) : Bool := !x.done && !reachable s x.device
  let jobs := (List.range 16).filter (fun n => (s.slot n).run.any (·.active)
    && (s.xfers.any (fun x => lost x && (match x.owner with
          | .record m _ => m.val == n
          | .command _ => false))
      || ((s.slot n).run.any (fun q => !q.collectives.isEmpty)
        && (s.slot n).plan.any (fun v => (v.memberSets.flatMap (·.members)).any (fun d => d != deviceNumber s && !reachable s d)))))
  Act.seq (Act.each (endCommandXfers stBadAddress) ((s.xfers.filterMap (fun x => match x.owner with
      | .command i => if lost x then some i else none
      | .record _ _ => none)).eraseDups))
    (Act.each (fun n => degrade n 3) jobs) s

/-- A port changes its state; each change writes a ledger record (R334). One that is UP takes what waits for a route, and sends its
unacknowledged flits again (R322, R333); what one that leaves UP holds goes another way. -/
def linkTo (p : Nat) (x : LinkState) : Act := fun s =>
  let l := s.link p
  if l.state = x then []
  else Act.seq (Act.of [.link p { l with state := x }, .ledger 0x0400 (srcLink p) (toLE 1 l.state.code ++ toLE 1 x.code)])
    (match x with
      | .up => Act.all [replayPort p, pumpPort p false, routeHeld]
      | _ => if l.state = .up then Act.seq (rerouteFrom p) loseRoutes else Act.none) s

/-- What a port reset or a disabled port discards: replay buffer, credits and flits in flight (R303). DESIGN CHOICE: the flit counts of
R320 go on from where they are, since no rule starts them anew; the two ends then count alike only if no flit was on its way
(notes/assumptions/17.md). -/
def Link.cleared (l : Link) : Link :=
  { l with
    txSeq := 0
    rxSeq := 0
    replay := []
    nak := false
    resent := false
    ackValid := false
    credits := Link.reset.credits
    owedCredits := Link.reset.owedCredits
    lent := []
    waiting := []
    rx := []
    control := []
    controlSent := []
    leaving := []
    controlGap := Link.reset.controlGap
    shares := Link.reset.shares
    looped := []
    testing := []
    retuning := none
    identityOk := none
    retrainFailed := false }

/-- Good lanes that a port may use. -/
def Link.goodLanes (l : Link) : Nat := ((List.range 8).filter (fun i => l.laneMask.getLsbD i && !l.retired.getLsbD i)).length

/-- An enabled port starts training, unless it is sheeted (R323, R334). -/
def trainPort (p : Nat) : Act := fun s =>
  let l := s.link p
  if l.sheeted then [] else Act.seq (Act.of [.link p { l.cleared with enable := true }]) (linkTo p .training) s

/-- A port that is needed is enabled (R337, R391). -/
def enablePort (p : Nat) : Act := fun s => if (s.link p).enable then [] else trainPort p s

/-- A port is disabled (R335, R397); what waits there goes another way first (R333). -/
def disablePort (p : Nat) : Act :=
  Act.seq (linkTo p .disabled) (fun s => [.link p { (s.link p).cleared with enable := false }])

/-! ### Lanes (R323, R324) -/

/-- The body of the control flit that names a retired lane and the slot from which it carries nothing (R323; the layout is the model's,
notes/assumptions/17.md). -/
def retireBody (lane t0 : Nat) : List Byte := toLE 1 lane ++ toLE 8 t0

/-- Whether a port that has left UP has failed a retrain, or can make none (R376, R396). -/
def Link.lost (l : Link) : Bool := l.retrainFailed || l.sheeted

/-- A stepped-out twin without a link completes the packets that it had forwarded as it does every later one (R396,
notes/assumptions/17.md). -/
def strandTwin : Act := fun s =>
  if !s.twin.steppedOut then []
  else Act.seq (Act.of [.twin { s.twin with
      asked := []
      forwarded := [] }])
    (Act.each (fun f : Forwarded => replyEffs f.hdr ((f.partner.or f.own).getD (Reply.of stDegraded))) s.twin.forwarded) s

/-- What waits for a way to the partner is dropped. -/
def dropHeldTwin : Act := fun s => [.held (s.held.filter (fun r => r.msg.target != some 0xFFF))]

/-- The twin link is lost: twin B steps out where TWIN_SENSE is high, and the remaining twin continues alone otherwise (R396). -/
def twinLinkLost : Act := fun s =>
  let t := s.twin
  if !t.bound || t.linkLost || s.up 7 || s.up 15 || !(s.link 7).lost || !(s.link 15).lost then []
  else Act.seq (Act.of [.twin { t with linkLost := true }]) (Act.all [stepOutAct (s.power.twinSense && t.mode), strandTwin, leftMarks, dropHeldTwin]) s

/-- The slot count from which a lane that is retired now carries nothing: past every slot that either direction has taken, and far enough
for the control flits that wait (R323, R326; the margin is the model's, notes/assumptions/17.md). -/
def Link.retireSlot (l : Link) : Nat := max l.txCount l.rxCount + 16 * (l.control.length + 2)

/-- Idle flits up to slot `t0` (R326). -/
def Link.idleTo (ring : Bool) (t0 : Nat) : Nat → Link → Link
  | 0, l => l
  | n + 1, l => if t0 ≤ l.txCount then l else Link.idleTo ring t0 n (match l.slot ring with
      | some l' => l'
      | none => l.emit 0 0 2 [])

/-- The slots up to `t0` pass: what waits goes out in them, else idle flits do; then unacknowledged flits are sent again over the lanes that
are left (R323). -/
def restripe (p t0 : Nat) : Act := Act.all [pumpPort p false, fun s =>
    let l := s.link p
    if clocked s then
      [.link p (l.idleTo (ringPort s p) t0 (t0 - l.txCount)), .count (counterId (srcLink p) 0) (t0 - l.txCount)]
    else [],
  replayPort p]

/-- A lane is retired from slot count `t0` of both directions on: the end that finds the fault (`own`) names it to the other one, and both
stripe over the remaining lanes from there (R323). A port with too few lanes is DOWN, and one without a good lane is sheeted. A lane is a
unit of R376 that R379 counts. -/
def retireLinkLane (p i : Nat) (own : Bool) (t0 : Nat) : Act := fun s =>
  let l := s.link p
  let live := l.state == .up || l.state == .verify
  if l.retired.getLsbD i then []
  else
    let l1 := { l with
      retired := l.retired ||| BitVec.ofNat 8 (2 ^ i)
      retuning := if l.retuning.any (fun j => j.val == i) then none else l.retuning
      testing := l.testing.filter (· != i)
      leaving := if live then l.leaving ++ [(i, t0)] else l.leaving
      control := if own && live then l.control ++ [retireBody i t0] else l.control }
    Act.all [Act.of [.link p l1, .ledger 0x0401 (srcLink p) (toLE 1 i), sheetCount s],
      (if l1.retired = 0xFF then Act.seq (fun s => [.link p { s.link p with sheeted := true }, .ledger 0x0101 (srcLink p) (toLE 2 i ++ [1]),
          sheetCount s]) (Act.seq (linkTo p .down) twinLinkLost)
        else if l1.active.length < l1.minLanes then Act.when live (linkTo p .down)
        else Act.when live (restripe p t0))] s

/-- The end that finds a lane faulty retires it (R323). -/
def retireOwnLane (p i : Nat) : Act := fun s => retireLinkLane p i true (s.link p).retireSlot s

/-- A fault of a lane: the third within 2^24 flits retires it, and its PRBS retest follows (R323, R375). -/
def laneFault (p i : Nat) : Act := fun s =>
  let l := s.link p
  let h := Tab.look Health.reset l.laneHealth i
  Act.seq (Act.of [.link p { l with
      laneHealth := Tab.put Health.reset l.laneHealth i h.fault
      faulted := i :: l.faulted.filter (· != i)
      testing := i :: l.testing.filter (· != i) }])
    (if thirdFault h then retireOwnLane p i else Act.none) s

/-- LANE_SIGNAL_LOSS (R323). -/
def execLaneSignalLoss (port : LinkId) (lane : Fin 8) (s : State) : Host.Outcome State Fault Refusal :=
  Act.run (fun s =>
    if !clocked s || !(s.link port.val).enable || !(s.link port.val).laneMask.getLsbD lane.val then []
    else retireOwnLane port.val lane.val s) s

/-- Whether a lane is due for a retune: after 2^40 flits or more than 2^20 corrected symbols since its last one, and only after a fault
where RETUNE is 1 (R324). -/
def Link.retuneDue (l : Link) (i : Nat) : Bool :=
  if l.retune then l.faulted.contains i
  else decide (2 ^ 40 ≤ Tab.look 0 l.sinceRetune i) || decide (2 ^ 20 < Tab.look 0 l.corrected i)

/-- LANE_RETUNE (R324): a lane that is due leaves the striping, one of a port at a time; a port with one active lane is not retuned. -/
def execLaneRetune (port : LinkId) (lane : Fin 8) (s : State) : Host.Outcome State Fault Refusal :=
  Act.run (fun s =>
    let p := port.val
    let l := s.link p
    if !clocked s || l.state != .up || l.retuning.isSome || !l.active.contains lane.val || decide (l.active.length < 2)
        || !l.retuneDue lane.val then []
    else [.link p { l with retuning := some lane }, .count (counterId (srcLink p) 4) 1]) s

/-- RETUNE_COMPLETE (R323, R324): the PRBS retest after a retune or a fault; a lane that fails it is retired. -/
def execRetuneComplete (port : LinkId) (lane : Fin 8) (prbsPass : Bool) (s : State) : Host.Outcome State Fault Refusal :=
  Act.run (fun s =>
    let p := port.val
    let l := s.link p
    if l.retuning ≠ some lane ∧ l.testing.contains lane.val = false then []
    else if !prbsPass then retireOwnLane p lane.val s
    else if l.retuning = some lane then [.link p { l with
      retuning := none
      sinceRetune := Tab.put 0 l.sinceRetune lane.val 0
      corrected := Tab.put 0 l.corrected lane.val 0
      faulted := l.faulted.filter (· != lane.val)
      testing := l.testing.filter (· != lane.val) }]
    else [.link p { l with testing := l.testing.filter (· != lane.val) }]) s

/-! ### Flits that arrive (R321, R322, R325) -/

/-- The oldest `n` places of a VC are free again. -/
def dropLent (v : Nat) : Nat → List (Nat × Bool) → List (Nat × Bool)
  | 0, l => l
  | _, [] => []
  | n + 1, x :: l => if x.1 = v then dropLent v n l else x :: dropLent v (n + 1) l

/-- The acknowledgement and the credits that a flit carries (R321, R325, R326). -/
def Link.takeAck (l : Link) (b : List Byte) : Link :=
  let ack := BitVec.ofNat 16 (fieldLE b 4 2)
  let valid := bit (fieldLE b 6 1) 6
  let back (v : Nat) : Nat := fieldLE b (8 + 2 * v) 2
  { l with
    replay := if valid then l.replay.filter (fun x => !seqUpTo x.seq ack) else l.replay
    controlSent := if valid && !bit (fieldLE b 6 1) 7 then l.controlSent.filter (fun x => !seqUpTo x.2 ack) else l.controlSent
    credits := (List.range 4).map (fun v => l.credits.getD v 0 + back v)
    lent := (List.range 4).foldl (fun a v => dropLent v (back v) a) l.lent }

/-- A data flit in order goes into the receive buffer of its VC, into a half of it on a ring (R322, R325, R327). -/
def Link.accept (l : Link) (vc : Nat) (upper : Bool) (body : List Byte) : Link :=
  { l with
    rxSeq := l.rxSeq + 1
    ackValid := true
    resent := false
    rx := l.rx ++ [⟨vc, upper, l.rxSeq, body⟩] }

/-- A flit has come over a lane with its corrected symbols (R320, R323, R324). -/
def Link.arrive (l : Link) (corrected : Nat) : Link :=
  let i := l.laneOf l.rxCount
  let l1 := l.carry i
  { l1 with
    rxCount := l.rxCount + 1
    corrected := Tab.put 0 l.corrected i (Tab.look 0 l.corrected i + corrected) }

/-- The other end asks for what it has not got: every flit after its last good one goes out again, and the control flits that it may lack
(R322; notes/assumptions/17.md). -/
def answerNak (p : Nat) (good : Half) : Act := fun s =>
  let l := s.link p
  Act.all [Act.of [.link p { l with
    control := l.control ++ l.controlSent.map (·.1)
    controlSent := [] }], replayAfter p (some good), pumpPort p false] s

/-- A flit is discarded and asked for again; what it was cannot be told from a flit that has failed (R322). -/
def discardFlit (p : Nat) : Act := fun s =>
  Act.seq (Act.of [.link p { s.link p with
    nak := true
    resent := true }]) (pumpPort p true) s

/-- The operation count of the lane that the last flit error is put to: the last with a fault, or the one that carries the next flit where
only the flit's CRC failed (R376, R436; DEDUCED, notes/assumptions/36.md). -/
def Link.faultOps (l : Link) : Nat := (Tab.look Health.reset l.laneHealth (l.faulted.headD (l.laneOf l.rxCount))).ops

/-- A flit that passed its CRC on a good lane (R322, R323, R325). -/
def goodFlit (p : Nat) (flit : List Byte) : Act := fun s =>
  let l := (s.link p).takeAck flit
  let typ := bits (fieldLE flit 2 1) 5 4
  Act.all [Act.of [.link p l], Act.when (bit (fieldLE flit 6 1) 7) (answerNak p (BitVec.ofNat 16 (fieldLE flit 4 2))),
    (if typ = 0 then
        if fieldLE flit 0 2 = l.rxSeq.toNat then
          Act.all [fun s =>
            let v := bits (fieldLE flit 2 1) 7 6
            .link p ((s.link p).accept v (s.rxHalf p v (slice flit 16 236)) (slice flit 16 236))
            :: (if l.resent then [.ledger 0x0100 (srcLink p) (toLE 8 l.faultOps ++ [5])] else []), pumpPort p true]
        else discardFlit p
      else if typ = 1 then Act.seq (retireLinkLane p (fieldLE flit 16 1 % 8) false (fieldLE flit 17 8)) (pumpPort p false)
      else pumpPort p false),
    settleChunks] s

/-- FLIT_RECEIVE (R322): `fec.bad` names the lane whose codeword was uncorrectable. In loopback the port receives what it sent (R335). -/
def execFlitReceive (port : LinkId) (flit : List Byte) (fec : Fec) (s : State) :
    Host.Outcome State Fault Refusal :=
  Act.run (fun s =>
    let p := port.val
    let l := s.link p
    let b := if l.loopback then l.looped.headD [] else flit
    if !clocked s || !(l.state == .up || l.state == .verify) || (l.loopback && l.looped.isEmpty) then []
    else
      let good := b.length == 256 && fieldLE b 252 4 == crc32 (b.take 252)
      Act.seq (Act.of [.link p { l.arrive fec.corrected.val with looped := l.looped.tail },
          .count (counterId (srcLink p) 3) fec.corrected.val])
        (match fec.bad with
          | some i => Act.all [Act.of [.count (counterId (srcLink p) 2) 1], laneFault p i.val, discardFlit p]
          | none => if good then goodFlit p b else discardFlit p) s) s

/-! ### Identity (R334, R337, R391) -/

/-- The domain that a port verifies against: the one joined, or the one being joined. -/
def domainOf (s : State) : Option Domain := s.member.or (s.joining.map (·.2))

/-- The identity message that a port sends in VERIFY: DOMAIN, or TWIN with the mode of a TWIN_BIND, if one was issued (R334, R391). -/
def identify (p : Nat) : Act := fun s =>
  let twinPort := p == 7 || p == 15
  let mode : Option Bool := if s.twin.bound then some s.twin.mode else s.twin.binding.map (·.2)
  let m : Sent := match domainOf s, twinPort, mode with
    | none, true, some b => .twin 0 (1 + b2n b) false []
    | _, _, _ => .domain p
  .outbox (s.outbox ++ [m]) :: pushPort p (linkMsg s p ⟨0, none, m⟩) s

/-- A DOMAIN_JOIN completes once every port that the role requires is UP and its peer's identity has been checked against the table
(R337). -/
def tryJoin : Act := fun s =>
  match s.joining with
  | none => []
  | some (h, d) =>
    if d.ports.all (fun p => s.up p && (s.link p).identityOk == some true) then Act.seq (Act.of [.member (some d), .joining none]) (fun s => done3 h (deviceNumber s) 0 0 s) s
    else []

/-- LINK_TRAINED (R334): training or a retrain ends; TWIN_SENSE is sampled with it (R396, R443). -/
def execLinkTrained (port : LinkId) (result : Trained) (s : State) : Host.Outcome State Fault Refusal :=
  Act.run (fun s =>
    let p := port.val
    let l := s.link p
    if !clocked s || !l.enable || l.sheeted || !(l.state == .training || l.state == .down) then []
    else
      let ok := decide (l.minLanes ≤ l.active.length) && !l.active.isEmpty && l.active.all (fun i => result.locked.getLsbD i)
      Act.seq (Act.seq (Act.of [.power { s.power with twinSense := result.twinSense }]) (linkTo p .training))
        (if ok then Act.all [fun s => [.link p { s.link p with retrainFailed := false, identityOk := none }], linkTo p .verify, identify p]
          else Act.all [fun s => [.link p { s.link p with retrainFailed := true }], linkTo p .down, twinLinkLost]) s) s

/-- Mask of the ports of a domain at which a peer's identity differed. -/
def mismatched (s : State) (d : Domain) : Nat := maskOf 16 (fun p => d.ports.contains p && (s.link p).identityOk == some false)

/-- DOMAIN (R337): the peer's identity against the domain table, as the port verifies, or again where it is UP: a peer that joins anew over a
port that is UP is answered with the own identity (DEDUCED, notes/assumptions/17.md). -/
def execDomain (port : LinkId) (domainId : Dword) (number : BitVec 12) (group position : Byte) (s : State) :
    Host.Outcome State Fault Refusal :=
  Act.run (fun s =>
    let p := port.val
    let taken : Act := takeBytes port 3 (msgHeader 8 0 0 number.toNat 0 (group.toNat + 256 * position.toNat) domainId.toNat 0)
    if (s.link p).state ≠ .verify ∧ s.up p = false then taken s
    else
      let again := s.up p && (s.link p).identityOk == some true
      let ok := match domainOf s with
        | none => false
        | some d => d.ports.contains p && d.id == domainId && d.peer p == (group.toNat, position.toNat)
            && d.device group.toNat position.toNat == number.toNat
      Act.all [taken, fun s => [.link p { s.link p with identityOk := some ok }],
        (if ok then Act.all [linkTo p .up, Act.when again (identify p), tryJoin]
          else Act.seq (linkTo p .down) (fun s => match s.joining with
            | none => []
            | some (h, d) => Act.seq (Act.of [.joining none])
                (complete h ⟨stBadParameter, 0, 0, mismatched s d, 0, false, 0⟩) s))] s) s

/-! ### LINK_CONFIGURE (R335) -/

/-- Whether a domain or twin binding uses a port (R335). -/
def portUsed (s : State) (p : Nat) : Bool :=
  (domainOf s).any (fun d => d.ports.contains p) || ((s.twin.bound || s.twin.binding.isSome) && (p == 7 || p == 15))

/-- Whether a configuration block lies in its ranges (R335). -/
def linkBlockOk (b : List Byte) : Bool :=
  fieldLE b 0 2 == 1 && decide (fieldLE b 2 1 ≤ 1) && fieldLE b 3 1 != 0 && decide (1 ≤ fieldLE b 4 1) && decide (fieldLE b 4 1 ≤ 8)
    && decide (fieldLE b 5 1 ≤ 1) && decide (fieldLE b 6 1 ≤ 1) && allZero (slice b 7 9)

/-- LINK_CONFIGURE of a port (R335). -/
def configurePort (h : Hdr) (p : Nat) (b : List Byte) : Act := fun s =>
  let l := s.link p
  let on := fieldLE b 2 1 == 1
  let loop := fieldLE b 6 1 == 1
  if !linkBlockOk b then finish h stBadParameter s
  else if (!on || loop) && portUsed s p then finish h stBusy s
  else
    let l1 := { l with
      laneMask := BitVec.ofNat 8 (fieldLE b 3 1)
      minLanes := fieldLE b 4 1
      retune := fieldLE b 5 1 == 1
      loopback := loop }
    Act.all [Act.of [.link p l1],
      (if !on then disablePort p
        else if !l.enable then trainPort p
        else Act.when ((l.state == .up || l.state == .verify) && decide (l1.active.length < l1.minLanes)) (linkTo p .down)),
      fun s => done3 h (s.link p).activeMask (s.link p).state.code (s.link p).retired.toNat s] s

def execLinkConfigure (h : Hdr) (port : Byte) (len : Word) (host : Dword) (s : State) : Host.Outcome State Fault Refusal :=
  (hostCommand h false (fun s =>
    if 15 < port.toNat then badField h 32 s
    else if len.toNat ≠ 16 then badField h 36 s
    else configurePort h port.toNat (hostData s h host.toNat 16) s)).run s

/-! ### DOMAIN_JOIN (R336, R337) -/

/-- A domain table of a given length, if its fields lie in their ranges (R336). -/
def parseDomain (b : List Byte) (len : Nat) : Option Domain :=
  let g := fieldLE b 2 1
  let m := fieldLE b 3 1
  let devs := (List.range (g * m)).map (fun n => fieldLE b (64 + 2 * n) 2)
  if len < 64 ∨ fieldLE b 0 2 ≠ 1 ∨ g < 1 ∨ 64 < g ∨ m < 1 ∨ 8 < m ∨ len ≠ 64 + 2 * g * m ∨ g ≤ fieldLE b 4 1 ∨ m ≤ fieldLE b 5 1
      ∨ allZero (slice b 6 2) = false ∨ allZero (slice b 16 48) = false ∨ devs.any (fun d => decide (0xFFE < d)) = true
      ∨ devs.eraseDups.length ≠ devs.length then none
  else some ⟨BitVec.ofNat 64 (fieldLE b 8 8), g, m, fieldLE b 4 1, fieldLE b 5 1, devs⟩

/-- DOMAIN_JOIN (R336, R337). -/
def execDomainJoin (h : Hdr) (len : Word) (host : Dword) (s : State) : Host.Outcome State Fault Refusal :=
  (hostCommand h false (fun s =>
    if s.twin.bound then finish h stBadParameter s
    else if s.member.isSome || s.joining.isSome || s.twin.binding.isSome then finish h stBusy s
    else match parseDomain (hostData s h host.toNat (min len.toNat 1088)) len.toNat with
      | none => finish h stBadParameter s
      | some d => Act.all [Act.of [.joining (some (h, d))],
          Act.each (fun p => fun s => Act.seq (Act.of [.link p { s.link p with identityOk := none }])
            (if (s.link p).state = .verify ∨ s.up p = true then identify p else enablePort p) s) d.ports, tryJoin] s)).run s

end Sys2Proof.Machine
end

