-- ==== Sys2Proof/Machine/Resets.lean ====
section
/-! DEFINITION. Sys2Proof/Machine/Resets.lean: per-function resets (R298, R300 to R303): RESET_FUNCTION, and what each class discards,
keeps and ends. -/
namespace Sys2Proof.Machine

/-! ### Function IDs (R301, R302) -/

/-- Whether a function ID names a unit that can be reset (R301, R302). -/
def unitOk (s : State) (fid : Nat) : Bool :=
  let i := fid % 4096
  match fid / 4096 with
  | 1 => goodCore s i
  | 2 => decide (i < 16) && !(s.engine i).sheeted
  | 3 => decide (i < 16) && !(s.link i).sheeted
  | 4 => decide (i < 2) && !(s.coll i).sheeted
  | 5 => decide (i < 128)
  | 6 => decide (i < 16)
  | 8 => decide (i < 2)
  | _ => false

/-- The reset that a function's reset is part of: an FLR resets the port's chutes with its DMA (R413, R414). -/
def resetKey (s : State) (fid : Half) : Half :=
  let p := fid.toNat % 4096 / 64
  if fid.toNat / 4096 = 5 ∧ (s.port p).flrActive = true then BitVec.ofNat 16 (srcPort p) else fid

/-- Whether a function is being reset (R298). -/
def inReset (s : State) (fid : Nat) : Bool := s.resets.any (fun r => r.fid == resetKey s (BitVec.ofNat 16 fid))

/-! ### What a reset ends -/

/-- Slots whose run satisfies `p`. -/
def runningSlots (s : State) (p : Nat → Run → Bool) : List Nat :=
  (List.range 16).filter (fun n => (s.slot n).run.any (fun q => q.active && p n q))

/-- A granted acquire of a packet that has not started is given back (R300). -/
def giveBack (i : Nat) : Act := fun s =>
  match (s.chute i).granted with
  | none => []
  | some (k, amount) => Act.seq (Act.of [.chute i { s.chute i with granted := none }]) (releaseHook k amount.toNat (srcChute i) true) s

/-- Whether a waiter is the packet at the head of chute `i`. -/
def waitsAtHead (i : Nat) : Waiter → Bool
  | .packet p c _ => chuteIx p c == i
  | _ => false

/-- Whether a waiter is a HOOK_ACQUIRE that chute `i` sent. -/
def waitsFrom (s : State) (i : Nat) : Waiter → Bool
  | .command h _ => h.partner.isNone && chuteIx h.port h.chute == i && !s.twin.forwarded.any (fun f => decide (f.hdr = h))
  | _ => false

/-- Whether a waiter is the HOOK_ACQUIRE of an order number: the own packet, or the partner's (R392). -/
def waitsOrder (s : State) (n : Dword) : Waiter → Bool
  | .command h _ => h.partner == some n || s.twin.forwarded.any (fun f => f.order == n && decide (f.hdr = h))
  | _ => false

/-- Headers of the HOOK_ACQUIRE commands among the waiters that satisfy `p`. -/
def waitingHdrs (s : State) (p : Waiter → Bool) : List Hdr :=
  s.hooks.flatMap (fun x => (x.2.waiters.filter p).filterMap (fun w => match w with
    | .command h _ => some h
    | _ => none))

/-- The HOOK_ACQUIRE of an order number, whose chute has been reset, ends at its place in the order if it still waits (R300, R392). -/
def unwait (n : Dword) : Act := fun s =>
  let gone := waitingHdrs s (waitsOrder s n)
  if gone.isEmpty then []
  else Act.seq (Act.of [.started (s.started.filter (fun c => !(instrHdr c).any gone.contains)),
      .twin { s.twin with forwarded := s.twin.forwarded.filter (fun f => f.order != n) }]) (dropWaiters (waitsOrder s n)) s

/-- Order numbers of the HOOK_ACQUIRE commands that chute `i` sent and that both twins run. -/
def sharedWaits (s : State) (i : Nat) : List Dword :=
  (s.twin.forwarded.filter (fun f => chuteIx f.hdr.port f.hdr.chute == i && s.hooks.any (fun x => x.2.waiters.any (waitsOrder s f.order)))).map
    (·.order)

/-- Waits of chute `i` that both twins hold end in the agreed order (R300, R392). -/
def endShared (i : Nat) : Act := fun s =>
  Act.each (fun n => if orderer s then Act.seq (giveNumber (.unwait n)) (unwait n) else askNumber (.unwait n)) (sharedWaits s i) s

/-- The packet that chute `i` has forwarded, and that the partner has not started, is asked back (R300, R303, R392). -/
def withdraw (i : Nat) : Act := fun s =>
  Act.each (fun a : Asking => sendTwin 11 a.id []) (s.twin.asked.filter (fun a => a.id == i + 128 * (s.chute i).epoch)) s

/-- Commands of chute `i` that wait without a limit, and that its reset ends: HOOK_ACQUIRE and DOMAIN_JOIN (R300, R337). -/
def endWaits (i : Nat) : Act := fun s =>
  let hs := waitingHdrs s (waitsFrom s i)
  let join := s.joining.filter (fun x => chuteIx x.1.port x.1.chute == i)
  let gone := hs ++ (join.map (·.1)).toList
  Act.seq (Act.of (.started (s.started.filter (fun c => !(instrHdr c).any gone.contains)) :: (if join.isSome then [.joining none] else [])))
    (dropWaiters (fun w => waitsAtHead i w || waitsFrom s i w)) s

/-- A chute is reset (R300, R303): its settings stay, it is disabled with its indices at 0, and packets it started reply no more. -/
def resetChute (i : Nat) : Act :=
  Act.all [giveBack i, endWaits i, endShared i, withdraw i, fun s =>
    let c := s.chute i
    [.chute i { c with
      enable := false
      blocked := false
      stopped := false
      head := 0
      replyIndex := 0
      replyHead := 0
      tail := 0
      owed := 0
      granted := none
      passes := 0
      promoted := 0
      fetched := []
      epoch := c.epoch + 1 },
      .intake (s.intake.filter (· != i))]]

/-- The packet at a chute's head is fetched again: its copy, its wait and its granted acquire go (R300, R303). -/
def refetch (i : Nat) : Act :=
  Act.all [giveBack i, dropWaiters (waitsAtHead i), withdraw i, fun s =>
    [.chute i { s.chute i with
      fetched := []
      blocked := false }, .intake (s.intake.filter (· != i))]]

/-- Commands that write data to host memory (R292). -/
def hostWrites : Instr → Bool
  | .identify _ _ => true
  | .attest _ _ _ _ => true
  | .inventory _ _ _ => true
  | .readMem _ _ _ _ => true
  | .ledgerRead _ _ _ _ => true
  | .counterRead _ _ _ _ => true
  | .saveContext _ _ _ _ target => target == 0
  | _ => false

/-- Whether a started command moves host data on a port (R303; notes/assumptions/28.md). -/
def movesHost (s : State) (p : Nat) (i : Instr) : Bool :=
  ((hostReads i).any (fun x => x.2 != 0) || hostWrites i)
    && (instrHdr i).any (fun h => h.port.val == p && h.partner.isNone && !dataMoved s h)

/-- A command whose data or accesses are in flight completes with ABORTED_BY_RESET (R303). -/
def abortCommandXfers (i : Instr) : Act := endCommandXfers stReset i

/-- Commands whose accesses satisfy `p`. -/
def xferCommands (s : State) (p : Instr → Xfer → Bool) : List Instr :=
  (s.xfers.filterMap (fun x => match x.owner with
    | .command i => if p i x then some i else none
    | .record _ _ => none)).eraseDups

/-- Whether a stream is writing its next record on its port: the ring has room for it and the port takes it (R303, R366). Output for which
it waits stays (R413). -/
def writingOutput (s : State) (v : Stream) : Bool := outputRuns s v.port.val && v.out.head?.any (hasRoom v)

/-- Streams that write output on a port, or read their bitstream from its host (R303). -/
def portStreams (s : State) (p : Nat) : List Nat :=
  (s.streams.filter (fun x => x.2.opened && x.2.port.val == p
    && (writingOutput s x.2 || (x.2.desc.dir == 1 && x.2.frame.any (fun f => !bit f.sub.flags 1))))).map (·.1)

/-- The record that a stream is writing is dropped, which the ledger records, and its frame stops (R303); R436 lists no event for that
record, so its code is free (notes/assumptions/6.md). -/
def dropOutput (i : Nat) : Act := fun s =>
  let drop : Act := Act.seq (setStream i (fun v => { v with out := v.out.drop 1 }))
    (fun s => Act.seq (logAct (Config.free s.free % 65535 + 1) (s.stream i).source (toLE 4 (streamId i (s.stream i)))) (Act.of [.fresh]) s)
  Act.seq (if writingOutput s (s.stream i) then drop else Act.none) (stopFrame i) s

/-- The DMA reset of a port (R303). -/
def resetDma (p : Nat) : Act := fun s =>
  Act.all [
    Act.each refetch ((s.chutes.filter (fun x => x.1 / 64 == p && x.2.enable)).map (·.1)),
    Act.each abortCommandXfers (s.started.filter (movesHost s p)),
    Act.each dropOutput (portStreams s p)] s

/-- Whether messages to a device take a port: by the shorter way, or by either way round a ring (R332, R346). -/
def takesPort (s : State) (p dev : Nat) : Bool := [none, some 7, some 15].any (fun c => (routePorts s c dev).contains p)

/-- Whether a remote access takes a port. -/
def throughPort (s : State) (p : Nat) (x : Xfer) : Bool := (routePorts s none x.device).contains p

/-- A link port is reset (R303): transfers on it end, and an enabled port trains again. -/
def resetLink (fid : Half) (p : Nat) : Act := fun s =>
  let mine (n : Nat) : Bool := s.xfers.any (fun x => throughPort s p x && (match x.owner with
    | .record m _ => m.val == n
    | .command _ => false))
  let peers (n : Nat) : Bool := ((s.slot n).plan.map (fun v => (v.peers s).any (takesPort s p))).getD false
  let hit := runningSlots s (fun n q => mine n || (!q.collectives.isEmpty && peers n))
  Act.all [Act.each abortCommandXfers (xferCommands s (fun _ x => throughPort s p x)), Act.each (stopJob fid) hit,
    fun s => Act.when (s.link p).enable (linkTo p .training) s,
    fun s => [.link p (s.link p).cleared]] s

/-- A core is reset (R303): what its array, lanes and queues hold goes; the shelf, the wear count and the taint stay. -/
def resetCore (fid : Half) (c : Nat) : Act := fun s =>
  Act.all [
    Act.each (stopJob fid) (runningSlots s (fun n _ => (s.core c).busy.any (fun b => b.1 == n) || (s.core c).laneRuns.any (fun q => q.slot == n))),
    fun s => [.core c { s.core c with
      array := MatArray.reset
      busy := []
      live := none
      probe := false
      laneRuns := [] }],
    fun s => (s.lanes.filter (fun x => x.1 / 128 == c)).map (fun x => .lane x.1 Lane.reset)] s

/-- A collective engine is reset (R303). -/
def resetColl (fid : Half) (h : Nat) : Act := fun s =>
  Act.seq (Act.each (stopJob fid) (runningSlots s (fun _ q => !q.collectives.isEmpty)))
    (fun s => [.coll h { s.coll h with
      chunks := []
      dumbwaiters := []
      grants := [] }]) s

/-- A plan slot is reset (R303): its run ends with ABORTED_BY_RESET and the slot is left empty. -/
def resetSlot (n : Nat) : Act :=
  Act.seq (withRun n (fun _ q => endRun n (some { Reply.of stReset with restarts := q.restarts }))) (Act.of [.slot n Slot.reset])

/-- What the reset of a function does as it starts (R303). -/
def resetEffect (fid : Half) : Act :=
  let i := fid.toNat % 4096
  match fid.toNat / 4096 with
  | 1 => resetCore fid i
  | 2 => leaveEngine i false
  | 3 => resetLink fid i
  | 4 => resetColl fid i
  | 5 => resetChute i
  | 6 => resetSlot i
  | 8 => resetDma i
  | _ => Act.none

/-- A reset starts, or joins the one in progress (R298). -/
def beginReset (fid : Half) (cmds : List Hdr) (ports : List PortId) : Act := fun s =>
  if inReset s fid.toNat then
    [.resets (s.resets.map (fun r => if r.fid = resetKey s fid then { r with
      commands := r.commands ++ cmds
      ports := r.ports ++ ports } else r))]
  else Act.seq (Act.of [.resets (s.resets ++ [⟨fid, cmds, ports⟩])]) (resetEffect fid) s

/-! ### The commands -/

/-- RESET_FUNCTION (R301, R303). -/
def execResetFunction (h : Hdr) (fid : Half) (s : State) : Host.Outcome State Fault Refusal :=
  (command h false (fun s =>
    if !unitOk s fid.toNat || (h.partner.isNone && fid.toNat == srcChute (chuteIx h.port h.chute)) then badField h 32 s
    else beginReset fid [h] [] s)).run s

/-- FUNCTION_RESET_COMPLETE (R303): the commands that started the reset or joined it complete together; a core that fails its
self-test is sheeted. -/
def execFunctionResetComplete (fid : Half) (retestPass : Bool) (s : State) : Host.Outcome State Fault Refusal :=
  Act.run (fun s =>
    match s.resets.find? (fun r => r.fid == fid) with
    | none => []
    | some r =>
      let i := fid.toNat % 4096
      let done (q : Port) : Port := { q with
        resetBusy := false
        resetDone := true }
      Act.all [
        Act.of [.resets (s.resets.filter (fun x => x.fid != fid))],
        Act.when (fid.toNat / 4096 == 1 && !retestPass) (retireCore i 2),
        Act.each (fun p : PortId => fun s => [.port p.val (done (s.port p.val))]) r.ports,
        (if fid.toNat / 4096 = 8 then fun s => [.port i { s.port i with flrActive := false }] else Act.none),
        Act.each (fun h => finish h stDone) r.commands] s) s

end Sys2Proof.Machine
end

