-- ==== Sys2Proof/Machine/Twins.lean ====
section
/-! DEFINITION. Sys2Proof/Machine/Twins.lean: twin pairs: packets and register writes that both twins run, in one order (R392 to R394),
TWIN_BIND and TWIN_RELEASE (R391, R397), and twin messages. -/
namespace Sys2Proof.Machine

/-! ### Roles (R392, R395) -/

/-- Whether a twin sends its packets to the one that orders them. A twin without a link sends nothing (R396). -/
def follower (s : State) : Bool :=
  s.twin.bound && !s.twin.linkLost && (s.twin.steppedOut || (s.twin.mode && !s.twin.partnerOut))

/-- Commands that both twins run (R392). -/
def sharedInstr : Instr → Bool
  | .writeMem _ _ _ _ => true
  | .fillMem _ _ _ _ => true
  | .copyMem _ _ _ _ => true
  | .sealRegion _ _ _ _ _ => true
  | .unsealRegion _ _ => true
  | .loadPlan _ _ _ _ => true
  | .unloadPlan _ _ => true
  | .saveContext _ _ _ _ _ => true
  | .restoreContext _ _ _ _ _ => true
  | .run _ _ _ => true
  | .pause _ _ => true
  | .resume _ _ => true
  | .abort _ _ => true
  | .mark _ _ => true
  | .hookAcquire _ _ _ => true
  | .hookRelease _ _ _ => true
  | .hookSet _ _ _ => true
  | .tableLoad _ _ _ => true
  | .tableSelect _ _ => true
  | .seedStreams _ _ _ _ => true
  | .twinRelease _ => true
  | .resetFunction _ fid => fid.toNat / 4096 == 6
  | _ => false

/-- A packet as a twin message carries it: chute, the chute's class (R297), packet, host data (the layout is the model's,
notes/assumptions/17.md). -/
def packetBody (s : State) (h : Hdr) (b : List Byte) (i : Instr) : List Byte :=
  toLE 1 (chuteIx h.port h.chute) ++ toLE 1 (s.chute (chuteIx h.port h.chute)).cls.toNat ++ b.take (16 * fieldLE b 4 2) ++ (match hostReads i with
    | some (a, n) => hostBytes s h.port a n
    | none => [])

/-- The packet and the host data of a message's bytes after the chute. -/
def splitBody (b : List Byte) : List Byte × List Byte :=
  let n := 16 * fieldLE b 6 2
  (slice b 2 n, b.drop (2 + n))

/-- The command of a partner's packet, by its order number; one whose control block is refused is none. -/
def partnerInstr (n : Dword) (chute : Nat) (b : List Byte) : Option Instr :=
  match parsePacket (packetHdr (Fin.ofNat 2 (chute / 64)) (Fin.ofNat 64 (chute % 64)) 0 (some n) b) b (fun _ _ => []) with
  | .command i => some i
  | .refused _ => none

/-- Host data of a partner's packet are kept by order number and host address. -/
def carry (n : Dword) (i : Instr) (data : List Byte) : Act := fun s =>
  match hostReads i with
  | some (a, _) => [.twin { s.twin with carried := s.twin.carried ++ [(n, a, data)] }]
  | none => []

/-! ### Register writes of a pair (R393) -/

/-- The work that the bytes of a twin message name. -/
def parseWork (b : List Byte) : Option TwinWork :=
  match fieldLE b 0 1 with
  | 0 => some (.mem (fieldLE b 1 8) (b.drop 9))
  | 1 => some (.hook (fieldLE b 1 2) (fieldLE b 3 4) (Fin.ofNat 2 (fieldLE b 7 1)))
  | 2 => some (.reset (BitVec.ofNat 16 (fieldLE b 1 2)))
  | 3 => some (.mark (fieldLE b 1 1 % 8))
  | 4 => some (.tier (bit (fieldLE b 1 1) 0) (fieldLE b 2 1 % 16) (fieldLE b 3 1))
  | 5 => some (.start (fieldLE b 1 1 % 16) ⟨fieldLE b 2 1, fieldLE b 3 1, bit (fieldLE b 5 1) 0, fieldLE b 4 1⟩)
  | 6 => some (.unwait (BitVec.ofNat 64 (fieldLE b 1 8)))
  | _ => none

/-- Ports on which a FUNC_RESET of a function waits for the pair's order. -/
def waitingPorts (s : State) (f : Half) : List PortId :=
  ([0, 1] : List PortId).filter (fun p => (s.port p.val).resetBusy && (s.port p.val).fid == f
    && !s.resets.any (fun r => r.ports.contains p))

/-- Work other than a packet takes effect (R314, R393, R404, R407, R408). -/
def applyWork : TwinWork → Act
  | .mem a d => fun s => Act.all [hostAccess (touchRange true a d.length) (storeMem a d),
      (if (badPartial s a d.length).isEmpty then Act.none else fun s =>
        [.port 0 ((s.port 0).internalErrors 1), .port 1 ((s.port 1).internalErrors 1)])] s
  | .hook k v p => releaseHook k v (srcPort p.val) false
  | .reset f => fun s => beginReset f [] (waitingPorts s f) s
  | .mark m => agreedMark m
  | .tier b n t => fun s => if b = s.twin.mode then [] else [.twin { s.twin with
      partnerTiers := (n, t) :: s.twin.partnerTiers.filter (fun x => x.1 != n) }]
  | .start n t => fun s => [.twin { s.twin with starts := s.twin.starts ++ [(n, t)] }]
  | .unwait n => unwait n
  | .packet _ _ => Act.none

/-- A kind's number among the writes that a stepped-out twin discards. -/
def TwinWork.kind : TwinWork → Nat
  | .mem _ _ => 0
  | .hook _ _ _ => 1
  | .reset _ => 2
  | .packet _ _ => 3
  | .mark _ => 4
  | .tier _ _ _ => 5
  | .start _ _ => 6
  | .unwait _ => 7

/-- A register write of a bound twin takes its place in the order (R393): the orderer gives it a number, the follower asks for one, and
a stepped-out twin without a link discards it with one record for the first of each kind; R436 lists no event for that record, so its
code is free (notes/assumptions/6.md). `own` is the port through which this twin's host wrote. -/
def pairedWrite (own : Option PortId) (w : TwinWork) (now : Act) : Act := fun s =>
  let t := s.twin
  if !t.bound then now s
  else if t.steppedOut && !(s.up 7 || s.up 15) then
    if t.discarded.contains w.kind then []
    else Act.all [Act.of [.twin { t with discarded := w.kind :: t.discarded }],
      logAct (Config.free s.free % 65535 + 1) 0 (toLE 1 w.kind), Act.of [.fresh]] s
  else if orderer s then Act.seq (giveNumber w) now s
  else match own with
    | some p => if s.paired then askWrite p w s else askNumber w s
    | none => askNumber w s

/-- Own register writes that a partner that has left will not order take effect (R393, R395). -/
def leftWrites : Act := fun s =>
  if !s.twin.partnerOut then []
  else Act.seq (Act.of [.twin { s.twin with writes := [] }])
    (Act.each (fun x : PortId × Option Dword × TwinWork => if x.2.1.isNone then applyWork x.2.2 else Act.none) s.twin.writes) s

/-- An own register write has its place in the order (R393). -/
def writeNumbered (n : Dword) (w : TwinWork) : Act := fun s =>
  let i := s.twin.writes.findIdx (fun x => x.2.1.isNone)
  [.twin { s.twin with
    writes := s.twin.writes.modify i (fun x => (x.1, some n, x.2.2))
    waiting := s.twin.waiting ++ [(n, w)] }]

/-! ### The order (R392) -/

/-- Whether a packet's hook can be acquired at its place in the order. -/
def hookCovers (s : State) : Option (Nat × Word) → Bool
  | none => true
  | some (k, v) => decide (v ≤ (s.hook k).count)

/-- The work of the next order number starts, if it has come, its hook can be acquired and no TWIN_RELEASE before it waits for the
partner's word (R392, R397). -/
def startNext : Act := fun s =>
  let t := s.twin
  match if t.releasing.isSome then none else t.waiting.find? (fun x => x.1 == t.order) with
  | none => []
  | some (n, w) =>
    let go (a : Act) : Act := Act.seq (Act.of [.twin { t with
      order := t.order + 1
      waiting := t.waiting.filter (fun x => x.1 != n)
      writes := t.writes.filter (fun x => x.2.1 != some n) }]) a
    match w with
    | .packet i k =>
      if !hookCovers s k then []
      else go (fun s => (match k with
          | some (k, v) => [.hook k { s.hook k with count := (s.hook k).count - v }]
          | none => []) ++ [.started (s.started ++ [i])]) s
    | _ => go (applyWork w) s

/-- Work starts in order-number order while it can (R392). -/
def drain : Nat → Act
  | 0 => Act.none
  | n + 1 => fun s => if (startNext s).isEmpty then [] else Act.seq startNext (drain n) s

/-- Everything that can start does. -/
def drainAll : Act := fun s => drain s.twin.waiting.length s

/-- The head of a chute passes `n` entries as its packet starts or is refused: one more reply is owed (R284, R285, R315). -/
def passHead (i n : Nat) : Act := fun s =>
  let c := s.chute i
  [.chute i { c with
    head := c.head + BitVec.ofNat 32 n
    owed := c.owed + 1
    granted := none
    passes := 0
    promoted := 0
    fetched := [] },
  .intake (s.intake.filter (· != i))]

/-- Entries of the ring that a packet occupies (R283). -/
def packetEntries (c : Chute) (b : List Byte) : Nat :=
  let l := fieldLE b 4 2
  if l < 2 ∨ 256 < l ∨ 2 ^ c.log2N.toNat < ceilDiv l 4 then 1 else ceilDiv l 4

/-! ### TWIN_BIND and TWIN_RELEASE (R391, R397) -/

/-- A pair forms once both ports are UP and the partner has named a mode (R391). -/
def tryBind : Act := fun s =>
  match s.twin.binding, s.twin.partnerBind with
  | some (h, mode), some other =>
    if !(s.up 7 && s.up 15) then []
    else if mode = other then
      Act.seq (Act.of [.twin { s.twin with
          binding := none
          partnerBind := none }])
        (complete h ⟨stBadParameter, 0, 0, 1, 0, false, 0⟩) s
    else Act.seq (Act.of [.twin { Twin.reset with
        bound := true
        mode := mode }]) (done3 h (b2n mode) 0 0) s
  | _, _ => []

/-- TWIN_BIND (R391). -/
def execTwinBind (h : Hdr) (mode : Byte) (s : State) : Host.Outcome State Fault Refusal :=
  (command h false (fun s =>
    if 1 < mode.toNat then badField h 32 s
    else if s.member.isSome then finish h stBadParameter s
    else if s.twin.bound || s.twin.binding.isSome || s.joining.isSome || s.slots.any (fun x => x.2.plan.isSome)
        || s.streams.any (fun x => x.2.opened) then finish h stBusy s
    else Act.all [Act.of [.twin { s.twin with binding := some (h, mode == 1) }],
      Act.each (fun p => fun s => if (s.link p).state = .verify ∨ s.up p = true then identify p s else enablePort p s) [7, 15], tryBind] s)).run s

/-- The pair ends on this device: replies that waited for the partner go out, and P7 and P15 are disabled (R397). -/
def leaveTwin : Act := fun s =>
  Act.all [Act.of [.twin Twin.reset],
    Act.each (fun f : Forwarded => match f.own.or f.partner with
      | some r => replyEffs f.hdr r
      | none => Act.none) s.twin.forwarded,
    disablePort 7, disablePort 15, dropHeldTwin] s

/-- Whether a run of this twin is in progress or paused (R397). -/
def runsLeft (s : State) : Bool := s.slots.any (fun x => x.2.run.isSome)

/-- TWIN_RELEASE takes effect on this twin, whose own reply waits for no partner any more (R397). -/
def release (h : Hdr) : Act :=
  Act.all [fun s => [.twin { s.twin with forwarded := s.twin.forwarded.filter (fun f => decide (f.hdr ≠ h)) }],
    (if h.partner.isNone then finish h stDone else fun s => [.started (dropStarted h s.started)]), leaveTwin]

/-- A TWIN_RELEASE of a pair is decided once both twins have come to it: BUSY where a run of either is in progress or paused (R397). -/
def tryRelease : Act := fun s =>
  match s.twin.releasing, s.twin.partnerBusy with
  | some (h, busy), some other =>
    Act.seq (Act.of [.twin { s.twin with
        releasing := none
        partnerBusy := none }]) (if busy || other then finish h stBusy else release h) s
  | _, _ => []

/-- TWIN_RELEASE (R397): both twins of a pair tell each other whether a run stands against it, and later work waits till then; a survivor
releases both; a stepped-out twin without a link runs it alone. -/
def execTwinRelease (h : Hdr) (s : State) : Host.Outcome State Fault Refusal :=
  Act.run (fun s =>
    if !clocked s then []
    else if s.firmware.recovery then finish h stFirmware s
    else if !s.twin.bound then finish h stDone s
    else if s.paired then
      if s.twin.releasing.isSome then []
      else Act.all [fun s => [.twin { s.twin with releasing := some (h, runsLeft s) }], sendTwin 10 (b2n (runsLeft s)) [], tryRelease] s
    else if !s.twin.steppedOut && runsLeft s then finish h stBusy s
    else Act.all [
      fun s => [.twin { s.twin with forwarded := s.twin.forwarded.filter (fun f => decide (f.hdr ≠ h)) }],
      finish h stDone, sendTwin 10 2 [], leaveTwin] s) s

/-! ### Twin messages (R328, R391 to R396) -/

/-- The partner's identity is checked as the port verifies, and names its mode (R334, R391). -/
def twinIdentity (p value : Nat) : Act := fun s =>
  let mine : Option Bool := if s.twin.bound then some s.twin.mode else s.twin.binding.map (·.2)
  let other : Option Bool := if value = 1 then some false else if value = 2 then some true else none
  let ok := (p == 7 || p == 15) && mine.isSome && other.isSome && (!s.twin.bound || mine != other)
  if s.up p = true ∧ s.twin.bound = false then Act.seq (Act.of [.twin { s.twin with partnerBind := other.or s.twin.partnerBind }]) tryBind s
  else if (s.link p).state ≠ .verify then []
  else Act.seq (Act.of [.link p { s.link p with identityOk := some ok }])
    (if ok then Act.all [linkTo p .up,
        fun s => if s.twin.bound then [] else [.twin { s.twin with partnerBind := other }], tryBind]
      else linkTo p .down) s

/-- A packet of the partner with its order number (R392). -/
def orderedPacket (n : Dword) (body : List Byte) : Act := fun s =>
  let x := splitBody body
  match partnerInstr n (fieldLE body 0 1) x.1 with
  | none => []
  | some i => Act.all [carry n i x.2,
      fun s => [.twin { s.twin with waiting := s.twin.waiting ++ [(n, .packet i (packetWait x.1))] }], drainAll] s

/-- The order number of an own packet: it has started, so the head passes it (R284, R392). -/
def numbered (n : Dword) (id : Nat) : Act := fun s =>
  match s.twin.asked.find? (fun a => a.id == id) with
  | none => []
  | some a =>
    let ix := chuteIx a.hdr.port a.hdr.chute
    let c := s.chute ix
    let cmd := match parsePacket a.hdr a.packet (fun _ _ => []) with
      | .command i => some i
      | .refused _ => none
    Act.all [
      Act.of [.twin { s.twin with
        asked := s.twin.asked.filter (fun b => b.id != id)
        forwarded := s.twin.forwarded ++ [⟨a.hdr, n, none, none⟩]
        waiting := s.twin.waiting ++ (match cmd with
          | some i => if s.twin.steppedOut then [] else [(n, .packet i (packetWait a.packet))]
          | none => []) }],
      Act.when (c.epoch == a.hdr.epoch && c.enable)
        (Act.seq (passHead ix (packetEntries c a.packet)) (bumpAct (srcHub a.hdr.port.val) 2 1)),
      drainAll] s

/-- The partner's reply to an own packet (R392, R394): with the own completion, or alone where this twin executes nothing. -/
def partnerReply (n : Dword) (r : Reply) : Act := fun s =>
  match s.twin.forwarded.find? (fun f => f.order == n) with
  | none => []
  | some f =>
    let rest := s.twin.forwarded.filter (fun g => g.order != n)
    match f.own with
    | some o =>
      Act.seq (Act.of (.twin { s.twin with forwarded := rest } :: (if o.status = r.status then [] else
          [.ledger 0x0114 (srcChute (chuteIx f.hdr.port f.hdr.chute)) (toLE 8 n.toNat ++ toLE 2 o.status ++ toLE 2 r.status)])))
        (replyEffs f.hdr (twinReply o r)) s
    | none =>
      if s.twin.steppedOut then Act.seq (Act.of [.twin { s.twin with forwarded := rest }]) (replyEffs f.hdr r) s
      else [.twin { s.twin with forwarded := s.twin.forwarded.map (fun g => if g.order = n then { g with partner := some r } else g) }]

/-- Work that the partner sends: to be numbered, a register write among it, whose number comes back by itself, or with its number (R393). -/
def partnerWrite (value : Dword) (body : List Byte) : Act := fun s =>
  match parseWork body with
  | none => []
  | some w =>
    if value = BitVec.allOnes 64 then Act.when (orderer s) (pairedWrite none w (applyWork w)) s
    else if value = BitVec.allOnes 64 - 1 then
      if !orderer s then []
      else if !s.paired then applyWork w s
      else Act.all [Act.of [.twin { s.twin with order := s.twin.order + 1 }], sendTwin 13 s.twin.order.toNat (workBody w), applyWork w] s
    else Act.seq (fun s => [.twin { s.twin with waiting := s.twin.waiting ++ [(value, w)] }]) drainAll s

/-- The follower asks a packet back: one that has not started goes, with its wait for its hook, or gives back what it has acquired (R300,
R303, R392). -/
def takeBack (id : Nat) : Act := fun s =>
  match s.twin.requests.find? (fun r => r.id == id) with
  | none => []
  | some r =>
    Act.all [
      Act.of [.twin { s.twin with requests := s.twin.requests.filter (fun x => x.id != id) }],
      dropWaiters (fun w => match w with
        | .partner k _ => k == id
        | _ => false),
      (match r.hook, packetWait (r.packet.drop 2) with
        | .granted, some (k, v) => releaseHook k v.toNat (srcChute (id % 128)) true
        | _, _ => Act.none),
      sendTwin 12 id []] s

/-- A whole message of the partner, by its kind (notes/assumptions/17.md). Restart notices of members and landing digests have rows of
their own. -/
def twinMessage (kind : Nat) (value : Dword) (body : List Byte) : Act := fun s =>
  let slot := value.toNat % 16
  match kind with
  | 1 => Act.when (!orderer s && !s.twin.steppedOut) (orderedPacket value body) s
  | 2 => numbered value (fieldLE body 0 8) s
  | 3 => partnerReply value (parseReply body) s
  | 4 => Act.when (orderer s)
      (fun s => [.twin { s.twin with
        requests := s.twin.requests ++ [⟨value.toNat, toLE 2 (fieldLE body 0 2) ++ (splitBody body).1, (splitBody body).2, .idle, 0, 0⟩] }]) s
  | 5 => Act.when (!s.twin.steppedOut) (partnerWrite value body) s
  | 6 => Act.when (s.paired && orderer s) (orderMark (value.toNat % 8) false) s
  | 8 => Act.when s.paired (withRun slot (fun _ q => Act.when q.active (restartJob slot 0 false Act.none))) s
  | 9 => Act.all [stepOutAct false, leftMarks, leftWrites] s
  | 10 =>
    if value.toNat = 2 then Act.when s.twin.steppedOut leaveTwin s
    else Act.when s.paired (Act.seq (Act.of [.twin { s.twin with partnerBusy := some (value.toNat == 1) }]) tryRelease) s
  | 11 => Act.when (orderer s) (takeBack value.toNat) s
  | 12 => [.twin { s.twin with asked := s.twin.asked.filter (fun a => a.id != value.toNat) }]
  | 13 => Act.when s.paired (match parseWork body with
    | none => Act.none
    | some w => Act.seq (writeNumbered value w) drainAll) s
  | _ => []

/-- TWIN (R328, R391 to R397): the message leaves the port's buffer; a body of several messages is complete with the last one. -/
def execTwin (port : LinkId) (kind : Byte) (value : Dword) (body : TwinBody) (s : State) :
    Host.Outcome State Fault Refusal :=
  Act.run (fun s =>
    let own : Bool := s.twin.bound && (port.val == 7 || port.val == 15)
    if !clocked s then []
    else Act.seq (takeMessage port (.twin kind.toNat value.toNat body.more body.data))
      (if kind.toNat = 0 then twinIdentity port.val value.toNat
        else if !own then Act.none
        else if body.more then fun s => [.twin { s.twin with part := s.twin.part ++ body.data }]
        else Act.seq (fun s => [.twin { s.twin with part := [] }]) (twinMessage kind.toNat value (s.twin.part ++ body.data))) s) s

end Sys2Proof.Machine
end

