-- ==== Sys2Proof/Machine/Intake.lean ====
section
/-! DEFINITION. Sys2Proof/Machine/Intake.lean: how packets leave their chutes: heads (R283, R284), hooks and order (R288), reply space
(R285), waits for resets (R298), classes, rounds and promotion (R297, R306, R315), and the start (R287, R292, R392). -/
namespace Sys2Proof.Machine

/-! ### Heads of chutes (R283, R284, R420) -/

/-- Whether packets of a port are fetched: a reference clock runs, READY is 1 and the port's DMA runs (R23, R403, R415, R298). -/
def canFetch (s : State) (p : Nat) : Bool :=
  clocked s && s.status.ready && (s.port p).dlUp && !(s.port p).perst && !(s.port p).d3hot && !inReset s (srcPort p)

/-- Entry `k` after the head. -/
def entryBytes (s : State) (i k : Nat) : List Byte :=
  let c := s.chute i
  hostBytes s (i / 64) (64 * c.ringBase.toNat + 64 * ((c.head.toNat + k) % 2 ^ c.log2N.toNat)) 64

/-- Entries that the tail covers, at most N (R284). -/
def Chute.available (c : Chute) : Nat := min (c.tail - c.head).toNat (2 ^ c.log2N.toNat)

/-- The packet at the head of a chute, once the tail covers it: the entries that it occupies and its bytes (R283). -/
def headPacket (s : State) (i : Nat) : Option (Nat × List Byte) :=
  let c := s.chute i
  let n := packetEntries c (entryBytes s i 0)
  if !c.enable || !canFetch s (i / 64) || inReset s (srcChute i) then none
  else if !c.fetched.isEmpty then some (packetEntries c c.fetched, c.fetched)
  else if c.available < max n 1 then none
  else some (n, (List.range n).flatMap (entryBytes s i))

/-- The core whose shelf a device range starts in (R65), or the ports over which the range's device is reached where no route is left
without those in reset (R298, R333). -/
def rangeFunctions (s : State) (a : Dword) (n : Nat) : List Nat :=
  let dev := domainDevice a.toNat
  if n = 0 then []
  else if isLocal s a.toNat then ((shelfCore (localPart a.toNat)).map srcCore).toList
  else if reachable s dev then []
  else match s.member with
    | none => []
    | some d => match d.place dev with
      | none => []
      | some (g, k) => (if g = d.myGroup then groupPorts d.myPosition k else [7, 15]).map srcLink

/-- The engine of a stream. -/
def streamFunctions (s : State) (sid : Word) : List Nat := ((s.stream (sid.toNat % 256)).engine.map (fun e => srcEngine e.val)).toList

/-- What a command uses that a reset may hold it back for, as function IDs: a plan slot, a link port, a codec engine, a core's shelf
(R298). -/
def usedFunctions (s : State) : Instr → List Nat
  | .loadPlan _ _ _ slot => [srcSlot slot.toNat]
  | .unloadPlan _ slot => [srcSlot slot.toNat]
  | .saveContext _ dev len slot target => srcSlot slot.toNat :: (if target = 1 then rangeFunctions s dev len.toNat else [])
  | .restoreContext _ dev len slot source => srcSlot slot.toNat :: (if source = 1 then rangeFunctions s dev len.toNat else [])
  | .run _ slot _ => [srcSlot slot.toNat]
  | .pause _ slot => [srcSlot slot.toNat]
  | .resume _ slot => [srcSlot slot.toNat]
  | .abort _ slot => [srcSlot slot.toNat]
  | .seedStreams _ slot _ _ => [srcSlot slot.toNat]
  | .linkConfigure _ port _ _ => [srcLink port.toNat]
  | .domainJoin h len host =>
    ((parseDomain (hostBytes s h.port host.toNat (min len.toNat 1088)) len.toNat).map (fun d => d.ports.map srcLink)).getD []
  | .twinBind _ _ => [srcLink 7, srcLink 15]
  | .twinRelease _ => [srcLink 7, srcLink 15]
  | .streamOpen h host _ => ((leastLoaded s ((parseStream (hostBytes s h.port host.toNat 128)).engines s)).map srcEngine).toList
  | .streamSubmit _ sid _ _ => streamFunctions s sid
  | .streamClose _ sid => streamFunctions s sid
  | .ringHead _ sid _ => streamFunctions s sid
  | .rate _ sid _ _ _ _ _ => streamFunctions s sid
  | .forceKey _ sid => streamFunctions s sid
  | .flush _ sid => streamFunctions s sid
  | .rebind _ sid _ _ => streamFunctions s sid
  | .hold _ sid _ => streamFunctions s sid
  | .unhold _ sid _ => streamFunctions s sid
  | .releaseOut _ sid _ => streamFunctions s sid
  | .setLong _ sid _ _ => streamFunctions s sid
  | .clearLong _ sid _ _ => streamFunctions s sid
  | .writeMem _ dev _ len => rangeFunctions s dev len.toNat
  | .readMem _ dev _ len => rangeFunctions s dev len.toNat
  | .fillMem _ dev len _ => rangeFunctions s dev len.toNat
  | .copyMem _ src dst len => rangeFunctions s src len.toNat ++ rangeFunctions s dst len.toNat
  | _ => []

/-- Whether a packet waits for a reset of what its command uses (R298). -/
def waitsReset (s : State) : Parsed → Bool
  | .command i => (usedFunctions s i).any (fun f => decide (f < 65536) && inReset s f)
  | .refused _ => false

/-- Room for one more reply, beside those owed (R285). -/
def Chute.hasRoom (c : Chute) : Bool :=
  decide (c.owed + 1 + (c.replyIndex - c.replyHead).toNat ≤ 2 ^ c.log2Replies.toNat)

/-- Whether ORDERED holds a packet back (R288). -/
def orderHolds (c : Chute) (b : List Byte) : Bool := bit (fieldLE b 3 1) 3 && decide (0 < c.owed)

/-- The header that a packet of chute `i` has. -/
def ownHdr (s : State) (i : Nat) (b : List Byte) : Hdr :=
  packetHdr (Fin.ofNat 2 (i / 64)) (Fin.ofNat 64 (i % 64)) (s.chute i).epoch none b

/-- The command of a packet of chute `i`. -/
def ownPacket (s : State) (i : Nat) (b : List Byte) : Parsed := parsePacket (ownHdr s i b) b (fun a n => hostBytes s (i / 64) a n)

/-- Whether both twins are to run the packet of chute `i` (R392). -/
def packetShared (s : State) (i : Nat) (b : List Byte) : Bool :=
  match ownPacket s i b with
  | .command c => sharedInstr c
  | .refused _ => false

/-- Whether the twin that orders the pair is to start this packet (R392). -/
def goesToPartner (s : State) (i : Nat) (b : List Byte) : Bool := follower s && packetShared s i b

/-- ID of a forwarded packet: its chute and the chute's enabling. -/
def askId (i : Nat) (c : Chute) : Nat := i + 128 * c.epoch

/-- Whether the head of a chute has been forwarded and waits for its number. -/
def isAsked (s : State) (i : Nat) : Bool := s.twin.asked.any (fun a => a.id == askId i (s.chute i))

/-! ### Waiting for hooks, and forwarding (R288, R392) -/

/-- A head that passes its checks joins its hook's queue; one that the partner orders is forwarded (R288, R299, R392). -/
def offer (i : Nat) : Act := fun s =>
  let c := s.chute i
  match headPacket s i with
  | none => []
  | some (_, b) =>
    if (packetRefused s b).isSome || isAsked s i then []
    else if goesToPartner s i b then
      if orderHolds c b || !c.hasRoom || waitsReset s (ownPacket s i b) then []
      else match ownPacket s i b with
        | .refused _ => []
        | .command cmd =>
          Act.seq (Act.of [.twin { s.twin with asked := s.twin.asked ++ [⟨askId i c, ownHdr s i b, b⟩] }, .chute i { c with fetched := b }])
            (sendTwin 4 (askId i c) (packetBody s (ownHdr s i b) b cmd)) s
    else match packetWait b with
      | none => []
      | some (k, v) =>
        if c.granted.isSome || c.blocked then []
        else Act.seq (Act.of [.chute i { c with
            blocked := true
            fetched := b }])
          (acquireHook k (.packet (Fin.ofNat 2 (i / 64)) (Fin.ofNat 64 (i % 64)) v)) s

/-- Chutes that are enabled, in the order of the round. -/
def openChutes (s : State) : List Nat := (s.chutes.filter (fun x => x.2.enable && decide (x.1 < 128))).map (·.1)

/-- Every head is offered. -/
def offerAll : Act := fun s => Act.each offer (openChutes s) s

/-- Whether a head may start but for its reply: it has failed its checks, or has its hook, its turn and no reset to wait for. -/
def mayLeave (s : State) (i : Nat) : Bool :=
  let c := s.chute i
  match headPacket s i with
  | none => false
  | some (_, b) =>
    !isAsked s i
    && ((packetRefused s b).isSome
      || (!goesToPartner s i b && !s.twin.writes.any (fun x => x.1.val == i / 64) && !(s.twin.releasing.isSome && packetShared s i b) && ((packetWait b).isNone || c.granted.isSome) && !orderHolds c b && !waitsReset s (ownPacket s i b)))

/-- STOPPED is 1 while a head is held for want of reply space (R285, R405). -/
def markStopped : Act := fun s =>
  ((openChutes s).filter (fun i => (s.chute i).stopped != (mayLeave s i && !(s.chute i).hasRoom))).map (fun i =>
    .chute i { s.chute i with stopped := mayLeave s i && !(s.chute i).hasRoom })

/-! ### The choice (R297, R306, R315) -/

/-- Whether a request of the partner may start. -/
def requestReady (s : State) (r : TwinRequest) : Bool :=
  ((packetWait (r.packet.drop 2)).isNone || r.hook == .granted) && s.twin.releasing.isNone
    && !(partnerInstr s.twin.order (fieldLE r.packet 0 1) (r.packet.drop 2)).any (fun i => waitsReset s (.command i))

/-- Where a request of the partner stands at intake: after the own chutes, by its chute (R392). -/
def TwinRequest.place (r : TwinRequest) : Nat := 128 + r.id % 128

/-- The request of the partner at a place of the intake. -/
def requestAt (s : State) (i : Nat) : Option TwinRequest := if i < 128 then none else s.twin.requests.find? (fun r => r.place == i)

/-- Startable heads: those of own chutes, and on the twin that orders the pair the partner's, which start as if they were its own (R392). -/
def startable (s : State) : List Nat :=
  (openChutes s).filter (fun i => mayLeave s i && (s.chute i).hasRoom)
    ++ (if orderer s then (s.twin.requests.filter (requestReady s)).map TwinRequest.place else [])

/-- Heads in the order in which they became startable. -/
def readyOrder (s : State) : List Nat :=
  let l := startable s
  s.intake.filter l.contains ++ l.filter (fun i => !s.intake.contains i)

/-- The class after promotions, which stop at INTERACTIVE (R315). -/
def classAt (cls promoted : Nat) : Nat := if cls ≤ 1 then cls else max 1 (cls - promoted)

/-- The class of a chute at intake. -/
def Chute.intakeClass (c : Chute) : Nat := classAt c.cls.toNat c.promoted

/-- Classes promoted, and the class, of a head (R297, R315). -/
def headPromoted (s : State) (i : Nat) : Nat := if i < 128 then (s.chute i).promoted else ((requestAt s i).map (·.promoted)).getD 0
def headClass (s : State) (i : Nat) : Nat :=
  if i < 128 then (s.chute i).intakeClass else ((requestAt s i).map (fun r => classAt (fieldLE r.packet 1 1) r.promoted)).getD 3

/-- The head that is next in the round from `start`. -/
def roundNext (start : Nat) (l : List Nat) : Option Nat :=
  match l.find? (fun i => decide (start ≤ i)) with
  | some i => some i
  | none => l.head?

/-- The head that is served next: of the highest class, round robin, behind a promoted head that became ready first (R297, R306,
R315). -/
def pickChute (s : State) (l : List Nat) : Option Nat :=
  let best := least (l.map (headClass s))
  let group := l.filter (fun i => headClass s i == best)
  let early := group.takeWhile (fun i => headPromoted s i == 0)
  if early.isEmpty then group.head?
  else roundNext (Tab.look 0 s.rounds best) ((List.range 256).filter early.contains)

/-- Passes and promotions of a head of class `cls` after one more dispatch that passes it over (R315). -/
def passedOver (s : State) (cls passes promoted : Nat) : Nat × Nat :=
  if patience s cls ≤ passes + 1 then (0, promoted + 1) else (passes + 1, promoted)

/-- Heads of lower classes are passed over (R315). -/
def passHeads (i : Nat) (l : List Nat) : Act := fun s =>
  let k := headClass s i
  let hit := l.filter (fun j => j != i && decide (k < headClass s j) && decide (1 < headClass s j))
  (hit.filter (fun j => decide (j < 128))).map (fun j =>
      let c := s.chute j
      let x := passedOver s (headClass s j) c.passes c.promoted
      .chute j { c with
        passes := x.1
        promoted := x.2 })
    ++ [.twin { s.twin with requests := s.twin.requests.map (fun r => if hit.contains r.place then
        let x := passedOver s (headClass s r.place) r.passes r.promoted
        { r with
          passes := x.1
          promoted := x.2 } else r) }]

/-! ### The start -/

/-- A packet that both twins run takes the next order number (R392). -/
def giveOrder (h : Hdr) (b : List Byte) (i : Instr) : Act := fun s =>
  let n := s.twin.order
  Act.seq (Act.of [.twin { s.twin with
      order := n + 1
      forwarded := s.twin.forwarded ++ [⟨h, n, none, none⟩] }])
    (sendTwin 1 n.toNat (packetBody s h b i)) s

/-- The packet at a chute's head starts, or completes with what it failed (R284, R287). -/
def startHead (i : Nat) : Act := fun s =>
  match headPacket s i with
  | none => []
  | some (n, b) =>
    let h := ownHdr s i b
    match packetRefused s b with
    | some r => Act.seq (passHead i n) (complete h r) s
    | none =>
      Act.all [passHead i n, bumpAct (srcHub (i / 64)) 2 1,
        (match ownPacket s i b with
          | .refused r => command h false (complete h r)
          | .command c => Act.seq (Act.when (orderer s && s.paired && sharedInstr c) (giveOrder h b c))
              (fun s => [.started (s.started ++ [c])]))] s

/-- The packets that the partner sent join their hooks' queues (R288, R392). -/
def offerRequests : Act := fun s =>
  Act.each (fun r : TwinRequest => fun s =>
    match packetWait (r.packet.drop 2), r.hook with
    | some (k, v), .idle =>
      Act.seq (Act.of [.twin { s.twin with
          requests := s.twin.requests.map (fun x => if x.id = r.id then { x with hook := .queued } else x) }])
        (acquireHook k (.partner r.id v)) s
    | _, _ => []) s.twin.requests s

/-- A packet of the partner starts: it takes the next order number, which the partner is told (R392). -/
def startRequest (r : TwinRequest) : Act := fun s =>
  let n := s.twin.order
  let b := r.packet.drop 2
  Act.seq (Act.of [.twin { s.twin with
      order := n + 1
      requests := s.twin.requests.filter (fun x => x.id != r.id) }])
    (Act.seq (sendTwin 2 n.toNat (toLE 8 r.id))
      (match partnerInstr n (fieldLE r.packet 0 1) b with
        | none => Act.none
        | some i => Act.seq (carry n i r.data) (fun s => [.started (s.started ++ [i])]))) s

/-- The packet that is served next starts. -/
def startOwn : Act := fun s =>
  let l := readyOrder s
  match pickChute s l with
  | none => [.intake l]
  | some i =>
    Act.all [Act.of [.intake l, .round (headClass s i) ((i + 1) % 256)], passHeads i l, (requestAt s i).elim (startHead i) startRequest] s

/-- PACKET_START (R287, R288, R297): the next startable packet starts. -/
def execPacketStart (s : State) : Host.Outcome State Fault Refusal :=
  Act.run (fun s =>
    if !s.power.rails || !s.status.ready then []
    else Act.all [leftWrites, drainAll, Act.when (orderer s) offerRequests, offerAll, markStopped, startOwn, offerAll, markStopped] s) s

/-- FETCH_FAILED (R417): the fetch of an entry at the head failed; the chute is reset and one record written. -/
def execFetchFailed (port : PortId) (chute : Fin 64) (host : Dword) (s : State) : Host.Outcome State Fault Refusal :=
  Act.run (fun s =>
    let i := chuteIx port chute
    let c := s.chute i
    let hit := (List.range c.available).any (fun k =>
      let a := 64 * c.ringBase.toNat + 64 * ((c.head.toNat + k) % 2 ^ c.log2N.toNat)
      decide (a ≤ host.toNat) && decide (host.toNat < a + 64))
    if !c.enable || !canFetch s port.val || inReset s (srcChute i) || !c.fetched.isEmpty || !hit then []
    else Act.seq (logAct 0x0305 (srcChute i) (toLE 8 host.toNat)) (beginReset (BitVec.ofNat 16 (srcChute i)) [] []) s) s

end Sys2Proof.Machine
end

