-- ==== Sys2Proof/Machine/Registers.lean ====
section
/-! DEFINITION. Sys2Proof/Machine/Registers.lean: what hosts reach through the BARs and the management paths: BAR0 registers (R401 to
R411), the BAR2 window (R404), the mailbox and the SMBus (R411), and configuration writes (R400, R412, R413). -/
namespace Sys2Proof.Machine

/-- Whether a port answers accesses: power is good, a reference clock runs, its link is up, it is not held in reset, and start-up has come to
its step 4 (R23, R399, R415, R419, R420). -/
def barOpen (s : State) (p : Nat) : Bool := clocked s && (s.port p).dlUp && !(s.port p).perst && !s.power.bootFailed

/-- A port changes. -/
def setPort (p : Nat) (f : Port → Port) : Act := fun s => [.port p (f (s.port p))]

/-! ### Chutes (R405, R406) -/

/-- TAIL (R284, R406). -/
def writeTail (i : Nat) (v : Word) : Act := fun s =>
  if (s.chute i).enable then [.chute i { s.chute i with tail := v }] else []

/-- REPLY_HEAD (R406): one ahead of REPLY_INDEX or behind the previous one is ignored and recorded; the space that it gives may end a
stop (R285). -/
def writeReplyHead (i : Nat) (v : Word) : Act := fun s =>
  let c := s.chute i
  if !c.enable then []
  else if c.replyIndex - c.replyHead < v - c.replyHead then [.ledger 0x0304 (srcChute i) (toLE 4 v.toNat)]
  else Act.seq (Act.of [.chute i { c with replyHead := v }]) markStopped s

/-- Whether the fields of a CHUTE_CFG entry lie in their ranges (R283, R285, R405). -/
def Chute.ok (c : Chute) : Bool :=
  decide (4 ≤ c.log2N.toNat) && decide (c.log2N.toNat ≤ 16) && decide (4 ≤ c.log2Replies.toNat) && decide (c.log2Replies.toNat ≤ 16)

/-- ENABLE = 1 on a disabled chute (R283, R405). -/
def Chute.enabled (c : Chute) : Chute :=
  if c.ok then { c with
    enable := true
    cfgBad := false
    blocked := false
    stopped := false
    head := 0
    tail := 0
    replyIndex := 0
    replyHead := 0
    owed := 0
    granted := none
    passes := 0
    promoted := 0
    fetched := [] }
  else { c with cfgBad := true }

/-- Which halves of a register a write covers, and the value by whole register. -/
structure RegWrite where
  lo : Bool
  hi : Bool
  value : Nat
  deriving DecidableEq, Repr

/-- Bits [h:l] of a register after a write, half by half (R401). -/
def RegWrite.field (w : RegWrite) (old h l : Nat) : Nat :=
  let cur := old * 2 ^ l
  let x := (if w.lo then w.value % 2 ^ 32 else cur % 2 ^ 32) + 2 ^ 32 * (if w.hi then w.value / 2 ^ 32 else cur / 2 ^ 32)
  bits x h l

/-- Whether a write covers bit `i` and has it 1. -/
def RegWrite.one (w : RegWrite) (i : Nat) : Bool := (if i < 32 then w.lo else w.hi) && bit w.value i

/-- Bytes +0x08 of a CHUTE_CFG entry (R405): the fields of a disabled chute, then ENABLE. DEDUCED: a chute that is being reset, by itself or
with its port, stays disabled till then (R303, R413; notes/assumptions/9.md). -/
def writeChuteControl (i : Nat) (w : RegWrite) : Act := fun s =>
  let c := s.chute i
  if c.enable then
    (if w.hi && !bit w.value 32 then beginReset (BitVec.ofNat 16 (srcChute i)) [] [] s else [])
  else
    let c1 := if w.lo then { c with
      log2N := BitVec.ofNat 5 (bits w.value 4 0)
      log2Replies := BitVec.ofNat 5 (bits w.value 12 8)
      cls := BitVec.ofNat 2 (bits w.value 17 16)
      vector := BitVec.ofNat 6 (bits w.value 29 24) } else c
    [.chute i (if w.one 32 && !inReset s (srcChute i) then c1.enabled else c1)]

/-- The other fields of a CHUTE_CFG entry. -/
def writeChuteBase (i : Nat) (reply : Bool) (w : RegWrite) : Act := fun s =>
  let c := s.chute i
  if c.enable then []
  else if reply then [.chute i { c with replyBase := BitVec.ofNat 64 (w.field c.replyBase.toNat 63 5) }]
  else [.chute i { c with ringBase := BitVec.ofNat 64 (w.field c.ringBase.toNat 63 6) }]

def execTail (port : PortId) (chute : Fin 64) (value : Word) (s : State) : Host.Outcome State Fault Refusal :=
  Act.run (fun s => if barOpen s port.val then writeTail (chuteIx port chute) value s else []) s

def execReplyHead (port : PortId) (chute : Fin 64) (value : Word) (s : State) : Host.Outcome State Fault Refusal :=
  Act.run (fun s => if barOpen s port.val then writeReplyHead (chuteIx port chute) value s else []) s

/-- CHUTE_ENABLE (R405): an 8-byte write to +0x08 with ENABLE = 1. -/
def execChuteEnable (port : PortId) (chute : Fin 64) (value : Dword) (s : State) : Host.Outcome State Fault Refusal :=
  Act.run (fun s => if barOpen s port.val then
    writeChuteControl (chuteIx port chute) ⟨true, true, (value ||| BitVec.ofNat 64 (2 ^ 32)).toNat⟩ s else []) s

/-- CHUTE_DISABLE (R405): the chute reset of class 0x5; a disabled chute stays as it is. -/
def execChuteDisable (port : PortId) (chute : Fin 64) (s : State) : Host.Outcome State Fault Refusal :=
  Act.run (fun s => if barOpen s port.val then writeChuteControl (chuteIx port chute) ⟨false, true, 0⟩ s else []) s

/-! ### Hooks and FUNC_RESET (R407, R408) -/

/-- A write to a hook's COUNT (R407): a release without a reply. -/
def writeHook (p hook v : Nat) : Act :=
  if hook < 64 then logAct 0x0303 (srcPort p) (toLE 2 hook)
  else if v = 0 then Act.none
  else pairedWrite (some (Fin.ofNat 2 p)) (.hook hook v (Fin.ofNat 2 p)) (releaseHook hook v (srcPort p) false)

def execHookRegisterWrite (port : PortId) (hook : BitVec 12) (value : Word) (s : State) : Host.Outcome State Fault Refusal :=
  Act.run (fun s => if barOpen s port.val then writeHook port.val hook.toNat value.toNat s else []) s

/-- GO of FUNC_RESET (R408): a stepped-out twin without a link refuses a plan slot's reset (R393). -/
def goReset (p : PortId) (fid : Half) : Act := fun s =>
  let shared := fid.toNat / 4096 == 6 && s.twin.bound
  let cut := shared && s.twin.steppedOut && !(s.up 7 || s.up 15)
  if (s.port p.val).resetBusy then []
  else if !unitOk s fid.toNat then setPort p.val (fun q => { q with resetRejected := true }) s
  else if cut then Act.seq (setPort p.val (fun q => { q with resetRejected := true })) (pairedWrite (some p) (.reset fid) Act.none) s
  else if shared && s.twin.steppedOut then pairedWrite (some p) (.reset fid) Act.none s
  else Act.seq (setPort p.val (fun q => { q with resetBusy := true }))
    (if shared then pairedWrite (some p) (.reset fid) (beginReset fid [] [p]) else beginReset fid [] [p]) s

/-- FUNC_RESET (R408): a write with GO = 1. -/
def execFuncReset (port : PortId) (fid : Half) (s : State) : Host.Outcome State Fault Refusal :=
  Act.run (fun s => if barOpen s port.val then Act.seq (setPort port.val (fun q => { q with fid := fid })) (goReset port fid) s else []) s

/-! ### The BAR2 window (R404) -/

/-- Bytes of a port's BAR2 (R400). -/
def Port.bar2Bytes (p : Port) : Nat := 2 ^ (30 + p.bar2Log2)

/-- APPLY (R404); while an FLR runs the window stays reset (R414). -/
def applyWindow (p : Nat) : Act := fun s =>
  let q := s.port p
  let a := 65536 * q.winBase.toNat
  let n := 65536 * q.winLength.toNat
  if n = 0 ∨ q.flrActive = true then [.port p { q with window := none }]
  else if decide (n ≤ q.bar2Bytes) && rangeOk s a n then [.port p { q with window := some (a, n) }]
  else [.port p { q with winBad := true }]

def execApply (port : PortId) (s : State) : Host.Outcome State Fault Refusal :=
  Act.run (fun s => if barOpen s port.val then applyWindow port.val s else []) s

/-- The part of a BAR2 access that lies in the window: local address and length. A shelf slot that has lost its core since APPLY is
unmapped (R65). -/
def windowPart (s : State) (p offset len : Nat) : Option (Nat × Nat) :=
  match (s.port p).window with
  | none => none
  | some (a, n) =>
    let m := min len (n - offset)
    if offset < n ∧ rangeOk s (a + offset) m = true then some (a + offset, m) else none

/-- The bytes that a BAR2 read of a local range returns: sealed ones as stored, tainted and uncorrectable ones as all ones (R404). -/
def windowBytes (s : State) (a n : Nat) : List Byte :=
  let bad := badWords s a n
  if touchesTaint s a then List.replicate n 0xFF
  else (memBytes s a n).mapIdx (fun i b => if bad.any (fun v => decide (v ≤ a + i) && decide (a + i < v + 8)) then 0xFF else b)

/-- The same at a port of the state. -/
def aerAct (p n : Nat) : Act := setPort p (fun q => q.internalErrors n)

/-- BAR2_READ (R404, R75). -/
def execBar2Read (port : PortId) (offset len : Nat) (s : State) : Host.Outcome State Fault Refusal :=
  Act.run (fun s =>
    let p := port.val
    if !barOpen s p then []
    else match windowPart s p offset len with
      | none => setPort p (fun q => { q with readData := List.replicate len 0xFF }) s
      | some (a, n) =>
        if touchesTaint s a then setPort p (fun q => { q with readData := List.replicate len 0xFF }) s
        else hostAccess (touchRange false a n) (fun s => Act.all [
          setPort p (fun q => { q with readData := windowBytes s a n ++ List.replicate (len - n) 0xFF }),
          meetRange a n, aerAct p (badWords s a n).length] s) s) s

/-- A BAR2 write of a local range (R75, R404). -/
def windowStore (p a : Nat) (d : List Byte) : Act := fun s =>
  hostAccess (touchRange true a d.length) (Act.seq (storeMem a d) (aerAct p (badPartial s a d.length).length)) s

/-- BAR2_WRITE (R404): what lies outside the window is discarded; a twin of a pair sends it to both (R393). -/
def execBar2Write (port : PortId) (offset : Nat) (data : List Byte) (s : State) : Host.Outcome State Fault Refusal :=
  Act.run (fun s =>
    let p := port.val
    if !barOpen s p then []
    else match windowPart s p offset data.length with
      | none => []
      | some (a, n) => pairedWrite (some port) (.mem a (data.take n)) (windowStore p a (data.take n)) s) s

/-! ### Management messages (R411, R448) -/

/-- Whether a message is well formed: MCTP control, or PLDM of type 0 or 2 (R411; header layouts PRESUMED from the DMTF's MCTP and PLDM
base specifications, notes/assumptions/20.md). -/
def messageOk (m : List Byte) : Bool :=
  decide (m.length ≤ 1024) && (match m with
    | t :: _ :: b :: rest =>
      (t &&& 0x7F) == 0 || ((t &&& 0x7F) == 1 && !rest.isEmpty && ((b &&& 0x3F) == 0 || (b &&& 0x3F) == 2))
    | _ => false)

/-- Whether a message reads a PLDM event: PollForPlatformEventMessage (notes/assumptions/20.md). -/
def readsEvent (m : List Byte) : Bool :=
  (m.getD 0 0 &&& 0x7F) == 1 && (m.getD 2 0 &&& 0x3F) == 2 && m.getD 3 0 == 0x0B

/-- Bytes of a response, which the spec leaves to the DMTF's documents: free (notes/assumptions/20.md). -/
def responseBytes (k : Nat) : List Byte := (List.range (Config.free k % 1024 + 1)).map (Config.freeByte k)

/-- Thresholds of a Tj sensor in m°C: warning, critical and fatal (R448). -/
def tjThresholds : List Nat := [95000, 105000, 110000]

/-- The sensor that a message reads: GetSensorReading, whose sensor ID is the number of R441 plus one (PRESUMED, the ID a DESIGN CHOICE:
notes/assumptions/20.md). -/
def readsSensor (m : List Byte) : Option Nat :=
  if m.length = 7 ∧ (m.getD 0 0 &&& 0x7F) = 1 ∧ (m.getD 2 0 &&& 0x3F) = 2 ∧ m.getD 3 0 = 0x11
  then some ((m.getD 4 0).toNat + 256 * (m.getD 5 0).toNat) else none

/-- The state of a sensor in PLDM's codes: normal, or above its upper warning, critical or fatal threshold (R448). -/
def sensorState (i : Nat) (v : Word) : Nat :=
  let n := (tjThresholds.filter (fun t : Nat => decide ((t : Int) ≤ signed 32 v.toNat))).length
  if i < 0x54 ∧ 0 < n then 7 + n else 1

/-- The answer to GetSensorReading: the reading that COUNTER_READ gives, a signed 32-bit one (R441); what PLDM reports of events and of
the state before is free. -/
def sensorAnswer (s : State) (m : List Byte) (id : Nat) : List Byte :=
  let head := m.getD 0 0 :: (m.getD 1 0 &&& 0x7F) :: (m.drop 2).take 2
  if id = 0 ∨ isSensor (0xC000 * 65536 + (id - 1)) = false then head ++ [0x80]
  else
    let r := s.sensor (id - 1)
    head ++ [0, 5, 0, Config.freeByte s.free 0, BitVec.ofNat 8 (sensorState (id - 1) r.reading), Config.freeByte s.free 1,
      Config.freeByte s.free 2] ++ toLE 4 r.reading.toNat

/-- The response to a message: a sensor's reading where it asks for one (R441), else bytes that the spec leaves to the DMTF's documents. -/
def answerOf (s : State) (m : List Byte) : List Byte :=
  match readsSensor m with
  | some id => sensorAnswer s m id
  | none => responseBytes s.free

/-- An event is read; MGMT_ALERT_N stays low while any is left (R448). -/
def readEvent : Act := fun s =>
  let left := s.mgmt.pldmEvents.drop 1
  [.mgmt { s.mgmt with pldmEvents := left }, .power { s.power with alert := !left.isEmpty }]

/-- The oldest message is served (R411). -/
def serveOne : Act := fun s =>
  match s.mgmt.queue with
  | [] => []
  | (who, m) :: rest =>
    let ok := messageOk m
    let r := answerOf s m
    Act.all [Act.of [.mgmt { s.mgmt with
        queue := rest
        responses := if who.isNone ∧ ok = true then s.mgmt.responses ++ [r] else s.mgmt.responses }, .fresh],
      Act.when (ok && readsEvent m) readEvent,
      (match who with
        | none => Act.none
        | some p => setPort p.val (fun q =>
            let b := { q.mailbox with busy := false }
            { q with mailbox := if ok then { b with
              responseReady := true
              respLength := BitVec.ofNat 12 r.length
              response := Tab.putAll 0 [] 0 r } else { b with error := true } }))] s

/-- Messages one at a time, in arrival order. -/
def serveAll : Nat → Act
  | 0 => Act.none
  | n + 1 => Act.seq serveOne (serveAll n)

/-- What the block does when no command waits: the stewards serve the oldest management message, if there is one (R411,
notes/assumptions/12.md). -/
def idle : Act := serveOne

/-- SEND of a mailbox (R411). -/
def sendMailbox (p : PortId) : Act := fun s =>
  let b := (s.port p.val).mailbox
  if b.busy then []
  else [.port p.val { s.port p.val with mailbox := { b with busy := true } },
    .mgmt { s.mgmt with queue := s.mgmt.queue ++ [(some p, if b.reqLength.toNat ≤ 1024 then Tab.lookAll 0 b.request 0 b.reqLength.toNat
      else List.replicate b.reqLength.toNat 0)] }]

/-- ABORT of a mailbox (R411): its message is abandoned. -/
def abortMailbox (p : PortId) : Act := fun s =>
  [.port p.val { s.port p.val with mailbox := { (s.port p.val).mailbox with busy := false } },
    .mgmt { s.mgmt with queue := s.mgmt.queue.filter (fun x => x.1 != some p) }]

def execMbSend (port : PortId) (s : State) : Host.Outcome State Fault Refusal :=
  Act.run (fun s => if barOpen s port.val then sendMailbox port s else []) s

def execMbAbort (port : PortId) (s : State) : Host.Outcome State Fault Refusal :=
  Act.run (fun s => if barOpen s port.val then abortMailbox port s else []) s

/-- SMBUS_MESSAGE (R411): messages that came before are served first. The management slave answers from step 4 of R419 (R443). -/
def execSmbusMessage (data : List Byte) (s : State) : Host.Outcome State Fault Refusal :=
  Act.run (fun s =>
    if !s.power.rails || s.power.bootFailed then []
    else Act.seq (Act.of [.mgmt { s.mgmt with queue := s.mgmt.queue ++ [(none, data)] }]) (serveAll (s.mgmt.queue.length + 1)) s) s

/-! ### BAR0 writes (R401 to R411) -/

/-- A write of 4 or 8 bytes at a register's offset. -/
def regWrite (offset : Nat) (eight : Bool) (v : Nat) : RegWrite :=
  if eight then ⟨true, true, v⟩
  else if offset % 8 = 0 then ⟨true, false, v % 2 ^ 32⟩ else ⟨false, true, v % 2 ^ 32 * 2 ^ 32⟩

/-- Writes to the STATUS block (R403). -/
def writeStatus (p : Nat) (o : Nat) (w : RegWrite) : Act := fun s =>
  let q := s.port p
  match o with
  | 0x18 => if w.lo then [.status { s.status with
      bgPatience := BitVec.ofNat 16 (bits w.value 31 16)
      bulkPatience := BitVec.ofNat 16 (bits w.value 15 0) }] else []
  | 0x20 => if w.lo then [.port p { q with
      evtEnable := bit w.value 8
      evtVector := BitVec.ofNat 6 (bits w.value 5 0) }] else []
  | 0x28 => if w.lo then [.port p { q with evtCause := q.evtCause &&& ~~~ BitVec.ofNat 4 (bits w.value 3 0) }] else []
  | 0x40 => [.port p { q with winBase := BitVec.ofNat 24 (w.field q.winBase.toNat 39 16) }]
  | 0x48 => [.port p { q with winLength := BitVec.ofNat 24 (w.field q.winLength.toNat 39 16) }]
  | 0x50 => Act.seq (Act.of (if w.one 8 then [.port p { q with winBad := false }] else [])) (Act.when (w.one 0) (applyWindow p)) s
  | _ => []

/-- Writes to a CHUTE_CFG entry (R405). -/
def writeChute (i o : Nat) (w : RegWrite) : Act :=
  match o with
  | 0x00 => writeChuteBase i false w
  | 0x08 => writeChuteControl i w
  | 0x10 => writeChuteBase i true w
  | _ => Act.none

/-- Writes to a doorbell page (R406). -/
def writeBell (i o : Nat) (w : RegWrite) : Act :=
  if !w.lo then Act.none
  else match o with
    | 0 => writeTail i (BitVec.ofNat 32 w.value)
    | 8 => writeReplyHead i (BitVec.ofNat 32 w.value)
    | _ => Act.none

/-- Writes to FUNC_RESET (R408). -/
def writeFuncReset (p : PortId) (w : RegWrite) : Act :=
  if !w.lo then Act.none
  else Act.seq (setPort p.val (fun q => { q with
      fid := BitVec.ofNat 16 (bits w.value 15 0)
      resetDone := q.resetDone && !bit w.value 18
      resetRejected := q.resetRejected && !bit w.value 19 }))
    (Act.when (bit w.value 16) (goReset p (BitVec.ofNat 16 (bits w.value 15 0))))

/-- Writes to the mailbox (R411). -/
def writeMailbox (p : PortId) (o : Nat) (w : RegWrite) : Act :=
  let put (f : Mailbox → Mailbox) : Act := setPort p.val (fun q => { q with mailbox := f q.mailbox })
  if o = 0 then Act.seq (Act.when (w.one 1) (abortMailbox p)) (Act.when (w.one 0) (sendMailbox p))
  else if o = 8 then put (fun b => { b with
    responseReady := b.responseReady && !w.one 1
    error := b.error && !w.one 2 })
  else if o = 0x10 then Act.when w.lo (put (fun b => { b with reqLength := BitVec.ofNat 12 (bits w.value 11 0) }))
  else if 0x1000 ≤ o ∧ o < 0x1400 then
    put (fun b => { b with
      request := Tab.putAll 0 b.request (o - 0x1000 + (if w.lo then 0 else 4))
        (if w.lo && w.hi then toLE 8 w.value else if w.lo then toLE 4 w.value else toLE 4 (w.value / 2 ^ 32)) })
  else Act.none

/-- A write to BAR0, by block (R401). -/
def bar0Write (p : PortId) (offset : Nat) (w : RegWrite) : Act :=
  let r := offset / 8 * 8
  let i (c : Nat) : Nat := 64 * p.val + c
  if 0x1000 ≤ r ∧ r < 0x1058 then writeStatus p.val (r - 0x1000) w
  else if 0x2000 ≤ r ∧ r < 0x3000 then writeChute (i ((r - 0x2000) / 64)) (r % 64) w
  else if 0x10000 ≤ r ∧ r < 0x50000 then writeBell (i ((r - 0x10000) / 4096)) (r % 4096) w
  else if 0x80000 ≤ r ∧ r < 0x88000 then Act.when w.lo (writeHook p.val ((r - 0x80000) / 8) (w.value % 2 ^ 32))
  else if r = 0x90000 then writeFuncReset p w
  else if r = 0xA0010 then Act.when w.lo (setPort p.val (fun q => { q with ledgerSelect := BitVec.ofNat 32 w.value }))
  else if r = 0xB0000 then Act.when w.lo (setPort p.val (fun q => { q with counterSelect := BitVec.ofNat 32 w.value }))
  else if 0xC0000 ≤ r ∧ r < 0xC2400 then writeMailbox p (r - 0xC0000) w
  else Act.none

/-- REGISTER_WRITE (R401): an aligned write of 4 or 8 bytes; one of any other size or alignment is discarded. -/
def execRegisterWrite (port : PortId) (offset : BitVec 24) (bytes : Nat) (value : Dword) (s : State) :
    Host.Outcome State Fault Refusal :=
  Act.run (fun s =>
    let o := offset.toNat
    if !barOpen s port.val || (bytes != 4 && bytes != 8) || o % bytes != 0 then []
    else bar0Write port o (regWrite o (bytes == 8) value.toNat) s) s

/-! ### BAR0 reads (R401 to R411), which change nothing -/

/-- Reference that hub `h` uses (R23, R403). -/
def refclkUsed (s : State) (h : Nat) : Nat := if (s.port h).refclk then 0 else if (s.port (1 - h)).refclk then 1 else 2

/-- A STATUS register (R403). -/
def statusWord (s : State) (p o : Nat) : Nat :=
  let q := s.port p
  let link (r : Port) : Nat := r.speed.toNat + 16 * r.width.toNat + 1024 * b2n r.flitMode + 2048 * b2n r.dlUp + 4096 * b2n r.flrActive
  match o with
  | 0x00 => b2n s.status.ready + 2 * b2n s.status.bootFallback + 4 * b2n s.status.cellarTestDone + 64 * refclkUsed s 0
      + 256 * refclkUsed s 1 + 2048 * b2n s.status.resetting
  | 0x08 => link (s.port 0)
  | 0x10 => link (s.port 1)
  | 0x18 => s.status.bulkPatience.toNat + 65536 * s.status.bgPatience.toNat
  | 0x20 => q.evtVector.toNat + 256 * b2n q.evtEnable
  | 0x28 => q.evtCause.toNat
  | 0x40 => 65536 * q.winBase.toNat
  | 0x48 => 65536 * q.winLength.toNat
  | 0x50 => 256 * b2n q.winBad + 512 * b2n q.window.isSome
  | _ => 0

/-- A CHUTE_CFG register (R405). -/
def chuteWord (c : Chute) (o : Nat) : Nat :=
  match o with
  | 0x00 => 64 * c.ringBase.toNat
  | 0x08 => c.log2N.toNat + 256 * c.log2Replies.toNat + 65536 * c.cls.toNat + 2 ^ 24 * c.vector.toNat + 2 ^ 32 * b2n c.enable
      + 2 ^ 33 * b2n c.cfgBad + 2 ^ 34 * b2n c.blocked + 2 ^ 35 * b2n c.stopped
  | 0x10 => 32 * c.replyBase.toNat
  | 0x18 => c.head.toNat + 2 ^ 32 * c.replyIndex.toNat
  | 0x20 => c.tail.toNat + 2 ^ 32 * c.replyHead.toNat
  | _ => 0

/-- The ledger record of a sequence number as it reads: zeros if it is not held (R409). -/
def ledgerEntry (s : State) (seq : Word) : List Byte :=
  match s.ledger.find? (fun r => r.seq == seq) with
  | some r => recordBytes r
  | none => List.replicate 32 0

/-- A LEDGER register (R409). -/
def ledgerWord (s : State) (p o : Nat) : Nat :=
  if o = 0 then (newest s).toNat + 2 ^ 32 * (oldest s).toNat
  else if o = 8 then 16384
  else if o = 0x10 then (s.port p).ledgerSelect.toNat
  else if 0x100 ≤ o ∧ o < 0x900 then
    fieldLE (ledgerEntry s ((s.port p).ledgerSelect + BitVec.ofNat 32 ((o - 0x100) / 32))) (o % 32) 8
  else 0

/-- A COUNTERS register (R410). -/
def counterWord (s : State) (p o : Nat) : Nat :=
  let id := (s.port p).counterSelect.toNat + (o - 0x100) / 8
  if o = 0 then (s.port p).counterSelect.toNat
  else if 0x100 ≤ o ∧ o < 0x900 ∧ id < 2 ^ 32 then fieldLE (counterBytes s id) 0 8
  else 0

/-- A mailbox register (R411). -/
def mailboxWord (b : Mailbox) (o : Nat) : Nat :=
  if o = 8 then b2n b.busy + 2 * b2n b.responseReady + 4 * b2n b.error + 65536 * b.respLength.toNat
  else if o = 0x10 then b.reqLength.toNat
  else if 0x1000 ≤ o ∧ o < 0x1400 then leNat (Tab.lookAll 0 b.request (o - 0x1000) 8)
  else if 0x2000 ≤ o ∧ o < 0x2400 then leNat (Tab.lookAll 0 b.response (o - 0x2000) 8)
  else 0

/-- The 64-bit register of BAR0 at an offset, as a port reads it (R401). -/
def bar0Word (s : State) (p offset : Nat) : Nat :=
  let r := offset / 8 * 8
  if r < 0x100 then fieldLE (identBytes s p) r 8
  else if 0x1000 ≤ r ∧ r < 0x1058 then statusWord s p (r - 0x1000)
  else if 0x2000 ≤ r ∧ r < 0x3000 then chuteWord (s.chute (64 * p + (r - 0x2000) / 64)) (r % 64)
  else if 0x80000 ≤ r ∧ r < 0x88000 then hookWord (s.hook ((r - 0x80000) / 8))
  else if r = 0x90000 then (s.port p).fid.toNat + 2 ^ 17 * b2n (s.port p).resetBusy + 2 ^ 18 * b2n (s.port p).resetDone
      + 2 ^ 19 * b2n (s.port p).resetRejected
  else if 0xA0000 ≤ r ∧ r < 0xA0900 then ledgerWord s p (r - 0xA0000)
  else if 0xB0000 ≤ r ∧ r < 0xB0900 then counterWord s p (r - 0xB0000)
  else if 0xC0000 ≤ r ∧ r < 0xC2400 then mailboxWord (s.port p).mailbox (r - 0xC0000)
  else 0

/-- What a read of BAR0 returns: aligned reads of 4 or 8 bytes, all ones otherwise (R401). -/
def bar0Read (s : State) (p offset n : Nat) : List Byte :=
  if (n = 4 ∨ n = 8) ∧ offset % n = 0 then slice (toLE 8 (bar0Word s p offset)) (offset % 8) n else List.replicate n 0xFF

/-! ### BAR4 and configuration space (R398 to R400, R412, R415 to R418, R420) -/

/-- A doubleword of BAR4: entries of the MSI-X table at 0x0000, and pending bits at 0x1000 (R400; the layout of both is PRESUMED from PCI
Express, notes/assumptions/9.md). -/
def bar4Word (q : Port) (offset : Nat) : Nat :=
  let v := offset / 16
  let e := Tab.look (0, 0) q.msixTable v
  if offset < 0x400 then
    match offset % 16 / 4 with
    | 0 => e.1.toNat % 2 ^ 32
    | 1 => e.1.toNat / 2 ^ 32
    | 2 => e.2.toNat
    | _ => b2n (q.msixMask.getLsbD v)
  else if offset / 4 = 0x400 then q.msixPending.toNat % 2 ^ 32
  else if offset / 4 = 0x401 then q.msixPending.toNat / 2 ^ 32
  else 0

/-- Capabilities of configuration space; every other one is absent (R398). -/
inductive Capability where
  | pciExpress | powerManagement | msix | aer | resizableBar | serialNumber | secondaryPciExpress | dataLinkFeature | physicalLayer16
  | physicalLayer32 | physicalLayer64 | laneMargining | flitLogging
  | sriov | ats | pasid | msi
  deriving DecidableEq, Repr

/-- Whether a port has a capability (R398). -/
def Capability.present : Capability → Bool
  | .sriov => false
  | .ats => false
  | .pasid => false
  | .msi => false
  | _ => true

/-- Items of configuration space (R398 to R400, R412, R415 to R418). -/
inductive CfgItem where
  | vendorId | deviceId | classCode | revisionId | headerType | interruptPin | serialNumber
  | capability (c : Capability)
  | functionLevelReset | payloadSupported | payload | readRequest | tagBits | outstandingReads | extendedTags | tenBitTags
  | relaxedOrdering | noSnoop | completionTimeout | busMaster | powerState | noSoftReset
  | msixTableSize | msixEnable | msixFunctionMask | bar2Size
  | aerStatus | aerMask | aerSeverity
  | linkSpeed | linkWidth | flitMode
  deriving DecidableEq, Repr

/-- What an item of a port's configuration space reads (R398): sizes in bytes, rates as in STATUS, the timeout as its range, 0 being the
default of 50 ms (R417). -/
def configItem (q : Port) : CfgItem → Nat
  | .vendorId => Config.vendorId.toNat
  | .deviceId => 0x0D20
  | .classCode => 0x120000
  | .revisionId => Config.stepping.toNat
  | .headerType => 0
  | .interruptPin => 0
  | .serialNumber => Config.serial.toNat
  | .capability c => b2n c.present
  | .functionLevelReset => 1
  | .payloadSupported => 512
  | .payload => 128 * 2 ^ q.maxPayload
  | .readRequest => 128 * 2 ^ q.maxRead
  | .tagBits => if q.flitMode then 14 else 10
  | .outstandingReads => 768
  | .extendedTags => b2n (!q.flitMode)
  | .tenBitTags => b2n (!q.flitMode)
  | .relaxedOrdering => b2n q.relaxedOrdering
  | .noSnoop => 0
  | .completionTimeout => q.completionTimeout
  | .busMaster => b2n q.busMaster
  | .powerState => if q.d3hot then 3 else 0
  | .noSoftReset => 0
  | .msixTableSize => 64
  | .msixEnable => b2n q.msixEnable
  | .msixFunctionMask => b2n q.msixMaskAll
  | .bar2Size => q.bar2Bytes
  | .aerStatus => b2n q.aerStatus
  | .aerMask => b2n q.aerMasked
  | .aerSeverity => b2n q.aerFatal
  | .linkSpeed => q.speed.toNat
  | .linkWidth => q.width.toNat
  | .flitMode => b2n q.flitMode

/-- The answer to a configuration read: none from a port that has not trained or is in reset, Configuration Request Retry Status until step 4
of start-up, and the item's value after it (R399, R419, R420). -/
inductive CfgAnswer where
  | silent | retry
  | value (v : Nat)
  deriving DecidableEq, Repr

def configRead (s : State) (p : Nat) (x : CfgItem) : CfgAnswer :=
  if barOpen s p then .value (configItem (s.port p) x)
  else if clocked s && (s.port p).dlUp && !(s.port p).perst then .retry
  else .silent

/-- Kinds of writes to host memory, and whether one carries Relaxed Ordering; none carries No Snoop (R416). -/
inductive HostWrite where
  | bulk | reply | producer | ledger | interrupt
  deriving DecidableEq, Repr

def Port.relaxed (q : Port) (w : HostWrite) : Bool := w == .bulk && q.relaxedOrdering

/-- CONFIGURATION_WRITE: a resize below WIN_LENGTH cuts the window; a vector that is pending and may be sent now is. Max_Payload_Size is at
most 512 B, Max_Read_Request_Size at most 4,096 B (R398). -/
def configure (p : Nat) : CfgWrite → Act
  | .bar2Size k => setPort p (fun q =>
      let q' := { q with bar2Log2 := k.val }
      { q' with window := q.window.map (fun x => (x.1, min x.2 q'.bar2Bytes)) })
  | .busMaster on => setPort p (fun q => { q with busMaster := on }.sendPending)
  | .relaxedOrdering on => setPort p (fun q => { q with relaxedOrdering := on })
  | .msixMask v m => setPort p (fun q =>
      let b : Dword := BitVec.ofNat 64 (2 ^ v.val)
      if m then { q with msixMask := q.msixMask ||| b } else { q with msixMask := q.msixMask &&& ~~~ b }.sendPending)
  | .msixMessage v a d => setPort p (fun q => { q with msixTable := Tab.put (0, 0) q.msixTable v.val (a, d) })
  | .msixControl on m => setPort p (fun q => { q with msixEnable := on, msixMaskAll := m }.sendPending)
  | .sizes w r => setPort p (fun q => { q with
      maxPayload := min w.val 2
      maxRead := r.val })
  | .completionTimeout r => setPort p (fun q => { q with completionTimeout := r.val })
  | .aerMask m => setPort p (fun q => { q with aerMasked := m })
  | .aerSeverity f => setPort p (fun q => { q with aerFatal := f })
  | .aerClear => setPort p (fun q => { q with aerStatus := false })

def execConfigurationWrite (port : PortId) (w : CfgWrite) (s : State) : Host.Outcome State Fault Refusal :=
  Act.run (fun s => if barOpen s port.val then configure port.val w s else []) s

end Sys2Proof.Machine
end

