-- ==== Sys2Proof/Machine/Startup.lean ====
section
/-! DEFINITION. Sys2Proof/Machine/Startup.lean: start-up (R419 to R422, R427), RESET_DEVICE (R304), a port's resets and reference clock
(R23, R413 to R415, R420), power and temperature (R446 to R449). -/
namespace Sys2Proof.Machine

/-! ### Boot (R419, R421, R424, R427) -/

/-- A bank fails verification at boot (R403, R436); which port its record names is not stated: free. -/
def rejectBank : Act := fun s =>
  Act.all [eventAct 3, logAct 0x0005 (srcPort (Config.free s.free % 2)) (toLE 1 2), Act.of [.fresh]] s

/-- The boot ROM's choice of a bank: the preferred one, the other, or the recovery steward (R421, R427). BOOT_FALLBACK is set as soon as the
other bank is tried (R421, notes/assumptions/49.md). What IDENT's FW_BANK and FW_DIGEST read under the recovery steward is not stated: free. -/
def bootBank : Act := fun s =>
  let pref := s.flash.preferB
  let load (b fallback : Bool) : Act := fun s => [
    .firmware ⟨b, BitVec.ofNat 32 (fieldLE (s.flash.bank b) 8 4), false, slice (s.flash.bank b) 48 64⟩,
    .status { s.status with bootFallback := fallback }]
  if s.flash.bankOk pref then load pref false s
  else if s.flash.bankOk (!pref) then Act.seq rejectBank (load (!pref) true) s
  else Act.all [rejectBank, rejectBank, fun s => [
    .firmware ⟨Config.free s.free % 2 == 1, 0, true, (List.range 64).map (Config.freeByte s.free)⟩,
    .status { s.status with bootFallback := true }, .fresh]] s

/-- The data of POWER_UP and DEVICE_RESET (R436). -/
def bootData (s : State) : List Byte :=
  toLE 4 s.firmware.version.toNat ++ toLE 1 (b2n s.firmware.bankB) ++ toLE 1 (b2n s.status.bootFallback)

/-- The start count advances at every power-up and RESET_DEVICE (R281). -/
def countStart : Act := fun s => [.flash { s.flash with startCount := s.flash.startCount + 1 }]

/-- The running image raises MIN_SVN once it has brought the device to READY (R424). -/
def raiseSvn : Act := fun s =>
  let b := s.flash.bank s.firmware.bankB
  if s.firmware.recovery || !bit (fieldLE b 14 1) 0 then []
  else [.flash { s.flash with minSvn := max s.flash.minSvn (fieldLE b 12 2) }]

/-- Steps 6 and 7 of R419: self-test, READY, READY_SET; the recovery steward runs no self-test (R427). -/
def becomeReady (failed : List CoreId) : Act := fun s =>
  Act.all [
    (if s.firmware.recovery then Act.none else Act.each (fun c => retireCore (coreIx c) 2) failed),
    fun s => [.status { s.status with
      ready := true
      resetting := false }],
    fun s => logAct 0x0003 0 (toLE 4 (goodCores s)) s,
    eventAct 0, raiseSvn] s

/-- A hub that fails its check twice: FAULT_N is asserted and READY stays 0 (R421). -/
def failBoot : Act := fun s => [.power { s.power with
  fault := true
  bootFailed := true }]

/-- A port trains at the highest rate and width that both ends support: x16, or x8 on lanes 0 to 7 or 8 to 15; one that cannot form x8 does
not train. Flit mode is used where the other end supports it (R399); that a link at 64 GT/s is in flit mode is PRESUMED from PCI Express
(notes/assumptions/4.md). -/
def Port.train (q : Port) (lanes : BitVec 16) (rate : Fin 3) (flit : Bool) : Port :=
  let all := lanes == BitVec.allOnes 16
  let half := lanes.extractLsb' 0 8 == BitVec.allOnes 8 || lanes.extractLsb' 8 8 == BitVec.allOnes 8
  if all || half then { q with
    dlUp := true
    width := if all then 16 else 8
    speed := BitVec.ofNat 4 (4 + rate.val)
    flitMode := flit || rate.val == 2 }
  else { q with dlUp := false }

/-- A port's data link: it trains while a reference clock is present and PERST is released, and stays up with them (R23, R399, R420). -/
def trainPorts : Act :=
  Act.each (fun p => fun s =>
    let q := s.port p
    let x := Config.hostLink p s.free
    if !((s.port 0).refclk || (s.port 1).refclk) || q.perst then [.port p { q with dlUp := false }]
    else if q.dlUp then []
    else [.port p (q.train x.1 x.2.1 x.2.2), .fresh]) [0, 1]

/-- Whether a Tj sensor reads at least a temperature in m°C (R441, R449). -/
def tjAtLeast (s : State) (t : Int) : Bool :=
  s.sensors.any (fun x => decide (x.1 < 0x54) && decide (t ≤ signed 32 x.2.reading.toNat))

/-- POWER_UP (R419 to R422, R446, R449): rails come up if nothing holds them off, the device boots and, with the rails up, reaches
READY. It also ends the start-up of State.reset and of RESET_DEVICE (notes/assumptions/1.md). -/
def execPowerUp (hubFails : Bool) (failed : List CoreId) (s : State) : Host.Outcome State Fault Refusal :=
  Act.run (fun s =>
    let w := s.power
    if w.rails then
      if s.status.ready || w.bootFailed then []
      else if hubFails then failBoot s
      else Act.all [(if s.status.resetting then Act.none else Act.seq countStart (fun s => logAct 0x0001 0 (bootData s) s)),
        becomeReady failed] s
    else if w.needLow || w.tripped then [.power { w with pwrEn := true }]
    else if w.afterTrip && tjAtLeast s 90000 then [.power { w with
      pwrEn := true
      tripped := true }]
    else Act.all [
      Act.of [.power { w with
        rails := true
        pwrEn := true
        inputOk := true
        fault := false
        afterTrip := false }],
      trainPorts, bootBank, countStart, fun s => logAct 0x0001 0 (bootData s) s,
      if hubFails then failBoot else becomeReady failed] s) s

/-! ### RESET_DEVICE (R304, R422) -/

/-- LINK_STATE records of the link ports that RESET_DEVICE disables (R334). -/
def logLinksOff : Act := fun s =>
  (s.links.filter (fun x => decide (x.2.state ≠ .disabled))).map (fun x =>
    .ledger 0x0400 (srcLink x.1) (toLE 1 x.2.state.code ++ toLE 1 0))

/-- RESET_DEVICE: DONE is written first; a bound twin steps out (R395); READY comes back with POWER_UP's last steps. -/
def execResetDevice (h : Hdr) (confirmation : Word) (s : State) : Host.Outcome State Fault Refusal :=
  (command h true (fun s =>
    if confirmation ≠ 0x0D200D20 then badField h 32 s
    else Act.all [finish h stDone, stepOutTell, logLinksOff, Act.of [.deviceReset], bootBank, countStart,
      fun s => logAct 0x0002 0 (bootData s) s] s)).run s

/-! ### FLR, PERST, D3hot and the reference clock (R23, R413 to R415, R420) -/

/-- A port's registers after an FLR: the link and pins stay; configuration writes that the PCI Express Base Specification undoes at an
FLR are undone (PRESUMED, notes/assumptions/4.md). -/
def Port.afterFlr (v : Port) : Port :=
  { Port.reset with
    bar2Log2 := v.bar2Log2
    dlUp := v.dlUp
    flitMode := v.flitMode
    width := v.width
    speed := v.speed
    perst := v.perst
    refclk := v.refclk
    d3hot := v.d3hot
    interrupts := v.interrupts
    aerMasked := v.aerMasked
    aerFatal := v.aerFatal
    aerStatus := v.aerStatus
    aerMessages := v.aerMessages
    aerErrors := v.aerErrors
    flrActive := true }

/-- An FLR of a port (R413, R414): it lasts until FUNCTION_RESET_COMPLETE of the port's DMA function, and ends a session of firmware
staging (R425). -/
def flrAct (p : PortId) : Act := fun s =>
  let fid : Half := BitVec.ofNat 16 (srcPort p.val)
  let mine := (s.chutes.filter (fun x => x.1 / 64 == p.val)).map (·.1)
  Act.all [
    Act.each resetChute mine,
    fun s => mine.map (fun i => .chute i { Chute.reset with epoch := (s.chute i).epoch }),
    resetDma p.val,
    fun s => Act.when (s.stage.any (fun x => x.port == p)) (Act.of [.stage none]) s,
    fun s => [.port p.val (s.port p.val).afterFlr,
      .mgmt { s.mgmt with queue := s.mgmt.queue.filter (fun x => x.1 != some p) },
      .resets ((s.resets.map (fun r => { r with ports := r.ports.filter (· != p) }))
        ++ (if s.resets.any (fun r => r.fid == fid) then [] else [⟨fid, [], []⟩]))]] s

/-- FLR (R413). -/
def execFlr (port : PortId) (s : State) : Host.Outcome State Fault Refusal :=
  Act.run (fun s => if !barOpen s port.val || (s.port port.val).flrActive then [] else flrAct port s) s

/-- PERST_ASSERT (R415): the FLR with a reset of configuration space and BAR2 size; the link goes down. -/
def execPerstAssert (port : PortId) (s : State) : Host.Outcome State Fault Refusal :=
  Act.run (fun s =>
    if (s.port port.val).perst then []
    else if !s.power.rails then setPort port.val (fun q => { q with perst := true }) s
    else Act.seq (flrAct port) (setPort port.val (fun q => { q with
      perst := true
      dlUp := false
      d3hot := false
      bar2Log2 := Port.reset.bar2Log2
      aerMasked := true
      aerFatal := true })) s) s

/-- PERST_DEASSERT (R420): the port may train. -/
def execPerstDeassert (port : PortId) (s : State) : Host.Outcome State Fault Refusal :=
  Act.run (fun s =>
    if !(s.port port.val).perst then []
    else Act.seq (setPort port.val (fun q => { q with perst := false })) (Act.when s.power.rails trainPorts) s) s

/-- D3HOT_ENTRY (R415): DMA and packet fetch stop. -/
def execD3hotEntry (port : PortId) (s : State) : Host.Outcome State Fault Refusal :=
  Act.run (fun s => if barOpen s port.val then setPort port.val (fun q => { q with d3hot := true }) s else []) s

/-- D0_RETURN (R415): an FLR. -/
def execD0Return (port : PortId) (s : State) : Host.Outcome State Fault Refusal :=
  Act.run (fun s =>
    if !barOpen s port.val || !(s.port port.val).d3hot then []
    else Act.seq (setPort port.val (fun q => { q with d3hot := false })) (flrAct port) s) s

/-- REFCLK_LOSS (R23): the hub uses the other port's reference; with none, neither port's link is up. -/
def execRefclkLoss (port : PortId) (s : State) : Host.Outcome State Fault Refusal :=
  Act.run (fun s => Act.seq (setPort port.val (fun q => { q with refclk := false })) (Act.when s.power.rails trainPorts) s) s

/-- REFCLK_ARRIVAL (R23). -/
def execRefclkArrival (port : PortId) (s : State) : Host.Outcome State Fault Refusal :=
  Act.run (fun s => Act.seq (setPort port.val (fun q => { q with refclk := true })) (Act.when s.power.rails trainPorts) s) s

/-! ### Power (R446, R449) -/

/-- Every rail is removed (R446). -/
def powerDown (f : Power → Power) : Act :=
  Act.seq (Act.of [.powerLost]) (fun s => [.power (f { s.power with
    rails := false
    bootFailed := false
    alert := false })])

/-- PWR_EN_FALL (R446): FAULT_N stays as it is; the 100 ms that some causes ask for are over when PWR_EN rises again. -/
def execPwrEnFall (s : State) : Host.Outcome State Fault Refusal :=
  Act.run (fun s =>
    if s.power.rails then powerDown (fun w => { w with pwrEn := false }) s
    else [.power { s.power with
      pwrEn := false
      needLow := false }]) s

/-- A cause that asserts FAULT_N and asks for PWR_EN low (R446). -/
def faultDown (f : Power → Power) : Act := fun s =>
  if s.power.rails then powerDown (fun w => f { w with
    fault := true
    needLow := true }) s
  else [.power (f s.power)]

/-- INPUT_UNDERVOLTAGE (R446). -/
def execInputUndervoltage (s : State) : Host.Outcome State Fault Refusal := (faultDown (fun w => { w with inputOk := false })).run s

/-- INPUT_OVERVOLTAGE (R446). -/
def execInputOvervoltage (s : State) : Host.Outcome State Fault Refusal := (faultDown (fun w => { w with inputOk := false })).run s

/-- RAIL_FAULT (R446). -/
def execRailFault (s : State) : Host.Outcome State Fault Refusal := (faultDown id).run s

/-! ### Sensors (R441, R448, R449) -/

/-- Thresholds that a new reading crosses, in either direction (R448). -/
def crossed (old new : Word) : List Nat :=
  tjThresholds.filter (fun t => decide ((t : Int) ≤ signed 32 old.toNat) != decide ((t : Int) ≤ signed 32 new.toNat))

/-- A sensor takes a sample; a Tj sensor's crossings are PLDM events that assert MGMT_ALERT_N (R441, R448). -/
def sampleOne (i : Nat) (v : Word) : Act := fun s =>
  let old := s.sensor i
  let ev := if i < 0x54 ∧ s.power.rails = true then (crossed old.reading v).map (fun t => (i, t)) else []
  let top := decide (i < 0x54) && decide ((110000 : Int) ≤ signed 32 v.toNat)
  [.sensor i ⟨v, old.sample + 1⟩, .mgmt { s.mgmt with pldmEvents := s.mgmt.pldmEvents ++ ev },
    .power { s.power with
      alert := s.power.alert || !ev.isEmpty
      hot := if top then s.power.hot.filter (· != i) ++ [i] else s.power.hot.filter (· != i) }]

/-- A sensor that reads 110 °C or more on two consecutive samples trips (R449). -/
def tripIf (again : Bool) : Act := fun s =>
  if again && s.power.rails then powerDown (fun w => { w with
    fault := true
    needLow := true
    tripped := true
    afterTrip := true }) s
  else []

/-- SENSOR_SAMPLE (R441): new samples of sensors, in order. No row of the table carries what a bridge edge does: the monitor reports it here
(R376; DESIGN CHOICE, notes/assumptions/36.md). -/
def execSensorSample (sample : Sampling) (s : State) : Host.Outcome State Fault Refusal :=
  Act.run (Act.seq (Act.when s.power.rails (Act.each edgeSlots sample.edges)) (Act.each (fun x : Byte × Word => fun s =>
    let i := x.1.toNat
    let again := s.power.hot.contains i && decide (i < 0x54) && decide ((110000 : Int) ≤ signed 32 x.2.toNat)
    Act.seq (sampleOne i x.2) (tripIf again) s) sample.readings)) s

/-- THERM_TRIP_RELEASE (R449): PWR_EN has been low for 100 ms after a trip. -/
def execThermTripRelease (s : State) : Host.Outcome State Fault Refusal :=
  Act.run (fun s => if s.power.tripped && !s.power.pwrEn then [.power { s.power with
    tripped := false
    needLow := false }] else []) s

end Sys2Proof.Machine
end

