-- ==== Sys2Proof/Machine/Upkeep.lean ====
section
/-! DEFINITION. Sys2Proof/Machine/Upkeep.lean: the sweep (R76, R77, R316, R419), rails (R26 to R31), core rotation (R32, R33) and margin
probes (R317). -/
namespace Sys2Proof.Machine

/-! ### The sweep (R76, R77, R316) -/

/-- What the sweep takes slots of, by its key (`sweepKey`): a bank, or a core's shelf (R76). -/
def bankIx : BankId → Nat
  | .cellar t l b => 256 * t.val + 64 * l.val + b.val
  | .hub h b => 5120 + 64 * h.val + b.val
  | .shelf c => 5248 + coreIx c

/-- Offset within its bank or shelf of a held address (R63, R65, R376). -/
def bankOffset (a : Nat) : Nat :=
  if a < cellarEnd then a % tileBytes / 131072 * 512 + a % 512
  else if (shelfCore a).isSome then (a - shelfBase) % shelfSlot
  else (a - hubBase) % hubBytes % 0x400000

/-- Words with a stored error in slot `n` of a bank or shelf. -/
def slotWords (s : State) (k n : Nat) : List Nat :=
  (s.ecc.filter (fun x => x.2.isSome && sweepKey (8 * x.1) == some k && bankOffset (8 * x.1) / 96 == n)).map (·.1)

/-- A word that the sweep reads: a single-bit error is corrected and written back, an uncorrectable one is met (R74, R75, R76). -/
def sweepWord (w : Nat) : Act := fun s =>
  match Tab.look none s.ecc w with
  | some .single => Act.seq (Act.of [.ecc w none]) (eccCorrected w) s
  | _ => meetWord w s

/-- The sweep reads a slot. -/
def sweepRead (k n : Nat) : Act := fun s => Act.each sweepWord (slotWords s k n) s

/-- Whether the background test has tested a bank (R419). -/
def bankTested (s : State) (k : Nat) : Bool := Nat.testBit (Tab.look 0 s.testedBanks (k / 64)) (k % 64)

/-- Whether the background test may take a bank: READY is set, the bank has not been tested, the layer has a spare, and no bank of the
cellar is under test (R316, R419). -/
def mayTest (s : State) (k : Nat) : Bool :=
  decide (k < 5120) && s.status.ready && !s.status.tested && !bankTested s k && !(s.bank k).inPlace && decide (0 < bankSpares s k)
    && !s.banks.any (fun x => decide (x.1 < 5120) && x.1 / 256 == k / 256 && x.2.copy.any (·.2))

/-- One slot of a copy is done (R77); for a bank without one, the background test queues its copy (R316, R419). -/
def sweepCopy (k : Nat) : Act := fun s =>
  let b := s.bank k
  match b.copy with
  | some (n, t) =>
    if bankSlots k ≤ n then []
    else Act.seq (sweepRead k n) (fun s => [.bank k { s.bank k with copy := some (n + 1, t) }]) s
  | none => if mayTest s k then bankGrown k { b with copy := some (0, true) } else []

/-- A spare takes a bank index (R77). -/
def bankSwap (k : Nat) : Act := fun s =>
  let su := bankSource k
  [.bank k { s.bank k with
      copy := none
      health := Health.reset },
    .ledger 0x0103 su.1 (if k < 5120 then [BitVec.ofNat 8 (k % 256 / 64), BitVec.ofNat 8 (k % 64)] else [0, BitVec.ofNat 8 su.2])]

/-- The background test has done with a bank (R419). -/
def markTested (k : Nat) : Act := fun s =>
  if k < 5120 ∧ bankTested s k = false then
    [.testedBanks (k / 64) (Tab.look 0 s.testedBanks (k / 64) + 2 ^ (k % 64))]
  else []

/-- The test of a bank ends: it returns to service, or is sheeted and its spare stays in its place (R376, R419); where another bank has taken
the last spare meanwhile, it is sheeted in place (R377). -/
def testEnd (k : Nat) (pass : Bool) : Act := fun s =>
  let b := s.bank k
  let su := bankSource k
  let t := s.tile (k / 256)
  let h := s.hub ((k - 5120) / 64)
  if b.copy ≠ some (bankSlots k, true) then []
  else if pass then Act.seq (Act.of [.bank k { b with copy := none }]) (markTested k) s
  else if bankSpares s k = 0 then Act.seq (sheetInPlace k 2 { b with copy := none }) (markTested k) s
  else Act.seq (markTested k) (Act.seq (Act.of [.ledger 0x0101 su.1 (toLE 2 su.2 ++ [2]), sheetCount s,
    (if k < 5120 then .tile (k / 256) { t with bankSpares := t.bankSpares.modify (k % 256 / 64) (· - 1) }
      else .hub ((k - 5120) / 64) { h with spares := h.spares - 1 })]) (bankSwap k)) s

/-- What a slot does. -/
def sweepWork (k : Nat) : SweepWork → Act
  | .scrub => fun s =>
    let n := (s.bank k).sweepSlot
    Act.seq (sweepRead k n) (fun s => [.bank k { s.bank k with sweepSlot := (n + 1) % bankSlots k }]) s
  | .writeBack => fun s =>
    let b := s.bank k
    match b.writeBacks with
    | [] => []
    | w :: rest => .bank k { b with writeBacks := rest } :: (if Tab.look none s.ecc w = some .single then [.ecc w none] else [])
  | .copy => sweepCopy k
  | .test pass => testEnd k pass

/-- The sweep's access of a bank counts among the bank's operations (R376). -/
def sweepOp (k : Nat) : Act := fun s =>
  let b := s.bank k
  if k < 5248 then [.bank k { b with health := { b.health with ops := b.health.ops + 1 } }] else []

/-- SWEEP_SLOT (R76). A shelf is one piece: it has no spare, no test and no standing (R316, R376). -/
def execSweepSlot (bank : BankId) (work : SweepWork) (s : State) : Host.Outcome State Fault Refusal :=
  Act.run (fun s =>
    let k := bankIx bank
    if !s.power.rails then []
    else Act.seq (Act.when ((s.bank k).standing == .forced && decide (k < 5120)) (bumpAct (srcTile (k / 256)) 5 1))
      (Act.all [sweepOp k, sweepWork k work, retireCores]) s) s

/-- The standing that a debt gives (R316): forced is left for escalated, unless the debt is below T/2. -/
def nextStanding (old : Standing) (debt : Nat) : Standing :=
  match old with
  | .reserved => if 2 ^ 19 < debt then .escalated else .reserved
  | .escalated => if 2 ^ 20 ≤ debt then .forced else if debt < 2 ^ 18 then .reserved else .escalated
  | .forced => if debt < 2 ^ 18 then .reserved else if debt < 2 ^ 19 then .escalated else .forced

/-- Codes of the standings (R436). -/
def Standing.code : Standing → Nat
  | .reserved => 0
  | .escalated => 1
  | .forced => 2

/-- SWEEP_STANDING (R316): of a cellar bank. -/
def execSweepStanding (bank : BankId) (s : State) : Host.Outcome State Fault Refusal :=
  Act.run (fun s =>
    let k := bankIx bank
    let b := s.bank k
    let x := nextStanding b.standing (sweepDebt k b)
    if !s.power.rails || decide (5120 ≤ k) || b.standing == x then []
    else [.bank k { b with standing := x }, .ledger 0x0203 (srcTile (k / 256))
      [BitVec.ofNat 8 (k % 256 / 64), BitVec.ofNat 8 (k % 64), BitVec.ofNat 8 x.code]]) s

/-- BANK_SWAPPED (R77): the copy of a retiring bank is complete. -/
def execBankSwapped (bank : BankId) (s : State) : Host.Outcome State Fault Refusal :=
  Act.run (fun s => if (s.bank (bankIx bank)).copy = some (bankSlots (bankIx bank), false) then bankSwap (bankIx bank) s else []) s

/-- Whether the background test has tested every bank of every layer that has a spare for it (R419). -/
def allTested (s : State) : Bool :=
  (List.range 80).all (fun i => Tab.look 0 s.testedBanks i == 2 ^ 64 - 1 || (s.tile (i / 4)).bankSpares.getD (i % 4) 0 == 0)

/-- CELLAR_TEST_DONE (R419, R422): a layer without a spare has not been tested, and one record names it; after a RESET_DEVICE a test that
was over says so again. -/
def execCellarTestDone (s : State) : Host.Outcome State Fault Refusal :=
  Act.run (fun s =>
    if !s.power.rails || !s.status.ready || s.status.cellarTestDone || !(s.status.tested || allTested s) then []
    else .status { s.status with
        cellarTestDone := true
        tested := true } ::
      (if s.status.tested then [] else List.range 80).filterMap (fun i => if (s.tile (i / 4)).bankSpares.getD (i % 4) 0 = 0
        then some (.ledger 0x0006 (srcTile (i / 4)) (toLE 1 (i % 4))) else none)) s

/-! ### Rails (R26, R29 to R31) -/

/-- Source ID of a rail domain (R26, R437). -/
def railIx : RailId → Nat
  | .core c => srcCore (coreIx c)
  | .tile t => srcTile t.val
  | .codec e => srcEngine e.val
  | .coll h => srcColl h.val

/-- Whether a core holds work, and whether some of it is LIVE (R28, R29). -/
def coreWork (s : State) (c : Nat) : Bool := !(s.core c).busy.isEmpty || !(s.core c).laneRuns.isEmpty || s.fills.any (fun f => f.core == c)
def coreLive (s : State) (c : Nat) : Bool :=
  (s.core c).busy.any (fun b => (s.slot b.1).plan.any (fun p => p.cls == 0))

/-- Instructions and lane-program issues queued to a core, an issue for each instruction of each row left (R28). -/
def coreBacklog (s : State) (c : Nat) : Nat :=
  let k := s.core c
  ((k.busy.map (fun b => match recordCtx s b.1 b.2 with
    | some (x, q) => if q.bodyDone.contains b.2 then 0 else (x.issues c).length - k.array.count b.1 b.2
    | none => 0)).sum)
  + ((k.laneRuns.map (fun q => match (s.slot q.slot).plan with
    | some p => (q.lastRow - q.nextRow + q.rows.length) * (p.program (p.record q.record)).instrs.length
    | none => 0)).sum)

/-- Whether a domain's backlog reaches its raise level (R29): 2 instructions of a core, 64 requests of a cellar, 1 frame of a codec engine,
1 chunk of a collective engine. Requests that wait at a cellar are no state of the model: the row stands for them
(notes/assumptions/21.md). -/
def backlogged (s : State) : RailId → Bool
  | .core c => decide (2 ≤ coreBacklog s (coreIx c))
  | .tile _ => true
  | .codec e => s.streams.any (fun x => x.2.opened && x.2.engine == some e && !x.2.queue.isEmpty)
  | .coll h => !(s.coll h.val).chunks.isEmpty || !(s.coll h.val).dumbwaiters.isEmpty

/-- Whether a domain holds work (R28); a tile's cellar is asked for by its cores. -/
def domainWork (s : State) : RailId → Bool
  | .core c => coreWork s (coreIx c)
  | .tile t => (List.range 13).any (fun c => coreWork s (16 * t.val + c))
  | .codec e => s.streams.any (fun x => x.2.opened && x.2.engine == some e && (x.2.frame.isSome || !x.2.queue.isEmpty))
  | .coll h => !(s.coll h.val).chunks.isEmpty || !(s.coll h.val).dumbwaiters.isEmpty

/-- Whether a domain holds LIVE work (R29). -/
def domainLive (s : State) : RailId → Bool
  | .core c => coreLive s (coreIx c)
  | .tile t => (List.range 13).any (fun c => coreLive s (16 * t.val + c))
  | .codec e => s.streams.any (fun x => x.2.opened && x.2.engine == some e && x.2.desc.cls == 0 && (x.2.frame.isSome || !x.2.queue.isEmpty))
  | .coll h => (s.coll h.val).chunks.any (fun c => (s.slot c.slot).plan.any (fun p => p.cls == 0))

/-- Moves toward V_HI in the ramp (R30). -/
def ramping (s : State) : Nat := (s.rails.filter (fun x => x.2.ramping)).length

/-- Whether a rail command acts. -/
def railed (d : RailId) (f : RailState → Act) : Act := fun s => if s.power.rails then f (s.rail (railIx d)) s else []

/-- RAIL_RAISE (R29, R30): a domain whose backlog has reached its level, or that holds LIVE work, moves; a request beyond the 32 of a
ramp waits for the next. -/
def execRailRaise (d : RailId) (s : State) : Host.Outcome State Fault Refusal :=
  Act.run (railed d (fun r => fun s =>
    let x := railIx d
    if r.rail ≠ .vlo ∨ r.ramping = true ∨ s.ramps.contains x = true ∨ (backlogged s d || domainLive s d) = false then []
    else if 32 ≤ ramping s ∨ s.ramps ≠ [] then [.ramps (s.ramps ++ [x])]
    else [.rail x { r with ramping := true }])) s

/-- The next ramp admits the oldest 32 of the requests that wait (R30). -/
def nextRamp : Act := fun s =>
  if ramping s ≠ 0 then []
  else .ramps (s.ramps.drop 32) :: (s.ramps.take 32).map (fun x => .rail x { s.rail x with ramping := true })

/-- RAIL_RAISE_COMPLETE (R30). -/
def execRailRaiseComplete (d : RailId) (s : State) : Host.Outcome State Fault Refusal :=
  Act.run (railed d (fun r =>
    if !r.ramping then Act.none
    else Act.all [Act.of [.rail (railIx d) ⟨.vhi, false⟩], (match d with
      | .core c => bumpAct (srcCore (coreIx c)) 0x0D 1
      | _ => Act.none), nextRamp])) s

/-- RAIL_LOWER (R29): the backlog has stayed below the raise level, and no LIVE work is held. A cellar's backlog is the row's
(notes/assumptions/21.md). -/
def execRailLower (d : RailId) (s : State) : Host.Outcome State Fault Refusal :=
  Act.run (railed d (fun r => fun s =>
    let tile := match d with
      | .tile _ => true
      | _ => false
    if r.rail ≠ .vhi ∨ domainLive s d = true ∨ (!tile && backlogged s d) = true then [] else [.rail (railIx d) ⟨.vlo, false⟩])) s

/-- GATE (R29): the idle ring has turned 2^20 times with no work offered. -/
def execGate (d : RailId) (s : State) : Host.Outcome State Fault Refusal :=
  Act.run (railed d (fun r => fun s =>
    if r.rail ≠ .vlo ∨ r.ramping = true ∨ domainWork s d = true then []
    else [.rail (railIx d) ⟨.gated, false⟩, .ramps (s.ramps.filter (· != railIx d))])) s

/-- WAKE (R31): the domain returns to V_LO, with all its state. -/
def execWake (d : RailId) (s : State) : Host.Outcome State Fault Refusal :=
  Act.run (railed d (fun r => if r.rail ≠ .gated then Act.none else Act.of [.rail (railIx d) ⟨.vlo, false⟩])) s

/-! ### Core rotation (R32, R33) -/

/-- Good cores of a tile, by number. -/
def goodIn (s : State) (t : Nat) : List Nat := (List.range 13).filter (fun c => !(s.tile t).sheeted.getLsbD c)

/-- Those of them that serve positions. -/
def activeIn (s : State) (t : Nat) : List Nat :=
  (goodIn s t).filter (fun c => (s.tile t).positions.contains (some (16 * t + c)))

/-- ROTATION_DUE (R32): the tile's cores have completed 2^44 waves. Wear counts the waves that the spec's rules do not give to single
operations, so it grows by free numbers (notes/assumptions/21.md). -/
def execRotationDue (t : TileId) (s : State) : Host.Outcome State Fault Refusal :=
  Act.run (fun s =>
    if !s.power.rails || (s.tile t.val).rotationDue then []
    else .tile t.val { s.tile t.val with rotationDue := true } :: .fresh ::
      (goodIn s t.val).map (fun c => let i := 16 * t.val + c
        .core i { s.core i with wear := (s.core i).wear + Config.free s.free / 2 ^ c % 2 ^ 46 })) s

/-- One of several; which of equals is free. -/
def oneOf (k : Nat) (l : List Nat) : Option Nat :=
  match l with
  | [c] => some c
  | _ => l[Config.free k % l.length]?

/-- Cores of a list with the extreme wear. -/
def mostWorn (s : State) (t : Nat) (l : List Nat) : List Nat :=
  l.filter (fun c => l.all (fun d => decide ((s.core (16 * t + d)).wear ≤ (s.core (16 * t + c)).wear)))
def leastWorn (s : State) (t : Nat) (l : List Nat) : List Nat :=
  l.filter (fun c => l.all (fun d => decide ((s.core (16 * t + c)).wear ≤ (s.core (16 * t + d)).wear)))

/-- Whether a plan stands at a landing boundary (R32, R385): it does not run, or the landing before its step is the resume landing and no
record of the step has started. A fault in the exchange then resumes from that landing (R33). -/
def atBoundary (s : State) (n : Nat) : Bool :=
  match runOf s n with
  | none => true
  | some (p, q) => !q.active || (!q.landings.due && q.inFlight.isEmpty && p.landing.every != 0
      && q.step == q.landings.next * p.landing.every && q.landings.resume.any (fun x => x.1 == q.landings.next)
      && ((p.steps[q.step]?).getD []).all (fun r => !q.completed.contains r))

/-- Whether an exchange of two cores may start: nothing runs on them, no LIVE record is queued for them, and every plan with homes on
either, as both hand over their shelves, is at a landing boundary (R32). -/
def mayExchange (s : State) (a b : Nat) : Bool :=
  (s.core a).busy.isEmpty && (s.core b).busy.isEmpty
    && (waitingRecords s).all (fun x => x.2.2.1 != 0 || !(x.2.2.2.contains a || x.2.2.2.contains b))
    && s.plans.all (fun x => atBoundary s x.1
      || !((List.range x.2.homes).any (fun h => homeCore s x.2 h == some a || homeCore s x.2 h == some b)))

/-- ROTATION (R32): the active core with the highest wear and the good core with the lowest start to exchange their roles. -/
def execRotation (t : TileId) (s : State) : Host.Outcome State Fault Refusal :=
  Act.run (fun s =>
    let v := s.tile t.val
    if !s.power.rails || !v.rotationDue || v.spare.isNone || v.exchange.isSome then []
    else match oneOf s.free (mostWorn s t.val (activeIn s t.val)) with
      | none => []
      | some a => match oneOf (s.free + 1) (leastWorn s t.val ((goodIn s t.val).filter (· != a))) with
        | none => []
        | some b =>
          if !mayExchange s (16 * t.val + a) (16 * t.val + b) then [.fresh, .fresh]
          else [.tile t.val { v with exchange := some (Fin.ofNat 13 a, Fin.ofNat 13 b) }, .fresh, .fresh]) s

/-- Bytes of a shelf slot that are not 0: offset and value. -/
def shelfBytes (s : State) (c : Nat) : List (Nat × Byte) :=
  (s.mem.filter (fun x => decide (shelfBase + c * shelfSlot ≤ x.1) && decide (x.1 < shelfBase + (c + 1) * shelfSlot))).map (fun x =>
    (x.1 - (shelfBase + c * shelfSlot), x.2))

/-- Stored errors of a shelf slot: offset in words, and error. -/
def shelfErrors (s : State) (c : Nat) : List (Nat × Option Ecc) :=
  let w := (shelfBase + c * shelfSlot) / 8
  (s.ecc.filter (fun x => decide (w ≤ x.1) && decide (x.1 < w + shelfSlot / 8))).map (fun x => (x.1 - w, x.2))

/-- The shelf of core `b` takes the contents, the stored errors and the taint that core `a`'s had in state `old` (R32, R84). -/
def takeShelf (old : State) (a b : Nat) : List Eff :=
  let base := shelfBase + b * shelfSlot
  (shelfBytes old b).map (fun x => .mem (base + x.1) [0]) ++ (shelfBytes old a).map (fun x => .mem (base + x.1) [x.2])
    ++ (shelfErrors old b).map (fun x => .ecc (base / 8 + x.1) none) ++ (shelfErrors old a).map (fun x => .ecc (base / 8 + x.1) x.2)
    ++ [.taint b (Tab.look [] old.taint a)]

/-- Positions after two cores have exchanged them. -/
def swapPositions (a b : Nat) (l : List (Option Nat)) : List (Option Nat) :=
  l.map (fun p => if p = some a then some b else if p = some b then some a else p)

/-- ROTATION_COMPLETE (R32): the outgoing core's shelf and lane contexts are on the incoming core; an incoming core that was active hands
its own over in turn. -/
def execRotationComplete (t : TileId) (s : State) : Host.Outcome State Fault Refusal :=
  Act.run (fun s =>
    let v := s.tile t.val
    match v.exchange with
    | none => []
    | some (o, i) =>
      let a := 16 * t.val + o.val
      let b := 16 * t.val + i.val
      let both := v.spare != some i
      let ka := s.core a
      let kb := s.core b
      Act.all [wakeDomain (srcCore a), wakeDomain (srcCore b), fun s => takeShelf s a b ++ (if both then takeShelf s b a else [])
        ++ [.core b { kb with laneRuns := ka.laneRuns }, .core a { ka with laneRuns := kb.laneRuns }]
        ++ (List.range 20).filterMap (fun u => if u = t.val then none
            else some (.tile u { s.tile u with positions := swapPositions a b (s.tile u).positions }))
        ++ [.tile t.val { v with
            positions := swapPositions a b v.positions
            spare := if both then v.spare else some o
            rotationDue := false
            exchange := none },
          .ledger 0x0104 (srcTile t.val) [BitVec.ofNat 8 o.val, BitVec.ofNat 8 i.val]]] s) s

/-! ### Margin probes (R317) -/

/-- MARGIN_PROBE (R305, R317): of an idle good core, behind every record that is ready for it. -/
def execMarginProbe (c : CoreId) (s : State) : Host.Outcome State Fault Refusal :=
  Act.run (fun s =>
    let k := coreIx c
    if !s.power.rails || !goodCore s k || coreWork s k || inReset s (srcCore k) || (waitingRecords s).any (fun x => x.2.2.2.contains k) then []
    else Act.seq (wakeDomain (srcCore k)) (fun s => [.core k { s.core k with probe := true }]) s) s

/-- MARGIN_PROBE_COMPLETE (R317, R376): a probe that a LIVE record stopped has no result; one that fails counts as a failed retest. -/
def execMarginProbeComplete (c : CoreId) (passed : Bool) (s : State) : Host.Outcome State Fault Refusal :=
  Act.run (fun s =>
    let k := coreIx c
    if !(s.core k).probe then []
    else Act.seq (Act.of [.core k { s.core k with probe := false }]) (if passed then Act.none else retireCore k 2) s) s

end Sys2Proof.Machine
end

