-- ==== Sys2Proof/Machine/Dispatch.lean ====
section
/-! DEFINITION. Sys2Proof/Machine/Dispatch.lean: the meaning of each command, one arm for each constructor. -/
namespace Sys2Proof.Machine

-- The effect of a command on everything but the queue.
def exec (i : Instr) (s : State) : Host.Outcome State Fault Refusal :=
  match i with
  | .nop h => Sys2Proof.Machine.execNop h s
  | .identify h host => Sys2Proof.Machine.execIdentify h host s
  | .attest h host capacity nonce => Sys2Proof.Machine.execAttest h host capacity nonce s
  | .inventory h host capacity => Sys2Proof.Machine.execInventory h host capacity s
  | .writeMem h dev host len => Sys2Proof.Machine.execWriteMem h dev host len s
  | .readMem h dev host len => Sys2Proof.Machine.execReadMem h dev host len s
  | .fillMem h dev len pattern => Sys2Proof.Machine.execFillMem h dev len pattern s
  | .copyMem h src dst len => Sys2Proof.Machine.execCopyMem h src dst len s
  | .sealRegion h base size rid key => Sys2Proof.Machine.execSealRegion h base size rid key s
  | .unsealRegion h base => Sys2Proof.Machine.execUnsealRegion h base s
  | .installKey h host len key => Sys2Proof.Machine.execInstallKey h host len key s
  | .loadPlan h host len slot => Sys2Proof.Machine.execLoadPlan h host len slot s
  | .unloadPlan h slot => Sys2Proof.Machine.execUnloadPlan h slot s
  | .saveContext h addr capacity slot target => Sys2Proof.Machine.execSaveContext h addr capacity slot target s
  | .contextWritten slot => Sys2Proof.Machine.execContextWritten slot s
  | .restoreContext h addr len slot target => Sys2Proof.Machine.execRestoreContext h addr len slot target s
  | .run h slot src => Sys2Proof.Machine.execRun h slot src s
  | .pause h slot => Sys2Proof.Machine.execPause h slot s
  | .pauseComplete slot => Sys2Proof.Machine.execPauseComplete slot s
  | .resume h slot => Sys2Proof.Machine.execResume h slot s
  | .abort h slot => Sys2Proof.Machine.execAbort h slot s
  | .mark h src => Sys2Proof.Machine.execMark h src s
  | .hookAcquire h hook value => Sys2Proof.Machine.execHookAcquire h hook value s
  | .hookRelease h hook inc => Sys2Proof.Machine.execHookRelease h hook inc s
  | .hookSet h hook value => Sys2Proof.Machine.execHookSet h hook value s
  | .hookRead h hook => Sys2Proof.Machine.execHookRead h hook s
  | .streamOpen h host len => Sys2Proof.Machine.execStreamOpen h host len s
  | .streamSubmit h sid len host => Sys2Proof.Machine.execStreamSubmit h sid len host s
  | .ringHead h sid consumed => Sys2Proof.Machine.execRingHead h sid consumed s
  | .rate h sid bpf cap vbv qmin qmax => Sys2Proof.Machine.execRate h sid bpf cap vbv qmin qmax s
  | .forceKey h sid => Sys2Proof.Machine.execForceKey h sid s
  | .flush h sid => Sys2Proof.Machine.execFlush h sid s
  | .rebind h sid src depth => Sys2Proof.Machine.execRebind h sid src depth s
  | .streamClose h sid => Sys2Proof.Machine.execStreamClose h sid s
  | .hold h sid buffer => Sys2Proof.Machine.execHold h sid buffer s
  | .unhold h sid buffer => Sys2Proof.Machine.execUnhold h sid buffer s
  | .releaseOut h sid buffer => Sys2Proof.Machine.execReleaseOut h sid buffer s
  | .setLong h sid buffer lt => Sys2Proof.Machine.execSetLong h sid buffer lt s
  | .clearLong h sid buffer lt => Sys2Proof.Machine.execClearLong h sid buffer lt s
  | .linkConfigure h port len host => Sys2Proof.Machine.execLinkConfigure h port len host s
  | .domainJoin h len host => Sys2Proof.Machine.execDomainJoin h len host s
  | .twinBind h mode => Sys2Proof.Machine.execTwinBind h mode s
  | .twinRelease h => Sys2Proof.Machine.execTwinRelease h s
  | .tableLoad h host len => Sys2Proof.Machine.execTableLoad h host len s
  | .tableSelect h set => Sys2Proof.Machine.execTableSelect h set s
  | .tableBanksWritten => Sys2Proof.Machine.execTableBanksWritten s
  | .tableSwitchComplete => Sys2Proof.Machine.execTableSwitchComplete s
  | .seedStreams h slot seed advance => Sys2Proof.Machine.execSeedStreams h slot seed advance s
  | .ledgerRead h first count host => Sys2Proof.Machine.execLedgerRead h first count host s
  | .counterRead h first count host => Sys2Proof.Machine.execCounterRead h first count host s
  | .counterClear h first count => Sys2Proof.Machine.execCounterClear h first count s
  | .firmwareStage h host offset len => Sys2Proof.Machine.execFirmwareStage h host offset len s
  | .firmwareCommit h len => Sys2Proof.Machine.execFirmwareCommit h len s
  | .resetFunction h fid => Sys2Proof.Machine.execResetFunction h fid s
  | .functionResetComplete fid retestPass => Sys2Proof.Machine.execFunctionResetComplete fid retestPass s
  | .resetDevice h confirmation => Sys2Proof.Machine.execResetDevice h confirmation s
  | .tail port chute value => Sys2Proof.Machine.execTail port chute value s
  | .replyHead port chute value => Sys2Proof.Machine.execReplyHead port chute value s
  | .chuteEnable port chute value => Sys2Proof.Machine.execChuteEnable port chute value s
  | .chuteDisable port chute => Sys2Proof.Machine.execChuteDisable port chute s
  | .hookRegisterWrite port hook value => Sys2Proof.Machine.execHookRegisterWrite port hook value s
  | .funcReset port fid => Sys2Proof.Machine.execFuncReset port fid s
  | .apply port => Sys2Proof.Machine.execApply port s
  | .registerWrite port offset eight value => Sys2Proof.Machine.execRegisterWrite port offset eight value s
  | .bar2Read port offset len => Sys2Proof.Machine.execBar2Read port offset len s
  | .bar2Write port offset data => Sys2Proof.Machine.execBar2Write port offset data s
  | .mbSend port => Sys2Proof.Machine.execMbSend port s
  | .mbAbort port => Sys2Proof.Machine.execMbAbort port s
  | .smbusMessage data => Sys2Proof.Machine.execSmbusMessage data s
  | .packetStart => Sys2Proof.Machine.execPacketStart s
  | .fetchFailed port chute host => Sys2Proof.Machine.execFetchFailed port chute host s
  | .hostDataReadFailed h host => Sys2Proof.Machine.execHostDataReadFailed h host s
  | .recordDispatch slot record => Sys2Proof.Machine.execRecordDispatch slot record s
  | .recordComplete slot record => Sys2Proof.Machine.execRecordComplete slot record s
  | .product slot record => Sys2Proof.Machine.execProduct slot record s
  | .conv slot record => Sys2Proof.Machine.execConv slot record s
  | .pool slot record => Sys2Proof.Machine.execPool slot record s
  | .resample slot record => Sys2Proof.Machine.execResample slot record s
  | .elementwise slot record => Sys2Proof.Machine.execElementwise slot record s
  | .normalise slot record => Sys2Proof.Machine.execNormalise slot record s
  | .rotary slot record => Sys2Proof.Machine.execRotary slot record s
  | .draw slot record => Sys2Proof.Machine.execDraw slot record s
  | .attend slot record => Sys2Proof.Machine.execAttend slot record s
  | .append slot record => Sys2Proof.Machine.execAppend slot record s
  | .pflush slot record => Sys2Proof.Machine.execPflush slot record s
  | .lane slot record => Sys2Proof.Machine.execLane slot record s
  | .sum slot record => Sys2Proof.Machine.execSum slot record s
  | .move slot record => Sys2Proof.Machine.execMove slot record s
  | .arrayInstruction core slot record mblock nblock kchunk second faults => Sys2Proof.Machine.execArrayInstruction core slot record mblock nblock kchunk second faults s
  | .livePreempt core slot record => Sys2Proof.Machine.execLivePreempt core slot record s
  | .laneWorkUnitComplete u failures => Sys2Proof.Machine.execLaneWorkUnitComplete u failures s
  | .laneNop u => Sys2Proof.Machine.execLaneNop u s
  | .const u d c => Sys2Proof.Machine.execConst u d c s
  | .mov u d a => Sys2Proof.Machine.execMov u d a s
  | .idx u d c => Sys2Proof.Machine.execIdx u d c s
  | .fadd u d a b => Sys2Proof.Machine.execFadd u d a b s
  | .fsub u d a b => Sys2Proof.Machine.execFsub u d a b s
  | .fmul u d a b => Sys2Proof.Machine.execFmul u d a b s
  | .ffma u d a b c => Sys2Proof.Machine.execFfma u d a b c s
  | .fmin u d a b => Sys2Proof.Machine.execFmin u d a b s
  | .fmax u d a b => Sys2Proof.Machine.execFmax u d a b s
  | .fabs u d a => Sys2Proof.Machine.execFabs u d a s
  | .fneg u d a => Sys2Proof.Machine.execFneg u d a s
  | .badd u d a b => Sys2Proof.Machine.execBadd u d a b s
  | .bmul u d a b => Sys2Proof.Machine.execBmul u d a b s
  | .bfma u d a b c => Sys2Proof.Machine.execBfma u d a b c s
  | .iadd u d a b => Sys2Proof.Machine.execIadd u d a b s
  | .isub u d a b => Sys2Proof.Machine.execIsub u d a b s
  | .imul u d a b => Sys2Proof.Machine.execImul u d a b s
  | .imulh u d a b => Sys2Proof.Machine.execImulh u d a b s
  | .imin u d a b => Sys2Proof.Machine.execImin u d a b s
  | .imax u d a b => Sys2Proof.Machine.execImax u d a b s
  | .and u d a b => Sys2Proof.Machine.execAnd u d a b s
  | .or u d a b => Sys2Proof.Machine.execOr u d a b s
  | .xor u d a b => Sys2Proof.Machine.execXor u d a b s
  | .shl u d a b => Sys2Proof.Machine.execShl u d a b s
  | .shr u d a b => Sys2Proof.Machine.execShr u d a b s
  | .sar u d a b => Sys2Proof.Machine.execSar u d a b s
  | .xmac u d a b => Sys2Proof.Machine.execXmac u d a b s
  | .xrnd u d a => Sys2Proof.Machine.execXrnd u d a s
  | .fcmplt u d a b => Sys2Proof.Machine.execFcmplt u d a b s
  | .fcmple u d a b => Sys2Proof.Machine.execFcmple u d a b s
  | .fcmpeq u d a b => Sys2Proof.Machine.execFcmpeq u d a b s
  | .icmplt u d a b => Sys2Proof.Machine.execIcmplt u d a b s
  | .icmpeq u d a b => Sys2Proof.Machine.execIcmpeq u d a b s
  | .sel u d a b c => Sys2Proof.Machine.execSel u d a b c s
  | .cvt u d a b c => Sys2Proof.Machine.execCvt u d a b c s
  | .sfn u d a b c => Sys2Proof.Machine.execSfn u d a b c s
  | .rand u d a b c => Sys2Proof.Machine.execRand u d a b c s
  | .ld u d c => Sys2Proof.Machine.execLd u d c s
  | .st u a c => Sys2Proof.Machine.execSt u a c s
  | .rsum u d a => Sys2Proof.Machine.execRsum u d a s
  | .rmax u d a => Sys2Proof.Machine.execRmax u d a s
  | .rmin u d a => Sys2Proof.Machine.execRmin u d a s
  | .rwel u d a => Sys2Proof.Machine.execRwel u d a s
  | .pass u => Sys2Proof.Machine.execPass u s
  | .finish u => Sys2Proof.Machine.execFinish u s
  | .sweepSlot bank work => Sys2Proof.Machine.execSweepSlot bank work s
  | .sweepStanding bank => Sys2Proof.Machine.execSweepStanding bank s
  | .bankSwapped bank => Sys2Proof.Machine.execBankSwapped bank s
  | .cellarTestDone => Sys2Proof.Machine.execCellarTestDone s
  | .railRaise d => Sys2Proof.Machine.execRailRaise d s
  | .railRaiseComplete d => Sys2Proof.Machine.execRailRaiseComplete d s
  | .railLower d => Sys2Proof.Machine.execRailLower d s
  | .gate d => Sys2Proof.Machine.execGate d s
  | .wake d => Sys2Proof.Machine.execWake d s
  | .rotationDue t => Sys2Proof.Machine.execRotationDue t s
  | .rotation t => Sys2Proof.Machine.execRotation t s
  | .rotationComplete t => Sys2Proof.Machine.execRotationComplete t s
  | .marginProbe c => Sys2Proof.Machine.execMarginProbe c s
  | .jobRestart slot cause => Sys2Proof.Machine.execJobRestart slot cause s
  | .landing slot => Sys2Proof.Machine.execLanding slot s
  | .landingNotice port notice number digest => Sys2Proof.Machine.execLandingNotice port notice number digest s
  | .landingCopyComplete slot => Sys2Proof.Machine.execLandingCopyComplete slot s
  | .periodMark src low high => Sys2Proof.Machine.execPeriodMark src low high s
  | .periodStart slot => Sys2Proof.Machine.execPeriodStart slot s
  | .flitReceive port flit fec => Sys2Proof.Machine.execFlitReceive port flit fec s
  | .laneSignalLoss port lane => Sys2Proof.Machine.execLaneSignalLoss port lane s
  | .laneRetune port lane => Sys2Proof.Machine.execLaneRetune port lane s
  | .retuneComplete port lane prbsPass => Sys2Proof.Machine.execRetuneComplete port lane prbsPass s
  | .linkTrained port result => Sys2Proof.Machine.execLinkTrained port result s
  | .write port m => Sys2Proof.Machine.execWrite port m s
  | .read port m => Sys2Proof.Machine.execRead port m s
  | .data port m => Sys2Proof.Machine.execData port m s
  | .ack port m => Sys2Proof.Machine.execAck port m s
  | .domain port domainId number group position => Sys2Proof.Machine.execDomain port domainId number group position s
  | .twin port kind value body => Sys2Proof.Machine.execTwin port kind value body s
  | .stepOut own => Sys2Proof.Machine.execStepOut own s
  | .restartNotice port notice => Sys2Proof.Machine.execRestartNotice port notice s
  | .collectiveAdmit slot record => Sys2Proof.Machine.execCollectiveAdmit slot record s
  | .chunkBinAssign slot record chunk => Sys2Proof.Machine.execChunkBinAssign slot record chunk s
  | .sumMessage port m => Sys2Proof.Machine.execSumMessage port m s
  | .dwait port m => Sys2Proof.Machine.execDwait port m s
  | .frameStart stream => Sys2Proof.Machine.execFrameStart stream s
  | .blockRow engine failures => Sys2Proof.Machine.execBlockRow engine failures s
  | .unitEmit stream => Sys2Proof.Machine.execUnitEmit stream s
  | .frameComplete stream => Sys2Proof.Machine.execFrameComplete stream s
  | .flr port => Sys2Proof.Machine.execFlr port s
  | .perstAssert port => Sys2Proof.Machine.execPerstAssert port s
  | .perstDeassert port => Sys2Proof.Machine.execPerstDeassert port s
  | .d3hotEntry port => Sys2Proof.Machine.execD3hotEntry port s
  | .d0Return port => Sys2Proof.Machine.execD0Return port s
  | .refclkLoss port => Sys2Proof.Machine.execRefclkLoss port s
  | .powerUp hubFails failed => Sys2Proof.Machine.execPowerUp hubFails failed s
  | .pwrEnFall => Sys2Proof.Machine.execPwrEnFall s
  | .inputUndervoltage => Sys2Proof.Machine.execInputUndervoltage s
  | .inputOvervoltage => Sys2Proof.Machine.execInputOvervoltage s
  | .railFault => Sys2Proof.Machine.execRailFault s
  | .sensorSample sample => Sys2Proof.Machine.execSensorSample sample s
  | .shelfEpilogueFill c => Sys2Proof.Machine.execShelfEpilogueFill c s
  | .marginProbeComplete c passed => Sys2Proof.Machine.execMarginProbeComplete c passed s
  | .refclkArrival port => Sys2Proof.Machine.execRefclkArrival port s
  | .thermTripRelease => Sys2Proof.Machine.execThermTripRelease s
  | .configurationWrite port w => Sys2Proof.Machine.execConfigurationWrite port w s

end Sys2Proof.Machine
end

