-- ==== Sys2Proof/Safety.lean ====
section
/-! DEFINITION. Sys2Proof/Safety.lean: what every step keeps: the canonical form of every table, and the bounds that the
spec puts on registers, counters and the ledger. Then the terms in which the statements speak of what a command leaves. -/
namespace Sys2Proof.Machine

/-- Every sparse table is in canonical form, memories included. -/
structure State.Canonical (s : State) : Prop where
  mem : Memory.wf s.mem = true
  host : Memory.wf s.host = true
  ports : Tab.wf Port.reset s.ports = true
  chutes : Tab.wf Chute.reset s.chutes = true
  rounds : Tab.wf 0 s.rounds = true
  hooks : Tab.wf Hook.reset s.hooks = true
  marks : Tab.wf 0 s.marks = true
  ecc : Tab.wf none s.ecc = true
  regions : Tab.wf none s.regions = true
  keys : Tab.wf none s.keys = true
  taint : Tab.wf [] s.taint = true
  banks : Tab.wf Bank.reset s.banks = true
  tiles : Tab.wf Tile.none s.tiles = true
  edges : Tab.wf Edge.reset s.edges = true
  testedBanks : Tab.wf 0 s.testedBanks = true
  hubs : Tab.wf HubInv.reset s.hubs = true
  cores : Tab.wf Core.reset s.cores = true
  lanes : Tab.wf Lane.reset s.lanes = true
  rails : Tab.wf RailState.reset s.rails = true
  slots : Tab.wf Slot.reset s.slots = true
  links : Tab.wf Link.reset s.links = true
  colls : Tab.wf Coll.reset s.colls = true
  engines : Tab.wf Engine.reset s.engines = true
  streams : Tab.wf Stream.reset s.streams = true
  counters : Tab.wf Counter.reset s.counters = true
  sensors : Tab.wf Sensor.reset s.sensors = true

/-- The patience of neither class is ever 0: a write of 0 is ignored (R403). -/
def State.Patient (s : State) : Prop := s.status.bgPatience ≠ 0 ∧ s.status.bulkPatience ≠ 0

/-- No counter passes its largest value, and one that has stuck there reads it (R439). -/
def State.Counted (s : State) : Prop := ∀ x ∈ s.counters, x.2.value ≤ counterMax

/-- The ledger holds at most 16,384 records, numbered without gaps back from the next number (R433). -/
def State.Recorded (s : State) : Prop :=
  s.ledger.length ≤ 16384 ∧ ∀ i (r : LedgerRec), s.ledger[i]? = some r → r.seq = s.ledgerNext - 1 - BitVec.ofNat 32 i

/-- Hooks 0x000 to 0x03F, the steward firmware's, hold nothing a host or plan put there (R299). -/
def State.StewardHooks (s : State) : Prop := ∀ x ∈ s.hooks, 64 ≤ x.1 ∧ x.1 < 4096

/-- What every step keeps. -/
structure State.Inv (s : State) : Prop where
  canonical : s.Canonical
  patient : s.Patient
  counted : s.Counted
  recorded : s.Recorded
  steward : s.StewardHooks

/-! ### Terms of the statements -/

/-- The stewards serve a packet: the islands run (R23), recovery firmware serves the opcode, and the twin is not stepped out without a
link (R396, R427). -/
def Serves (s : State) (inRecovery : Bool) : Prop :=
  clocked s = true ∧ (s.firmware.recovery = true → inRecovery = true)
    ∧ ¬ (s.twin.bound = true ∧ s.twin.steppedOut = true ∧ s.twin.linkLost = true)

/-- The stewards serve a packet that moves host data: the DMA of its port runs (R415). -/
structure ServesHost (s : State) (h : Hdr) (inRecovery : Bool) : Prop where
  serves : Serves s inRecovery
  dma : dmaStopped s h = false

/-- A memory command that shares no byte with another in progress, nor with a run, in no order with it (R70, R293). -/
structure Undisturbed (s : State) (h : Hdr) (i : Instr) : Prop where
  commands : commandRaces s h i = []
  runs : runRaces s (commandTouches s i) = []

/-- The state once command `h` has completed with a reply (R289). -/
def afterReply (h : Hdr) (r : Reply) (s : State) : State := applyAll (complete h r s) s

/-- A packet of this device alone, whose reply can still reach its chute (R23, R303, R413). -/
structure Answerable (s : State) (h : Hdr) : Prop where
  clock : clocked s = true
  own : h.partner = none
  single : ∀ f ∈ s.twin.forwarded, f.hdr ≠ h
  alive : replyAlive s h = true

/-- A reply in its ring, with its interrupt (R285, R289, R291). -/
def replied (h : Hdr) (r : Reply) (s : State) : State :=
  let i := chuteIx h.port h.chute
  let c := s.chute i
  { s with
    host := putHost s.host h.port (32 * c.replyBase.toNat + 32 * (c.replyIndex.toNat % 2 ^ c.log2Replies.toNat))
      (replyBytes h (replyPhase c.replyIndex c.log2Replies.toNat) r)
    started := dropStarted h s.started
    chutes := Tab.put Chute.reset s.chutes i { c with
      owed := c.owed - 1
      replyIndex := c.replyIndex + 1 }
    ports := if h.interrupt then Tab.put Port.reset s.ports h.port ((s.port h.port).raise c.vector.toNat) else s.ports }

/-- A hook after a release of `i`, with the record of a release that would pass the largest count (R299). -/
def State.releasedHook (s : State) (k i src : Nat) : State :=
  let v := s.hook k
  let t := { s with hooks := Tab.put Hook.reset s.hooks k { v with count := releasedCount v.count i } }
  if overflows v.count i then t.log 0x0302 src (toLE 4 k ++ toLE 4 i) else t

/-- What completing a command never touches: everything but its reply, its hook, and what waits on that hook (records that it makes ready
among them). -/
def State.beyondReplies (s : State) : State :=
  { s with
    started := []
    ports := []
    chutes := []
    host := []
    hooks := []
    ready := []
    slots := []
    links := []
    twin := Twin.reset
    outbox := []
    held := []
    ledger := []
    ledgerNext := 0
    counters := [] }

/-- Bytes written to host memory by a command. -/
def State.withHost (s : State) (p : PortId) (a : Nat) (bs : List Byte) : State := { s with host := putHost s.host p a bs }

/-- A lane with a new content, and with one register written by an instruction (R171). -/
def State.withLane (s : State) (u : LaneId) (l : Lane) : State := { s with lanes := Tab.put Lane.reset s.lanes (laneIx u) l }
def State.withReg (s : State) (u : LaneId) (d : Reg) (v : Word) : State := s.withLane u ((s.lane (laneIx u)).set d.val v)

/-- A lane, and one of its registers. -/
def State.laneOf (s : State) (u : LaneId) : Lane := s.lane (laneIx u)
def State.reg (s : State) (u : LaneId) (r : Reg) : Word := (s.laneOf u).get r.val

/-- Other parts of the state after a write. -/
def State.withSlot (s : State) (n : Nat) (v : Slot) : State := { s with slots := Tab.put Slot.reset s.slots n v }
def State.withHook (s : State) (k : Nat) (v : Hook) : State := { s with hooks := Tab.put Hook.reset s.hooks k v }
def State.withPort (s : State) (p : Nat) (v : Port) : State := { s with ports := Tab.put Port.reset s.ports p v }
def State.withChute (s : State) (i : Nat) (v : Chute) : State := { s with chutes := Tab.put Chute.reset s.chutes i v }
def State.withStream (s : State) (i : Nat) (v : Stream) : State := { s with streams := Tab.put Stream.reset s.streams i v }
def State.withLink (s : State) (p : Nat) (v : Link) : State := { s with links := Tab.put Link.reset s.links p v }
def State.withCore (s : State) (c : Nat) (v : Core) : State := { s with cores := Tab.put Core.reset s.cores c v }
def State.withRail (s : State) (d : RailId) (v : RailState) : State := { s with rails := Tab.put RailState.reset s.rails (railIx d) v }
def State.withMem (s : State) (a : Nat) (bs : List Byte) : State := { s with mem := putMem s.mem a bs }

/-- A message handed to the links, and an answer to a message of another device (R328, R330). -/
def State.sending (s : State) (m : Sent) : State := applyAll (send m s) s
def State.answering (s : State) (kind : Nat) (m : Msg) (refused : Option Bool) (bs : List Byte) : State :=
  s.sending (.mem kind (answerMsg s kind m refused false bs))

/-- A message taken out of the receive buffer of a port (R325), and a message passed on from there (R332). -/
def State.took (s : State) (port : LinkId) (m : Sent) : State := applyAll (takeMessage port m s) s
def State.relaying (s : State) (port : LinkId) (m : Sent) : State := applyAll (relay port m s) s

/-- The records that have become ready take their places behind those that were (R306, R315). -/
def State.listed (s : State) : State := applyAll (noteReady s) s

/-- No core waits for its dust sheet (R378). -/
def CoresSound (s : State) : Prop := ∀ x ∈ s.cores, x.2.condemned = false ∧ x.2.failed = false

/-- A bank whose sweep slot has counted as one of its operations; a shelf counts none (R376). -/
def swept (k : Nat) (b : Bank) : Bank := if k < 5248 then { b with health := { b.health with ops := b.health.ops + 1 } } else b

/-- A step of a plan that is not over: some record of it that the tier runs has not completed (R269). -/
def StepOpen (p : Plan) (q : Run) : Prop := ∃ rs, p.steps[q.step]? = some rs ∧ ∃ r ∈ rs, q.isDone p r = false

/-- The state once a record's body is carried out: its writes are stored and counted, and the run has the body as done. -/
def bodyEnd (c : Ctx) (b : Body) (s : State) : State := applyAll (Act.seq (storeOutputs c b) (markBody c.slot c.record) s) s

/-- No rail domain is gated, so that an access wakes none (R31). -/
def Awake (s : State) : Prop := ∀ x ∈ s.rails, x.2.rail ≠ .gated

/-- A record in flight with a body to carry out, whose inputs hold no error and wake no domain. -/
structure BodyReady (s : State) (n r op : Nat) (c : Ctx) (q : Run) (b : Body) : Prop where
  due : bodyDue s n r op = some (c, q)
  words : s.ecc = []
  crates : badCrates c b.reads = []
  steady : s.glitches = []
  awake : Awake s

end Sys2Proof.Machine
end

