-- ==== Sys2Proof/Certificates/Slice0/Obligations.lean ====
section
/-! DEFINITION. Sys2Proof/Certificates/Slice0/Obligations.lean: the statements for the provers. A statement of what a command does has
as its conclusion the command's next state, written with the updates of Sys2Proof/Safety.lean: what such an equation does not name is
unchanged. -/
open Sys2Proof Sys2Proof.Machine

/-! ### The block -/

/-- The model's queue: a step with a command in front is that command's effect on the state with the queue's rest. With no command and no
management message waiting, the block idles (the model's choice, notes/assumptions/12.md). -/
def Obligations.StepServesQueue : Prop :=
  (∀ (c : Instr) (l : List Instr) (s : State), step { s with pending := c :: l } = exec c { s with pending := l })
  ∧ (∀ s : State, s.pending = [] → s.mgmt.queue = [] → step s = .next s)

/-- A command is carried out whatever the state: it never faults, it is never refused, it leaves the queue as it is, and no free value
is drawn twice. -/
def Obligations.CommandsCompleteAndKeepQueue : Prop :=
  ∀ (c : Instr) (s : State), ∃ t, exec c s = .next t ∧ t.pending = s.pending ∧ s.free ≤ t.free

/-- What every step keeps: tables in canonical form, both patiences above 0 (R403), counters at most their largest value (R439), a ledger
of at most 16,384 records numbered without gaps (R433), and nothing of a host's in the steward firmware's hooks (R299). -/
def Obligations.StepKeepsInvariant : Prop := ∀ s t : State, s.Inv → step s = .next t → t.Inv

/-- The state after reset meets the invariant that every step keeps. -/
def Obligations.ResetMeetsInvariant : Prop := State.reset.Inv

/-- What the spec states for reset: hooks and period numbers are 0, chutes disabled, no plan, no sealed region, no key, no member, table
set STANDARD of generation 0, links DISABLED, the patiences 4,096 and 64, an empty ledger whose first record is number 1, counters 0,
banks reserved for the sweep, and ports with the reset column of the register map. -/
def Obligations.ResetState : Prop :=
  let s := State.reset
  (∀ k, s.hook k = ⟨0, []⟩) ∧ (∀ m, s.mark m = 0)
  ∧ (∀ i, (s.chute i).enable = false ∧ (s.chute i).tail = 0 ∧ (s.chute i).head = 0 ∧ (s.chute i).replyIndex = 0
      ∧ (s.chute i).blocked = false ∧ (s.chute i).cfgBad = false ∧ (s.chute i).stopped = false)
  ∧ (∀ n, (s.slot n).plan = none ∧ (s.slot n).run = none) ∧ (∀ i, s.region i = none) ∧ (∀ i, s.key i = none) ∧ (∀ c, s.tainted c = false)
  ∧ s.member = none ∧ s.twin.bound = false
  ∧ s.tables.generation = 0 ∧ s.tables.active = .standard
  ∧ (∀ p, (s.link p).state = .disabled ∧ (s.link p).enable = false)
  ∧ s.status.bgPatience = 4096 ∧ s.status.bulkPatience = 64 ∧ s.status.ready = false ∧ s.status.resetting = false
  ∧ s.ledger = [] ∧ s.ledgerNext = 1 ∧ (∀ i, s.counter i = ⟨0, false⟩)
  ∧ (∀ i, (s.stream i).opened = false) ∧ (∀ k, (s.bank k).standing = .reserved)
  ∧ (∀ p, (s.port p).evtEnable = false ∧ (s.port p).evtCause = 0 ∧ (s.port p).winBase = 0 ∧ (s.port p).winLength = 0
      ∧ (s.port p).window = none ∧ (s.port p).bar2Log2 = 4 ∧ (s.port p).ledgerSelect = 0 ∧ (s.port p).counterSelect = 0
      ∧ (s.port p).resetBusy = false ∧ (s.port p).resetDone = false ∧ (s.port p).resetRejected = false)

/-! ### Completion of commands, and hooks -/

/-- A reply goes to the entry that the reply index names, with the phase of its pass, one packet is owed less, and INTERRUPT raises the
chute's vector; a command whose status does not release its hook leaves every hook as it is. A command that signals: its hook is released
first, with a HOOK_OVERFLOW record where the count would pass its largest value, and the reply is written after. REPLY_ON_ERROR_ONLY leaves
out the reply and the interrupt of DONE and ACCEPTED, and the packet is owed no more; a reply whose chute was reset, or whose port has
stopped, is dropped and recorded. A reply is 32 bytes, in the order of R291. -/
def Obligations.CommandCompletion : Prop :=
  ((∀ (h : Hdr) (r : Reply) (s : State), Answerable s h → replyOmitted h r = false → (h.signal && signals r.status) = false →
        afterReply h r s = replied h r s)
    ∧ (∀ (h : Hdr) (r : Reply) (s : State), s.Inv → Answerable s h → replyOmitted h r = false → h.signal = true → signals r.status = true →
        64 ≤ h.signalHook.toNat → (s.hook h.signalHook.toNat).waiters = [] →
        afterReply h r s = replied h r (s.releasedHook h.signalHook.toNat h.signalInc.toNat (srcPort h.port)))
    ∧ ((∀ (h : Hdr) (r : Reply) (s : State), Answerable s h → replyOmitted h r = true → (h.signal && signals r.status) = false →
        afterReply h r s = { s with
          started := dropStarted h s.started
          chutes := Tab.put Chute.reset s.chutes (chuteIx h.port h.chute) { s.chute (chuteIx h.port h.chute) with
            owed := (s.chute (chuteIx h.port h.chute)).owed - 1 } })
      ∧ (∀ (h : Hdr) (r : Reply) (s : State), clocked s = true → h.partner = none → (∀ f ∈ s.twin.forwarded, f.hdr ≠ h) →
          replyAlive s h = false → (h.signal && signals r.status) = false →
        afterReply h r s = (({ s with started := dropStarted h s.started }.log 0x0300 (srcChute (chuteIx h.port h.chute))
          (toLE 4 h.seq.toNat ++ toLE 2 r.status)).bump (counterId (srcHub h.port) 3) 1))))
  ∧ (∀ (h : Hdr) (phase : Bool) (r : Reply),
      (replyBytes h phase r).length = 32
      ∧ fieldLE (replyBytes h phase r) 0 4 = h.seq.toNat
      ∧ (r.status < 2 ^ 16 → fieldLE (replyBytes h phase r) 4 2 = r.status)
      ∧ fieldLE (replyBytes h phase r) 6 1 = h.chute.val
      ∧ fieldLE (replyBytes h phase r) 7 1 = 128 * b2n phase + 4 * h.port.val + 2 * b2n (decide (0 < r.restarts)) + b2n r.late
      ∧ fieldLE (replyBytes h phase r) 8 8 = h.tag.toNat
      ∧ fieldLE (replyBytes h phase r) 16 2 = min r.restarts 0xFFFF
      ∧ (r.detail < 2 ^ 16 → fieldLE (replyBytes h phase r) 18 2 = r.detail)
      ∧ (r.w0 < 2 ^ 32 → fieldLE (replyBytes h phase r) 20 4 = r.w0)
      ∧ (r.w1 < 2 ^ 32 → fieldLE (replyBytes h phase r) 24 4 = r.w1)
      ∧ (r.w2 < 2 ^ 32 → fieldLE (replyBytes h phase r) 28 4 = r.w2))

/-- Completing a command, with all that its hook release leads to, touches only replies, interrupts, hooks, what waits on hooks, and the
messages that carry replies to a partner: no memory, core, lane, stream, table, key, region, mark or inventory. -/
def Obligations.CompletionKeepsRest : Prop :=
  ∀ (h : Hdr) (r : Reply) (s : State), (afterReply h r s).beyondReplies = s.beyondReplies

/-- The four hook commands on a hook that no one waits on: HOOK_READ changes nothing and reads the count and the waiters, HOOK_SET sets
the count and returns the old one, HOOK_RELEASE adds up to the largest count with HOOK_OVERFLOW beyond it, and HOOK_ACQUIRE takes its
value at once where the count holds it, and waits otherwise. -/
def Obligations.HookCommands : Prop :=
  (∀ (h : Hdr) (k : Half) (s : State), Serves s false → k.toNat ≤ 4095 →
    exec (.hookRead h k) s = .next (afterReply h (Reply.done (s.hook k.toNat).count.toNat (s.hook k.toNat).waiters.length 0) s))
  ∧ (∀ (h : Hdr) (k : Half) (v : Word) (s : State), s.Inv → Serves s false → 64 ≤ k.toNat → k.toNat ≤ 4095 → (s.hook k.toNat).waiters = [] →
    exec (.hookSet h k v) s = .next (afterReply h (Reply.done (s.hook k.toNat).count.toNat 0 0) (s.withHook k.toNat ⟨v, []⟩)))
  ∧ (∀ (h : Hdr) (k : Half) (i : Word) (s : State), s.Inv → Serves s false → 64 ≤ k.toNat → k.toNat ≤ 4095 → i ≠ 0 →
      (s.hook k.toNat).waiters = [] →
    let n := min ((s.hook k.toNat).count.toNat + i.toNat) 0xFFFFFFFF
    exec (.hookRelease h k i) s = .next (afterReply h
      ⟨if 0xFFFFFFFF < (s.hook k.toNat).count.toNat + i.toNat then stHookOverflow else stDone, 0, n, 0, 0, false, 0⟩
      (s.withHook k.toNat ⟨BitVec.ofNat 32 n, []⟩)))
  ∧ (∀ (h : Hdr) (k : Half) (v : Word) (s : State), s.Inv → Serves s false → 64 ≤ k.toNat → k.toNat ≤ 4095 → v ≠ 0 → h.signal = false →
      (s.hook k.toNat).waiters = [] → v ≤ (s.hook k.toNat).count →
    exec (.hookAcquire h k v) s = .next (afterReply h (Reply.done ((s.hook k.toNat).count - v).toNat 0 0)
      (s.withHook k.toNat ⟨(s.hook k.toNat).count - v, []⟩)))
  ∧ (∀ (h : Hdr) (k : Half) (v : Word) (s : State), s.Inv → Serves s false → 64 ≤ k.toNat → k.toNat ≤ 4095 → v ≠ 0 →
      ((s.hook k.toNat).count < v ∨ (s.hook k.toNat).waiters ≠ []) →
      (∀ w ∈ (s.hook k.toNat).waiters.head?, (s.hook k.toNat).count < w.amount) →
    exec (.hookAcquire h k v) s = .next (s.withHook k.toNat { s.hook k.toNat with
      waiters := (s.hook k.toNat).waiters ++ [.command h v] }))
  ∧ (∀ (h : Hdr) (k : Half) (v : Word) (s : State), Serves s false → (k.toNat < 64 ∨ 4095 < k.toNat) →
    exec (.hookSet h k v) s = .next (afterReply h (Reply.badField 32) s) ∧ exec (.hookRelease h k v) s = .next (afterReply h (Reply.badField 32) s)
      ∧ exec (.hookAcquire h k v) s = .next (afterReply h (Reply.badField 32) s))

/-- Waiters are served in order while they can be: once a HOOK_SET, HOOK_RELEASE or HOOK_ACQUIRE has been carried out, the waiter at the
head of no hook's queue could be served, if none could before. -/
def Obligations.HeadWaiterServed : Prop :=
  ∀ (h : Hdr) (k : Half) (v : Word) (c : Instr) (s t : State), s.Inv →
    (∀ j, ∀ w ∈ (s.hook j).waiters.head?, (s.hook j).count < w.amount) →
    (c = .hookSet h k v ∨ c = .hookRelease h k v ∨ c = .hookAcquire h k v) → exec c s = .next t →
    ∀ j, ∀ w ∈ (t.hook j).waiters.head?, (t.hook j).count < w.amount

/-! ### Reports, ledger and counters -/

/-- The commands that report, with room enough: their bytes go to the host, and nothing else changes but the reply. NOP does nothing. -/
def Obligations.ReportsAnswer : Prop :=
  (∀ (h : Hdr) (s : State), Serves s true → exec (.nop h) s = .next (afterReply h (Reply.of stDone) s))
  ∧ ∀ (h : Hdr) (s : State), ServesHost s h true → h.partner = none →
    (∀ a : Dword, exec (.identify h a) s = .next (afterReply h (Reply.done (deviceNumber s) h.port.val 0)
        (s.withHost h.port a.toNat (identBytes s h.port))))
    ∧ (∀ (a : Dword) (cap : Word), 1424 ≤ cap.toNat → exec (.inventory h a cap) s = .next (afterReply h (Reply.done 1424 0 0)
        (s.withHost h.port a.toNat (inventoryBytes s))))
    ∧ (∀ (a : Dword) (cap : Word) (nonce : BitVec 256), 13200 ≤ cap.toNat → exec (.attest h a cap nonce) s =
        .next (afterReply h (Reply.done 13200 0 0) (s.withHost h.port a.toNat (attestBytes s nonce))))
    ∧ (∀ (a : Dword) (cap : Word) (nonce : BitVec 256), cap.toNat < 1424 →
        exec (.inventory h a cap) s = .next (afterReply h ⟨stBadParameter, 0x8000 + 40, 1424, 0, 0, false, 0⟩ s)
        ∧ exec (.attest h a cap nonce) s = .next (afterReply h ⟨stBadParameter, 0x8000 + 40, 13200, 0, 0, false, 0⟩ s))

/-- LEDGER_READ copies the records from the first that is asked for, or from the oldest held, in ascending sequence; nothing where the
ledger is empty or the first is newer than the newest. (A first sequence exactly 2^31 from the newest is neither newer nor older.) A record
takes the next sequence number and 24 data bytes, the unused ones 0; only the newest 16,384 are kept. Serial-number order: a sequence number
is earlier than another when it differs and the difference onward is below 2^31; no two are each earlier than the other, and of two that
differ, and not by 2^31, one is. -/
def Obligations.Ledger : Prop :=
  (∀ (h : Hdr) (first count : Word) (a : Dword) (s : State), ServesHost s h true → h.partner = none → s.Inv →
      1 ≤ count.toNat → count.toNat ≤ 16384 → (first - (s.ledgerNext - 1)).toNat ≠ 2 ^ 31 →
      let newest := s.ledgerNext - 1
      let oldest := s.ledgerNext - BitVec.ofNat 32 s.ledger.length
      let none_ : Prop := s.ledger = [] ∨ (newest ≠ first ∧ (first - newest).toNat < 2 ^ 31)
      let start := if first ≠ oldest ∧ (oldest - first).toNat < 2 ^ 31 then oldest else first
      let n := min count.toNat ((newest - start).toNat + 1)
      (none_ → exec (.ledgerRead h first count a) s = .next (afterReply h (Reply.done 0 s.ledgerNext.toNat oldest.toNat) s))
      ∧ (¬ none_ → ∃ rs : List LedgerRec, rs.length = n
          ∧ (∀ i (r : LedgerRec), rs[i]? = some r → r ∈ s.ledger ∧ r.seq = start + BitVec.ofNat 32 i)
          ∧ exec (.ledgerRead h first count a) s = .next (afterReply h (Reply.done n start.toNat oldest.toNat)
              (s.withHost h.port a.toNat (rs.flatMap recordBytes)))))
  ∧ (∀ (s : State) (event source : Nat) (d : List Byte), event < 2 ^ 16 → source < 2 ^ 16 → d.length ≤ 24 →
      let t := s.log event source d
      t.ledgerNext = s.ledgerNext + 1
      ∧ (∃ r, t.ledger = (r :: s.ledger).take 16384 ∧ r.seq = s.ledgerNext ∧ (recordBytes r).length = 32
          ∧ fieldLE (recordBytes r) 0 4 = s.ledgerNext.toNat ∧ fieldLE (recordBytes r) 4 2 = event ∧ fieldLE (recordBytes r) 6 2 = source
          ∧ slice (recordBytes r) 8 d.length = d ∧ allZero (slice (recordBytes r) (8 + d.length) (24 - d.length)) = true)
      ∧ t.mem = s.mem ∧ t.host = s.host ∧ t.counters = s.counters)
  ∧ (∀ a b : Word,
      (seqEarlier a b = true ↔ a ≠ b ∧ (b - a).toNat < 2 ^ 31)
      ∧ (seqEarlier a b = true → seqEarlier b a = false)
      ∧ (a ≠ b → (b - a).toNat ≠ 2 ^ 31 → seqEarlier a b = true ∨ seqEarlier b a = true))

/-- An increment adds to a counter while the sum fits in 48 bits; otherwise the counter sticks at its largest value with SAT, and the first
time it does so COUNTER_SATURATED is written. Other counters keep their values. Waves and holds, of which no command gives the number (a
free value of the model, notes/assumptions/21.md), join their counters when these are read or cleared. COUNTER_READ writes 8 bytes for each
ID, 0 where an ID names no counter or lies past the last; COUNTER_CLEAR zeroes every counter of its range, answers how many exist there, and
leaves the others. -/
def Obligations.Counters : Prop :=
  (∀ (s : State) (id n : Nat), s.Inv →
      let c := s.counter id
      let t := s.bump id n
      (∀ j, j ≠ id → t.counter j = s.counter j)
      ∧ (c.value + n ≤ 0xFFFFFFFFFFFF → t.counter id = ⟨c.value + n, c.sat⟩ ∧ t.ledger = s.ledger)
      ∧ (0xFFFFFFFFFFFF < c.value + n → t.counter id = ⟨0xFFFFFFFFFFFF, true⟩
          ∧ (c.sat = true → t.ledger = s.ledger)
          ∧ (c.sat = false → ∃ r, t.ledger = (r :: s.ledger).take 16384 ∧ r.event = 0x0004 ∧ r.seq = s.ledgerNext)))
  ∧ ((∀ (h : Hdr) (first count : Word) (a : Dword) (s : State), ServesHost s h false → h.partner = none → 1 ≤ count.toNat → count.toNat ≤ 4096 →
      let u := s.withHost h.port a.toNat ((List.range count.toNat).flatMap (fun k =>
        if first.toNat + k < 2 ^ 32 then counterBytes s (first.toNat + k) else toLE 8 0))
      exec (.counterRead h first count a) s = .next (afterReply h (Reply.done count.toNat 0 0)
        { applyAll (countActivity first.toNat count.toNat u) u with free := s.free + 1 }))
    ∧ (∀ (s : State) (first count : Nat), s.Inv →
        let t := applyAll (countActivity first count s) s
        t = { s with
          counters := t.counters
          ledger := t.ledger
          ledgerNext := t.ledgerNext }
        ∧ ∀ id, t.counter id = if first ≤ id ∧ id < first + count ∧ isCounter id = true ∧ isActivity id = true then counterNow s id
          else s.counter id)
    ∧ (∀ (s : State) (id : Nat), s.Inv → isCounter id = true →
        fieldLE (counterBytes s id) 0 6 = (counterNow s id).value ∧ bits (fieldLE (counterBytes s id) 0 8) 63 63 = b2n (counterNow s id).sat
        ∧ (isActivity id = false → counterNow s id = s.counter id))
    ∧ (∀ (h : Hdr) (first count : Word) (s : State), s.Inv → Serves s false → ∃ t : State,
        exec (.counterClear h first count) s = .next (afterReply h
          (Reply.done (countersIn first.toNat (min (first.toNat + count.toNat) (2 ^ 32) - first.toNat)) 0 0) t)
        ∧ t = { s with
          counters := t.counters
          ledger := t.ledger
          ledgerNext := t.ledgerNext
          free := s.free + 1 }
        ∧ ((∀ id, first.toNat ≤ id → id < first.toNat + count.toNat → (counterNow s id).sat = (s.counter id).sat) →
            t.ledger = s.ledger ∧ t.ledgerNext = s.ledgerNext)
        ∧ ∀ id, t.counter id = if first.toNat ≤ id ∧ id < first.toNat + count.toNat ∧ id < 2 ^ 32 then Counter.reset else s.counter id)
    ∧ (∀ (h : Hdr) (first count : Word) (a : Dword) (s : State), ServesHost s h false → (count = 0 ∨ 4096 < count.toNat) →
        exec (.counterRead h first count a) s = .next (afterReply h (Reply.badField 36) s)))

/-! ### Device memory -/

/-- The interleaved view: an address of it names byte f of tile t, by R64; every cellar byte has such an address; and a write through
either view is a write of the same byte in the other. -/
def Obligations.InterleavedView : Prop :=
  (∀ a : Nat, 0x2000000000 ≤ a → a < 0x3E00000000 →
    let o := a - 0x2000000000
    let g := o / 4096
    let t := g % 20
    let f := g / 20 * 4096 + o % 4096
    phys a = t * 0x180000000 + f ∧ t < 20 ∧ f < 0x180000000)
  ∧ (∀ b : Nat, b < 0x1E00000000 → phys b = b ∧ ∃ a, 0x2000000000 ≤ a ∧ a < 0x3E00000000 ∧ phys a = b)
  ∧ (∀ (s : State) (a b : Nat) (v : Byte), (∀ x ∈ s.ecc, phys (8 * x.1) = 8 * x.1) → phys a = phys b →
      memBytes s a 1 = memBytes s b 1 ∧ applyAll (storeMem a [v] s) s = applyAll (storeMem b [v] s) s)

/-- Bytes written to a mapped range read back, each at its address, in whichever view; every other byte keeps its value. WRITE_MEM, READ_MEM
and FILL_MEM on a mapped local range without stored errors, which no other command or run touches in no order with it: the bytes move, and
the command completes with DONE. A tainted shelf is not read; a range that is not mapped gives BAD_ADDRESS and moves nothing. A fill of a
whole shelf slot writes the part for plans at once, and the rest when the core runs no record: then the taint is cleared and the command
completes. -/
def Obligations.LocalMemory : Prop :=
  ((∀ (s : State) (a : Nat) (bs : List Byte), s.Inv → s.ecc = [] → Awake s → rangeOk s a bs.length = true →
        let t := applyAll (storeMem a bs s) s
        t = s.withMem a bs
        ∧ (∀ i, i < bs.length → t.byte (phys (a + i)) = bs.getD i 0)
        ∧ (∀ x, (∀ i, i < bs.length → x ≠ phys (a + i)) → t.byte x = s.byte x))
    ∧ (∀ (h : Hdr) (dev host len : Dword) (s : State), ServesHost s h false → h.partner = none → s.ecc = [] → Awake s → len ≠ 0 →
          dev.toNat < 2 ^ 52 → isLocal s dev.toNat = true → Undisturbed s h (.writeMem h dev host len) → Undisturbed s h (.readMem h dev host len) →
        (rangeOk s (localPart dev.toNat) len.toNat = true →
          exec (.writeMem h dev host len) s = .next (afterReply h (Reply.of stDone)
              (s.withMem (localPart dev.toNat) (hostBytes s h.port host.toNat len.toNat)))
          ∧ (touchesTaint s (localPart dev.toNat) = false → exec (.readMem h dev host len) s = .next (afterReply h (Reply.of stDone)
              (s.withHost h.port host.toNat (memBytes s (localPart dev.toNat) len.toNat))))
          ∧ (touchesTaint s (localPart dev.toNat) = true → exec (.readMem h dev host len) s = .next (afterReply h (Reply.of stSealed) s))
          ∧ (∀ pattern : Dword, dev.toNat % 8 = 0 → len.toNat % 8 = 0 → Undisturbed s h (.fillMem h dev len pattern) →
            wholeSlot s (localPart dev.toNat) len.toNat = none → exec (.fillMem h dev len pattern) s =
              .next (afterReply h (Reply.of stDone) (s.withMem (localPart dev.toNat) (fillBytes pattern len.toNat)))))
        ∧ (rangeOk s (localPart dev.toNat) len.toNat = false →
          exec (.writeMem h dev host len) s = .next (afterReply h (Reply.of stBadAddress) s)
          ∧ exec (.readMem h dev host len) s = .next (afterReply h (Reply.of stBadAddress) s))))
  ∧ ((∀ (h : Hdr) (dev len pattern : Dword) (c : Nat) (s : State), Serves s false → s.ecc = [] → Awake s → len ≠ 0 → dev.toNat < 2 ^ 52 →
        isLocal s dev.toNat = true → Undisturbed s h (.fillMem h dev len pattern) → wholeSlot s (localPart dev.toNat) len.toNat = some c →
      exec (.fillMem h dev len pattern) s = .next { s with
        mem := putMem s.mem (shelfBase + c * shelfSlot) (fillBytes pattern planArea)
        fills := s.fills ++ [⟨h, c, pattern⟩] })
    ∧ (∀ (c : CoreId) (f : SlotFill) (s : State), s.ecc = [] → Awake s → s.fills.find? (fun f => f.core == coreIx c) = some f →
        (s.core (coreIx c)).busy = [] →
      exec (.shelfEpilogueFill c) s = .next (afterReply f.hdr (Reply.of stDone) { s with
        mem := putMem s.mem (shelfBase + coreIx c * shelfSlot + planArea) (fillBytes f.pattern (shelfSlot - planArea))
        taint := Tab.put [] s.taint (coreIx c) []
        fills := s.fills.erase f })))

/-- COPY_MEM between mapped local ranges that do not overlap and lie in no sealed region: every byte of the target takes the value its
source byte had, every other byte of memory keeps its own, and nothing else changes but the reply. Ranges that overlap give
BAD_PARAMETER of the destination field; a copy out of a sealed region gives SEALED_ACCESS; both move nothing. -/
def Obligations.CopyMemory : Prop :=
  ∀ (h : Hdr) (src dst len : Dword) (s : State), s.Inv → Serves s false → s.ecc = [] → Awake s → len ≠ 0 → src.toNat < 2 ^ 52 →
      dst.toNat < 2 ^ 52 → Undisturbed s h (.copyMem h src dst len) →
      isLocal s src.toNat = true → isLocal s dst.toNat = true →
      rangeOk s (localPart src.toNat) len.toNat = true → rangeOk s (localPart dst.toNat) len.toNat = true →
    (overlapping s src.toNat dst.toNat len.toNat = true →
      exec (.copyMem h src dst len) s = .next (afterReply h ⟨stBadParameter, 0x8028, 0, 0, 0, false, 0⟩ s))
    ∧ (overlapping s src.toNat dst.toNat len.toNat = false →
        (touchesTaint s (localPart src.toNat) = true ∨ copyUnseals s (localPart src.toNat) (localPart dst.toNat) len.toNat = true) →
      exec (.copyMem h src dst len) s = .next (afterReply h (Reply.of stSealed) s))
    ∧ (overlapping s src.toNat dst.toNat len.toNat = false → s.regions = [] → touchesTaint s (localPart src.toNat) = false →
      ∃ t : State, exec (.copyMem h src dst len) s = .next (afterReply h (Reply.of stDone) t) ∧ t = { s with mem := t.mem }
        ∧ (∀ i, i < len.toNat → t.byte (phys (localPart dst.toNat + i)) = s.byte (phys (localPart src.toNat + i)))
        ∧ (∀ x, (∀ i, i < len.toNat → x ≠ phys (localPart dst.toNat + i)) → t.byte x = s.byte x))

/-- A length of 0 completes with DONE and moves nothing (of FIRMWARE_STAGE: at offset 0). The commands whose own rules fix the length of
what they read answer BAD_PARAMETER instead, and change nothing (the model's choice between the two rules, notes/assumptions/29.md). -/
def Obligations.LengthZeroDoesNothing : Prop :=
  (∀ (h : Hdr) (a b : Dword) (w : Word) (k : Byte) (s : State), ServesHost s h false → (∀ x ∈ s.races, x.1 ≠ h) →
    exec (.writeMem h a b 0) s = .next (afterReply h (Reply.of stDone) s)
    ∧ exec (.readMem h a b 0) s = .next (afterReply h (Reply.of stDone) s)
    ∧ exec (.fillMem h a 0 b) s = .next (afterReply h (Reply.of stDone) s)
    ∧ exec (.copyMem h a b 0) s = .next (afterReply h (Reply.of stDone) s)
    ∧ (k.toNat ≤ 15 → exec (.loadPlan h a 0 k) s = .next (afterReply h (Reply.of stDone) s))
    ∧ exec (.streamSubmit h w 0 a) s = .next (afterReply h (Reply.of stDone) s)
    ∧ exec (.tableLoad h a 0) s = .next (afterReply h (Reply.of stDone) s)
    ∧ exec (.firmwareStage h a 0 0) s = .next (afterReply h (Reply.of stDone) s)
    ∧ exec (.restoreContext h a 0 k k) s = .next (afterReply h (Reply.of stDone) s))
  ∧ (∀ (h : Hdr) (a : Dword) (k : Byte) (s : State), ServesHost s h false →
    exec (.installKey h a 0 k) s = .next (afterReply h (Reply.badField 40) s)
    ∧ exec (.streamOpen h a 0) s = .next (afterReply h (Reply.badField 40) s)
    ∧ (k.toNat ≤ 15 → exec (.linkConfigure h k 0 a) s = .next (afterReply h (Reply.badField 36) s))
    ∧ (s.twin.bound = false → s.member = none → s.joining = none → s.twin.binding = none →
        exec (.domainJoin h 0 a) s = .next (afterReply h (Reply.of stBadParameter) s)))

/-- SEAL_REGION takes the first free entry of the region table, UNSEAL_REGION frees the entry of the region at its base; a region over plain
tensors, over sealed ones, or over a rack of an open stream gives BUSY. Memory keeps its bytes. INSTALL_KEY places the unwrapped key in its
slot under its owner, with both counters kept for the same material and 0 otherwise, where no region names the slot; a wrapped key that
does not verify, or of another owner, gives SEALED_ACCESS and changes nothing. -/
def Obligations.SealedRegionsAndKeys : Prop :=
  ((∀ (h : Hdr) (base size rid : Dword) (key : Byte) (i : Nat) (s : State), Serves s false → base.toNat < 2 ^ 40 → size ≠ 0 →
        rangeOk s base.toNat size.toNat = true → base.toNat % 65536 = 0 → base.toNat + size.toNat ≤ cellarEnd →
        anyMeet (regionRanges s) [(base.toNat, size.toNat)] = false → size.toNat % 65536 = 0 → key.toNat ≤ 63 →
        (s.key key.toNat).isSome = true → i < 256 → s.region i = none → (∀ j, j < i → (s.region j).isSome = true) →
      (anyMeet (planRanges s false ++ (racks s).flatMap (fun x => heldRanges x.1 x.2)) [(base.toNat, size.toNat)] = false →
        exec (.sealRegion h base size rid key) s = .next (afterReply h (Reply.done i 0 0)
          { s with regions := Tab.put none s.regions i (some ⟨base.toNat, size.toNat, rid, key.toNat⟩) }))
      ∧ (anyMeet (planRanges s false ++ (racks s).flatMap (fun x => heldRanges x.1 x.2)) [(base.toNat, size.toNat)] = true →
        exec (.sealRegion h base size rid key) s = .next (afterReply h (Reply.of stBusy) s)))
    ∧ (∀ (h : Hdr) (base : Dword) (i : Nat) (r : Region) (s : State), Serves s false → base.toNat < 2 ^ 40 →
        s.regions.find? (fun x => x.2.any (fun r => r.base == base.toNat)) = some (i, some r) →
      (anyMeet (planRanges s true ++ (racks s).flatMap (fun x => heldRanges x.1 x.2)) [(r.base, r.size)] = false →
        exec (.unsealRegion h base) s = .next (afterReply h (Reply.of stDone) { s with regions := Tab.put none s.regions i none }))
      ∧ (anyMeet (planRanges s true ++ (racks s).flatMap (fun x => heldRanges x.1 x.2)) [(r.base, r.size)] = true →
        exec (.unsealRegion h base) s = .next (afterReply h (Reply.of stBusy) s))))
  ∧ (∀ (h : Hdr) (host : Dword) (len : Word) (key : Byte) (s : State), ServesHost s h false → len.toNat = 244 → key.toNat ≤ 63 →
      (∀ x ∈ s.regions, ∀ r, x.2 = some r → r.key ≠ key.toNat) →
      let k := key.toNat
      let b := hostData s h host.toNat 244
      let owner := sha512 (slice b 148 32)
      let kept (p : List Byte) (f : KeySlot → Dword) : Dword := match s.key k with
        | some v => if v.dataKey = p.take 32 ∧ v.tweakKey = p.drop 32 then f v else 0
        | none => 0
      exec (.installKey h host len key) s = .next (
        if fieldLE b 0 2 ≠ 1 ∨ allZero (slice b 2 2) = false ∨ fieldLE b 4 4 = 0 ∨ 1 < fieldLE b 8 4 ∨ allZero (slice b 12 4) = false
            ∨ fieldLE b 16 8 ≠ Config.serial.toNat then afterReply h (Reply.of stBadParameter) s
        else match unwrapKey b with
          | none => afterReply h (Reply.of stSealed) s
          | some p =>
            if p.take 32 = p.drop 32 ∨ (s.key k).any (fun v => v.ownerHash != owner) = true then afterReply h (Reply.of stSealed) s
            else afterReply h (Reply.done (fieldLE b 4 4) 0 0) { s with keys := Tab.put none s.keys k (some ⟨p.take 32, p.drop 32,
              BitVec.ofNat 32 (fieldLE b 4 4), BitVec.ofNat 32 (fieldLE b 8 4), owner, kept p (·.transferCtr), kept p (·.contextCtr)⟩) }))

/-- The sweep, of banks and of shelves: one slot scrubbed without a stored error only moves on; a queued write-back takes a single-bit error
out of its word; a bank's copy moves on by a slot; when a retiring bank's is whole the spare takes the index with a BANK_SWAPPED record; a
bank whose test passes goes on, counted as tested by the background test. The end of that test, once every bank of each layer with a spare
has had it, is recorded once, with a record for each layer that has no spare. A cellar bank's standing follows its debt: reserved up to T,
escalated above it, forced from 2T, escalated again below T and reserved below T/2, each change with one record. -/
def Obligations.Sweep : Prop :=
  ((∀ (b : BankId) (s : State), s.Inv → s.power.rails = true → CoresSound s → s.ecc = [] → (s.bank (bankIx b)).standing ≠ .forced →
      exec (.sweepSlot b .scrub) s = .next { s with banks := Tab.put Bank.reset s.banks (bankIx b) { swept (bankIx b) (s.bank (bankIx b)) with
        sweepSlot := ((s.bank (bankIx b)).sweepSlot + 1) % bankSlots (bankIx b) } })
    ∧ (∀ (b : BankId) (w : Nat) (rest : List Nat) (s : State), s.Inv → s.power.rails = true → CoresSound s → (s.bank (bankIx b)).standing ≠ .forced →
        (s.bank (bankIx b)).writeBacks = w :: rest → Tab.look none s.ecc w = some .single →
      exec (.sweepSlot b .writeBack) s = .next { s with
        banks := Tab.put Bank.reset s.banks (bankIx b) { swept (bankIx b) (s.bank (bankIx b)) with writeBacks := rest }
        ecc := Tab.put none s.ecc w none })
    ∧ (∀ (b : BankId) (n : Nat) (x : Bool) (s : State), s.Inv → s.power.rails = true → CoresSound s → s.ecc = [] → (s.bank (bankIx b)).standing ≠ .forced →
        (s.bank (bankIx b)).copy = some (n, x) → n < bankSlots (bankIx b) →
      exec (.sweepSlot b .copy) s = .next { s with banks := Tab.put Bank.reset s.banks (bankIx b) { swept (bankIx b) (s.bank (bankIx b)) with
        copy := some (n + 1, x) } })
    ∧ (∀ (b : BankId) (s : State), s.Inv → s.power.rails = true → CoresSound s → (s.bank (bankIx b)).standing ≠ .forced →
        (s.bank (bankIx b)).copy = some (bankSlots (bankIx b), true) →
      let k := bankIx b
      exec (.sweepSlot b (.test true)) s = .next { s with
        banks := Tab.put Bank.reset s.banks k { swept k (s.bank k) with copy := none }
        testedBanks := if k < 5120 ∧ bankTested s k = false
          then Tab.put 0 s.testedBanks (k / 64) (Tab.look 0 s.testedBanks (k / 64) + 2 ^ (k % 64)) else s.testedBanks })
    ∧ (∀ (b : BankId) (s : State), (s.bank (bankIx b)).copy = some (bankSlots (bankIx b), false) →
      exec (.bankSwapped b) s = .next ({ s with banks := Tab.put Bank.reset s.banks (bankIx b) { s.bank (bankIx b) with
        copy := none
        health := Health.reset } }.log 0x0103 (bankSource (bankIx b)).1
          (if bankIx b < 5120 then [BitVec.ofNat 8 (bankIx b % 256 / 64), BitVec.ofNat 8 (bankIx b % 64)]
            else [0, BitVec.ofNat 8 (bankIx b % 64)])))
    ∧ (∀ s : State, s.power.rails = true → s.status.ready = true → s.status.cellarTestDone = false → s.Inv →
        (s.status.tested = true ∨ allTested s = true) → ∃ t, exec .cellarTestDone s = .next t ∧ t.status = { s.status with
            cellarTestDone := true
            tested := true }
          ∧ t = { s with status := t.status, ledger := t.ledger, ledgerNext := t.ledgerNext }
          ∧ t.ledgerNext = s.ledgerNext + BitVec.ofNat 32
              ((if s.status.tested then [] else List.range 80).filter (fun i => (s.tile (i / 4)).bankSpares.getD (i % 4) 0 == 0)).length))
  ∧ (∀ (t : TileId) (l : Fin 4) (b : Fin 64) (s : State), s.power.rails = true →
      let k := bankIx (.cellar t l b)
      let d := sweepDebt k (s.bank k)
      let moved (x : Standing) (code : Nat) : State := ({ s with banks := Tab.put Bank.reset s.banks k { s.bank k with standing := x } }).log
        0x0203 (srcTile t.val) [BitVec.ofNat 8 l.val, BitVec.ofNat 8 b.val, BitVec.ofNat 8 code]
      ((s.bank k).standing = .reserved → 2 ^ 19 < d → exec (.sweepStanding (.cellar t l b)) s = .next (moved .escalated 1))
      ∧ ((s.bank k).standing = .escalated → 2 ^ 20 ≤ d → exec (.sweepStanding (.cellar t l b)) s = .next (moved .forced 2))
      ∧ ((s.bank k).standing = .escalated → d < 2 ^ 18 → exec (.sweepStanding (.cellar t l b)) s = .next (moved .reserved 0))
      ∧ ((s.bank k).standing = .forced → d < 2 ^ 18 → exec (.sweepStanding (.cellar t l b)) s = .next (moved .reserved 0))
      ∧ ((s.bank k).standing = .forced → 2 ^ 18 ≤ d → d < 2 ^ 19 → exec (.sweepStanding (.cellar t l b)) s = .next (moved .escalated 1)))

/-! ### Plans -/

/-- LOAD_PLAN of an image that passes every check fills the slot, with the header's seed, ADVANCE 0 and no run; a refusal, or a slot that
holds a plan, changes nothing but the reply. SEED_STREAMS sets the seed and ADVANCE of a slot that holds a plan, and leaves a run already
started as it is; a slot without a plan gives BAD_PARAMETER. A run takes the slot seed, and the slot seed moves on by ADVANCE. -/
def Obligations.PlanSlots : Prop :=
  (∀ (h : Hdr) (host : Dword) (len : Word) (slot : Byte) (s : State), s.Inv → ServesHost s h false → slot.toNat ≤ 15 → len ≠ 0 →
      ((s.slot slot.toNat).plan.isSome = true → exec (.loadPlan h host len slot) s = .next (afterReply h (Reply.of stBusy) s))
      ∧ (∀ r, (s.slot slot.toNat).plan = none → loadChecks s (hostData s h host.toNat len.toNat) = .error r →
        exec (.loadPlan h host len slot) s = .next (afterReply h r s))
      ∧ (∀ p, (s.slot slot.toNat).plan = none → loadChecks s (hostData s h host.toNat len.toNat) = .ok p → s.ecc = [] → Awake s → ∃ t : State,
        exec (.loadPlan h host len slot) s = .next (afterReply h (Reply.of stDone) t)
        ∧ (t.slot slot.toNat).plan = some p ∧ (t.slot slot.toNat).seed = p.seed ∧ (t.slot slot.toNat).advance = 0
        ∧ (t.slot slot.toNat).run = none ∧ (t.slot slot.toNat).epoch = 0
        ∧ (∀ m, m ≠ slot.toNat → (t.slot m).plan = (s.slot m).plan ∧ (t.slot m).run = (s.slot m).run ∧ (t.slot m).seed = (s.slot m).seed)
        ∧ t.host = s.host ∧ t.keys = s.keys ∧ t.regions = s.regions ∧ t.cores = s.cores))
  ∧ ((∀ (h : Hdr) (slot : Byte) (seed adv : Dword) (s : State), s.Inv → Serves s false → slot.toNat ≤ 15 →
      ((s.slot slot.toNat).plan.isSome = true → exec (.seedStreams h slot seed adv) s = .next (afterReply h (Reply.of stDone)
        (s.withSlot slot.toNat { s.slot slot.toNat with seed := seed, advance := adv })))
      ∧ ((s.slot slot.toNat).plan = none → exec (.seedStreams h slot seed adv) s = .next (afterReply h (Reply.badField 32) s)))
    ∧ (∀ (n : Nat) (p : Plan) (q : Run) (s : State), s.Inv → (s.slot n).plan = some p → (s.slot n).run = some q →
      let t := applyAll (startPass n s) s
      (t.slot n).seed = (s.slot n).seed + (s.slot n).advance ∧ (t.slot n).advance = (s.slot n).advance
        ∧ (t.slot n).run.map (·.seed) = some (s.slot n).seed ∧ (t.slot n).run.map (·.active) = some true))

/-- UNLOAD_PLAN of a slot whose run is in progress or paused completes with BUSY; otherwise it frees the slot, and with it everything that
loaded plans hold (hooks, bins, trays, shelf areas, landing areas: what the other loaded plans hold is all that is held), and leaves
every byte of memory as it is. -/
def Obligations.PlanUnloading : Prop :=
  ∀ (h : Hdr) (slot : Byte) (p : Plan) (s : State), s.Inv → Serves s false → slot.toNat ≤ 15 → (s.slot slot.toNat).plan = some p →
    ((s.slot slot.toNat).run.isSome = true → exec (.unloadPlan h slot) s = .next (afterReply h (Reply.of stBusy) s))
    ∧ ((s.slot slot.toNat).run = none → ∃ t : State,
        exec (.unloadPlan h slot) s = .next (afterReply h (Reply.of stDone) t) ∧ t = s.withSlot slot.toNat Slot.reset
        ∧ t.slot slot.toNat = Slot.reset ∧ t.plans = s.plans.filter (fun x => x.1 != slot.toNat) ∧ t.mem = s.mem)

/-- RUN: bound to a source it answers ACCEPTED and waits for marks; unbound it starts, with the slot seed, at tier 3, and the table
generation of the moment, and answers when it ends. A running slot gives BUSY, a job that R389 stops DEVICE_DEGRADED (in a bound pair
only where a member is not reachable: the other cases step the twin out), a source above 7
BAD_PARAMETER. -/
def Obligations.RunCommand : Prop :=
  ∀ (h : Hdr) (slot src : Byte) (p : Plan) (s : State), s.Inv → Serves s false → slot.toNat ≤ 15 → (s.slot slot.toNat).plan = some p →
    let n := slot.toNat
    let v := s.slot n
    let counted := { s.bump (counterId (srcSlot n) 0) 1 with twin := { s.twin with
      partnerTiers := s.twin.partnerTiers.filter (fun x => x.1 != n)
      starts := s.twin.starts.filter (fun x => x.1 != n) } }
    (7 < src.toNat → src.toNat ≠ 0xFF → exec (.run h slot src) s = .next (afterReply h (Reply.badField 33) s))
    ∧ (src.toNat ≤ 7 ∨ src.toNat = 0xFF → v.run.isSome = true → exec (.run h slot src) s = .next (afterReply h (Reply.of stBusy) s))
    ∧ (src.toNat ≤ 7 ∨ src.toNat = 0xFF → v.run = none → (degradedCase s p).isSome = true →
        (s.paired = false ∨ degradedCase s p = some 3) → exec (.run h slot src) s = .next (afterReply h (Reply.of stDegraded) s))
    ∧ (src.toNat ≤ 7 → v.run = none → degradedCase s p = none →
        exec (.run h slot src) s = .next (afterReply h (Reply.of stAccepted)
          (counted.withSlot n { v with run := some (newRun s h n (some (Fin.ofNat 8 src.toNat))) })))
    ∧ (src.toNat = 0xFF → v.run = none → degradedCase s p = none → p.landing.every = 0 → StepOpen p (newRun s h n none) →
        exec (.run h slot src) s = .next (counted.withSlot n { v with
          seed := v.seed + v.advance
          epoch := v.epoch + 1
          run := some (newRun s h n none) }).listed
        ∧ (newRun s h n none).seed = v.seed ∧ (newRun s h n none).tier = 3 ∧ (newRun s h n none).gen = s.tables.generation
        ∧ (newRun s h n none).active = true ∧ (newRun s h n none).step = 0)

/-- PAUSE stops dispatch and waits for the records in flight; PAUSE_COMPLETE answers it with the step once they have completed or
stopped; PAUSE of a paused or idle slot and RESUME of one that is not paused change nothing but the reply; RESUME goes on. -/
def Obligations.PauseAndResume : Prop :=
  ∀ (h : Hdr) (slot : SlotId) (p : Plan) (s : State), s.Inv → Serves s false → (s.slot slot.val).plan = some p →
    let n := slot.val
    let b : Byte := BitVec.ofNat 8 n
    let v := s.slot n
    (v.run = none → exec (.pause h b) s = .next (afterReply h (Reply.of stDone) s)
      ∧ exec (.resume h b) s = .next (afterReply h (Reply.of stDone) s))
    ∧ (∀ q, v.run = some q → q.paused = true → exec (.pause h b) s = .next (afterReply h (Reply.done q.step 0 0) s))
    ∧ (∀ q, v.run = some q → q.paused = false →
        exec (.pause h b) s = .next (s.withSlot n { v with run := some { q with
          paused := true
          pauses := q.pauses ++ [⟨h, q.inFlight, q.restarts⟩] } })
        ∧ exec (.resume h b) s = .next (afterReply h (Reply.of stDone) s))
    ∧ (∀ q x, v.run = some q → q.stopped = none → q.pauses = [x] → x.left.all (settled s n p q) = true →
        exec (.pauseComplete slot) s = .next (afterReply x.hdr ⟨stDone, 0, q.step, 0, 0, false, q.restarts - x.restarts⟩
          (s.withSlot n { v with run := some { q with pauses := [] } })))
    ∧ (∀ q, v.run = some q → q.paused = true → degradedCase s p = none → (∀ x ∈ s.cores, x.2.laneRuns = []) →
        let t := s.withSlot n { v with run := some { q with paused := false } }
        (q.active = false → exec (.resume h b) s = .next (afterReply h (Reply.of stDone) t))
        ∧ (q.active = true → q.landings.due = false → StepOpen p q → exec (.resume h b) s = .next (afterReply h (Reply.of stDone) t.listed)))

/-- ABORT ends the run: it completes ABORTED_BY_HOST with nothing of it left, and ABORT answers DONE; the plan stays loaded, with its
seeds. -/
def Obligations.AbortEndsRun : Prop :=
  ∀ (h : Hdr) (slot : SlotId) (p : Plan) (s : State), s.Inv → Serves s false → (s.slot slot.val).plan = some p →
    ((s.slot slot.val).run = none → exec (.abort h (BitVec.ofNat 8 slot.val)) s = .next (afterReply h (Reply.of stDone) s))
    ∧ (∀ q, (s.slot slot.val).run = some q → q.pauses = [] → q.saving = none → q.answers = true → CoresSound s →
        (∀ x ∈ s.cores, ∀ y ∈ x.2.laneRuns, y.slot = slot.val) → ∃ t : State,
      exec (.abort h (BitVec.ofNat 8 slot.val)) s = .next (afterReply h (Reply.of stDone) (afterReply q.hdr
        { Reply.of stAborted with restarts := q.restarts } t))
      ∧ (t.slot slot.val).run = none ∧ (t.slot slot.val).plan = some p ∧ (t.slot slot.val).seed = (s.slot slot.val).seed
      ∧ (∀ x ∈ t.cores, ∀ b ∈ x.2.busy, b.1 ≠ slot.val)
      ∧ t.regions = s.regions ∧ t.keys = s.keys ∧ t.streams = s.streams ∧ t.tables = s.tables)

/-- SAVE_CONTEXT stops dispatch; CONTEXT_WRITTEN delivers an unsealed plan's context to host memory, with its length, once every record in
flight has completed or stopped, and leaves the plan paused; a capacity too small writes nothing and answers the length. RESTORE_CONTEXT of
a context that agrees with an unsealed plan gives the slot the context's seed and ADVANCE, with the slot seed one ADVANCE on, and a run that
is paused; a context that does not agree gives BAD_PARAMETER and changes nothing. -/
def Obligations.Contexts : Prop :=
  ((∀ (h : Hdr) (addr cap : Dword) (slot : SlotId) (toDev : Byte) (p : Plan) (q : Run) (s : State), Serves s false → toDev.toNat ≤ 1 →
        (s.slot slot.val).plan = some p → (s.slot slot.val).run = some q → q.saving = none →
      exec (.saveContext h addr cap (BitVec.ofNat 8 slot.val) toDev) s = .next (s.withSlot slot.val { s.slot slot.val with run := some { q with
        paused := true
        saving := some ⟨h, addr, cap, toDev == 1, q.restarts⟩ } }))
    ∧ (∀ (slot : SlotId) (p : Plan) (q : Run) (v : SaveReq) (s : State), s.Inv → (s.slot slot.val).plan = some p →
        (s.slot slot.val).run = some q → q.saving = some v → q.stopped = none → q.inFlight.all (settled s slot.val p q) = true → s.ecc = [] → Awake s →
        p.readsSealed = false → (v.toDevice = false → dmaStopped s v.hdr = false) →
      let t := s.withSlot slot.val { s.slot slot.val with run := some { q with saving := none } }
      ∃ bs a, contextBytes s slot.val p q = some (bs, a)
        ∧ (v.capacity.toNat < bs.length →
          exec (.contextWritten slot) s = .next (afterReply v.hdr { Reply.badField 40 with
            w0 := bs.length
            restarts := q.restarts - v.restarts } t))
        ∧ (bs.length ≤ v.capacity.toNat → v.toDevice = false → v.hdr.partner = none → bs ≠ [] →
          exec (.contextWritten slot) s = .next (afterReply v.hdr
            ⟨stDone, 0, bs.length % 2 ^ 32, bs.length / 2 ^ 32, 0, false, q.restarts - v.restarts⟩
              ({ t with kept := keptWith s (contextId s slot.val p q) q.crates }.withHost v.hdr.port v.addr.toNat bs)))))
  ∧ (∀ (h : Hdr) (addr len : Dword) (slot : SlotId) (p : Plan) (s : State), s.Inv → ServesHost s h false → len ≠ 0 →
        (s.slot slot.val).plan = some p → (s.slot slot.val).run = none → p.readsSealed = false → s.ecc = [] →
      let b := hostData s h addr.toNat len.toNat
      (contextOk p false b = false →
        exec (.restoreContext h addr len (BitVec.ofNat 8 slot.val) 0) s = .next (afterReply h (Reply.of stBadParameter) s))
      ∧ (contextOk p false b = true → ∃ t : State,
        exec (.restoreContext h addr len (BitVec.ofNat 8 slot.val) 0) s = .next (afterReply h
          { Reply.of stDone with detail := if fieldLE b 24 8 = s.tables.active.ident then 0 else 0x10 } t)
        ∧ (t.slot slot.val).plan = some p
        ∧ (t.slot slot.val).seed = BitVec.ofNat 64 (fieldLE b 8 8) + BitVec.ofNat 64 (fieldLE b 16 8)
        ∧ (t.slot slot.val).advance = BitVec.ofNat 64 (fieldLE b 16 8)
        ∧ (∃ q, (t.slot slot.val).run = some q ∧ q.paused = true ∧ q.seed = BitVec.ofNat 64 (fieldLE b 8 8))
        ∧ t.regions = s.regions ∧ t.keys = s.keys ∧ t.tables = s.tables ∧ t.streams = s.streams))

/-! ### Records -/

/-- A ready record whose hook holds no count joins the hook's queue; a ready record that may take its cores goes in flight on every core
that holds its splits. -/
def Obligations.RecordDispatch : Prop :=
  ∀ (slot : SlotId) (r : Nat) (p : Plan) (q : Run) (s : State), s.Inv → (s.slot slot.val).plan = some p → (s.slot slot.val).run = some q →
      q.ready p r = true →
    let n := slot.val
    let v := s.slot n
    let k := (p.record r).waitHook
    (q.hookHeld p r = false → 64 ≤ k → k < 4096 → (s.hook k).count = 0 → (∀ w ∈ (s.hook k).waiters.head?, w.amount ≠ 0) →
      exec (.recordDispatch slot r) s = .next ((s.withSlot n { v with run := some { q with waiting := q.waiting ++ [r] } }).withHook k
        { s.hook k with waiters := (s.hook k).waiters ++ [.record slot r] }))
    ∧ (q.hookHeld p r = true → mayStart s n p q r = true → ∃ t q', exec (.recordDispatch slot r) s = .next t
      ∧ (t.slot n).run = some q' ∧ q'.inFlight = q.inFlight ++ [r] ∧ q'.completed = q.completed ∧ q'.step = q.step ∧ q'.seed = q.seed
      ∧ (∀ c ∈ recCores s p (p.record r), (n, r) ∈ (t.core c).busy ∧ (t.core c).probe = false)
      ∧ t.mem = s.mem ∧ t.host = s.host ∧ t.hooks = s.hooks ∧ t.ledger = s.ledger)

/-- RECORD_COMPLETE of a record whose body is done: it is no longer in flight, it counts as completed, its cores are free of it, and, while
a record of its step is left, the run goes on at the same step. The hook of a record that completes for the first time in its run is
released by one, with a HOOK_RELEASED record; a record whose release has been performed releases nothing. -/
def Obligations.RecordCompletion : Prop :=
  (∀ (slot : SlotId) (r : Nat) (p : Plan) (q : Run) (s : State), s.Inv → (s.slot slot.val).plan = some p → (s.slot slot.val).run = some q →
        r ∈ q.inFlight → r ∈ q.bodyDone → (p.record r).collective = false → q.active = true → q.landings.due = false → CoresSound s → s.ecc = [] →
        (∃ rs, p.steps[q.step]? = some rs ∧ ∃ k ∈ rs, k ≠ r ∧ q.isDone p k = false) →
      ∃ t q', exec (.recordComplete slot r) s = .next t ∧ (t.slot slot.val).run = some q'
        ∧ q'.inFlight = q.inFlight.filter (· != r) ∧ q'.completed = q.completed ++ [r] ∧ q'.step = q.step ∧ q'.seed = q.seed
        ∧ (∀ c, (slot.val, r) ∉ (t.core c).busy) ∧ t.regions = s.regions ∧ t.keys = s.keys ∧ t.streams = s.streams)
  ∧ (∀ (slot : SlotId) (r : Nat) (p : Plan) (q : Run) (s : State), s.Inv → (s.slot slot.val).plan = some p → (s.slot slot.val).run = some q →
        r ∈ q.inFlight → r ∈ q.bodyDone → (p.record r).collective = false → q.active = true → q.landings.due = false →
        (∃ rs, p.steps[q.step]? = some rs ∧ ∃ k ∈ rs, k ≠ r ∧ q.isDone p k = false) →
        64 ≤ (p.record r).signalHook → (p.record r).signalHook < 4096 → (s.hook (p.record r).signalHook).waiters = [] →
        (s.hook (p.record r).signalHook).count.toNat < 0xFFFFFFFF → CoresSound s → s.ecc = [] →
      let k := (p.record r).signalHook
      ∃ t, exec (.recordComplete slot r) s = .next t
        ∧ (r ∉ q.released → (t.hook k).count = (s.hook k).count + 1
            ∧ ∃ x ∈ t.ledger, x.event = 0x0301 ∧ x.source = BitVec.ofNat 16 (srcSlot slot.val))
        ∧ (r ∈ q.released → (t.hook k).count = (s.hook k).count ∧ t.ledger = s.ledger))

/-- Each record's body, once the record is in flight and the array has completed its instructions: the writes of its operation are stored. A
SUM record of this device alone writes the sum of its own contributions, and releases its admission. What a body without effects of its own
leaves: it is marked as done, memory holds its element writes, and only its counts, its reports and the taint of its cores change beside
them. -/
def Obligations.RecordBodies : Prop :=
  (∀ (slot : SlotId) (r : Nat) (c : Ctx) (q : Run) (s : State),
      let ready (op : Nat) (b : Body) : Prop := BodyReady s slot.val r op c q b
      (ready 1 (productBody c) → arrayDone c c.productIssues = true → exec (.product slot r) s = .next (bodyEnd c (productBody c) s))
      ∧ (
        let b : Body := ⟨c.arrayOut, [], convParts c, clearArrays c.slot c.record⟩
        ready 2 b → c.r.geometry.kind = 1 → laneConv c.r = false → arrayDone c c.productIssues = true →
          exec (.conv slot r) s = .next (bodyEnd c b s))
      ∧ (
        let b : Body := laneBody c
        ready 2 b → c.r.geometry.kind = 1 → laneConv c.r = true → laneGoes c = true → exec (.conv slot r) s = .next (bodyEnd c b s))
      ∧ (ready 2 (poolBody c) → c.r.geometry.kind = 2 → exec (.pool slot r) s = .next (bodyEnd c (poolBody c) s))
      ∧ (ready 2 (resampleBody c) → c.r.geometry.kind = 3 → exec (.resample slot r) s = .next (bodyEnd c (resampleBody c) s))
      ∧ (ready 3 (elementwiseBody c) → exec (.elementwise slot r) s = .next (bodyEnd c (elementwiseBody c) s))
      ∧ (ready 4 (normaliseBody c) → exec (.normalise slot r) s = .next (bodyEnd c (normaliseBody c) s))
      ∧ (ready 5 (rotaryBody c) → exec (.rotary slot r) s = .next (bodyEnd c (rotaryBody c) s))
      ∧ (ready 6 (drawBody c) → exec (.draw slot r) s = .next (bodyEnd c (drawBody c) s))
      ∧ (ready 7 (attendBody c) → arrayDone c c.attendIssues = true → exec (.attend slot r) s = .next (bodyEnd c (attendBody c) s))
      ∧ (ready 8 (appendBody c) → appMode c.r = 0 → exec (.append slot r) s = .next (bodyEnd c (appendBody c) s))
      ∧ (ready 8 (pflushBody c) → appMode c.r = 1 → exec (.pflush slot r) s = .next (bodyEnd c (pflushBody c) s))
      ∧ (ready 9 (laneBody c) → q.paused = false → q.saving = none → laneGoes c = true →
          exec (.lane slot r) s = .next (bodyEnd c (laneBody c) s))
      ∧ (
        let b : Body := ⟨[], [], wholePart c 0 c.r.a, Act.none⟩
        ready 10 b → r ∈ q.summed → exec (.sum slot r) s = .next (bodyEnd c b s)))
  ∧ (∀ (slot : SlotId) (r : Nat) (c : Ctx) (q : Run) (s : State), s.Inv →
        BodyReady s slot.val r 10 c q ⟨sumAlone c, [], wholePart c 0 c.r.a, Act.none⟩ → r ∉ q.summed →
        (∃ a ∈ q.collectives, a.record = r) → sumMembers s c.plan c.r = [deviceNumber s] →
      ∃ t q', exec (.sum slot r) s = .next t ∧ (t.slot slot.val).run = some q' ∧ r ∈ q'.summed ∧ r ∈ q'.bodyDone
        ∧ (∀ a ∈ q'.collectives, a.record ≠ r) ∧ t.mem = (applyAll (storeElems c (sumAlone c) s) s).mem)
  ∧ (∀ (n r op : Nat) (c : Ctx) (q : Run) (b : Body) (s : State), s.Inv → BodyReady s n r op c q b → b.extra = Act.none →
      let t := bodyEnd c b s
      t.mem = (applyAll (storeElems c b.writes s) s).mem
      ∧ (∃ q', (t.slot n).run = some q' ∧ q' = { q with bodyDone := r :: q.bodyDone, reports := q'.reports })
      ∧ t.host = s.host ∧ t.hooks = s.hooks ∧ t.cores = s.cores ∧ t.lanes = s.lanes ∧ t.regions = s.regions ∧ t.keys = s.keys
      ∧ t.streams = s.streams ∧ t.links = s.links ∧ t.outbox = s.outbox ∧ t.tables = s.tables ∧ t.colls = s.colls
      ∧ (∀ m, m ≠ n → t.slot m = s.slot m))

/-- A MOVE between uncompressed tensors of this device without scales: the codes of every element are stored at the destination as they are. -/
def Obligations.MoveLocal : Prop :=
  ∀ (slot : SlotId) (r : Nat) (c : Ctx) (q : Run) (s : State), s.Inv → bodyDue s slot.val r 11 = some (c, q) → s.ecc = [] → Awake s → s.xfers = [] →
      moveHere c c.r.a = true → moveHere c c.r.out = true → (c.plan.tensor c.r.a).comp = 0 → (c.plan.tensor c.r.a).scaled = false →
    ∃ t q', exec (.move slot r) s = .next t
      ∧ t.mem = (applyAll (storeElems c ((List.range (c.plan.tensor c.r.a).count).map (fun f =>
          ⟨c.r.out, moveHome c f, f, ⟨plainElem c (moveHome c f) (c.plan.tensor c.r.a) f, false, false⟩⟩)) s) s).mem
      ∧ (t.slot slot.val).run = some q' ∧ q' = { q with bodyDone := r :: q.bodyDone }
      ∧ t.host = s.host ∧ t.hooks = s.hooks ∧ t.cores = s.cores ∧ t.outbox = s.outbox

/-- An array instruction, the next of its record on the core: where every comparison of the checksum line passes, the array goes on with its
sums, what it releases goes on, and the core counts one operation; where one fails, the instruction is repeated, and the repeat's sums stand
with one TRANSIENT record; where the repeat fails too, the record's work on the array is discarded and the fault escapes. After an
instruction one more counts as done, its tile is active, the next one's is in the shadow set, and the sums of an open block are carried on.
LIVE_PREEMPT: the lower class's unswapped tile is discarded, its carried sums leave the array, and the LIVE record owns it; parked sums and
scores come back bit for bit. -/
def Obligations.ArrayAndPreemption : Prop :=
  (∀ (core : CoreId) (slot : SlotId) (r mb nb kc : Nat) (second : Bool) (upsets again : List Upset) (c : Ctx) (v : View) (s : State), s.Inv →
      let ci := coreIx core
      let id : BlockId := ⟨slot.val, r, mb, nb, kc, second⟩
      nextIssue s ci slot.val r id = some (c, v) →
      let k := s.core ci
      let tile := (k.array.shadow.filter (fun t => decide (t.block = id))).getD (v.load id)
      let pass (u : List Upset) : List Acc × Bool := v.pass c.masksB tile (k.array.carryOf v.flow id) u
      let issue := Instr.arrayInstruction core slot r mb nb kc second ⟨upsets, again⟩
      ((pass upsets).2 = true →
          (let t := (s.withCore ci { k with array := c.arrayAfter ci k.array v id tile (pass upsets).1 }).bump (counterId (srcCore ci) 2) 1
           exec issue s = .next (applyAll (Act.seq (c.release v id (pass upsets).1) (coreOps ci 1 0) t) t))
          ∧ (c.r.opcode ≠ 7 → v.last = false → exec issue s = .next ((s.withCore ci { k with
              health := { k.health with ops := k.health.ops + 1 }
              array := c.arrayAfter ci k.array v id tile (pass upsets).1 }).bump (counterId (srcCore ci) 2) 1)))
      ∧ ((pass upsets).2 = false → (pass again).2 = true → ∃ t, exec issue s = .next t
          ∧ (c.r.opcode = 7 ∨ v.last = false → (t.core ci).array = c.arrayAfter ci k.array v id tile (pass again).1)
          ∧ (t.core ci).health.ops = k.health.ops + 2
          ∧ (∃ y ∈ t.ledger, y.event = 0x0100 ∧ y.source = BitVec.ofNat 16 (srcCore ci)) ∧ t.mem = s.mem ∧ t.slots = s.slots)
      ∧ ((pass upsets).2 = false → (pass again).2 = false → ∃ t, exec issue s = .next t ∧ (t.core ci).escaped = true
          ∧ (t.core ci).array = k.array.forget slot.val r ∧ t.mem = s.mem ∧ t.slots = s.slots ∧ t.ledger = s.ledger ∧ t.counters = s.counters))
  ∧ (∀ (c : Ctx) (core : Nat) (a : MatArray) (v : View) (id : BlockId) (tile : RegSet) (sums : List Acc),
      let b := c.arrayAfter core a v id tile sums
      b.count c.slot c.record = a.count c.slot c.record + 1
      ∧ (v.flow ≠ 1 → b.active = some tile
        ∧ (∀ i x, (c.issues core)[a.count c.slot c.record + 1]? = some i → c.tileOf i = some x → b.shadow = some x)
        ∧ (v.last = false → (if id.second then b.carry1 else b.carry0) = some (id, sums)))
      ∧ (v.flow = 1 → b.active = some ⟨id, [], [], if v.last then [] else sums⟩ ∧ (v.last = true → b.shadow = some ⟨id, [], [], sums⟩))
      ∧ (c.r.opcode ≠ 7 → b.epilogue = a.epilogue ∧ b.partials = a.partials ∧ b.parts = a.parts ∧ b.outs = a.outs))
  ∧ ((∀ (core : CoreId) (slot : SlotId) (r : Nat) (c : Ctx) (q : Run) (o : Nat × Nat) (s : State), s.Inv →
      recordCtx s slot.val r = some (c, q) → c.plan.cls = 0 → r ∈ q.inFlight → r ∉ q.bodyDone →
      let ci := coreIx core
      let k := s.core ci
      k.array.owner = some o → slotClass s o.1 ≠ 0 → k.live = none → k.escaped = false →
      ((c.issues ci)[k.array.count slot.val r]?).isSome = true →
      ∃ t, exec (.livePreempt core slot r) s = .next t ∧ (t.core ci).live = some (slot.val, r)
        ∧ (t.core ci).array.owner = some (slot.val, r) ∧ (t.core ci).array.parkedOwner = some o
        ∧ (t.core ci).array.shadow = ((c.issues ci)[k.array.count slot.val r]?).bind c.tileOf
        ∧ (∀ x, (t.core ci).array.carry0 = some x ∨ (t.core ci).array.carry1 = some x → x.1.of o.1 o.2 = false)
        ∧ (∀ x, k.array.carry0 = some x → x.1.of o.1 o.2 = true →
            ∃ y ∈ (t.core ci).array.parked, y.place = .carry0 ∧ y.block = x.1
              ∧ (y.addr = none → y.flags = x.2) ∧ (y.addr ≠ none → y.flags = x.2.map Acc.flags))
        ∧ t.slots = s.slots ∧ t.hooks = s.hooks ∧ t.host = s.host)
    ∧ (∀ (place : ParkPlace) (id : BlockId) (a : Nat) (held : Option Held) (sums : List Acc), (∀ x ∈ sums, x.fp.isSome = true → x.int = 0) →
      (⟨place, id, some a, sums.map Acc.flags, held⟩ : Parked).sums (sums.flatMap Acc.bytes) = sums)
    ∧ (∀ (place : ParkPlace) (id : BlockId) (a : Nat) (l : List Word),
      (⟨place, id, some a, [], some (Held.flags (.scores l))⟩ : Parked).heldBack (Held.bytes (.scores l)) = some (.scores l)))

/-! ### Restarts, landings, periods -/

/-- A job that a fault hits, or that another member tells of a restart, and that takes no landings: its work is discarded, it starts at
its first record again with the same seed, and one RESTART record counts it. A member's end DEVICE_DEGRADED ends the job here too. -/
def Obligations.JobRestarts : Prop :=
  ∀ (slot : SlotId) (cause : FaultCause) (port : LinkId) (device me : BitVec 12) (p : Plan) (q : Run) (s : State), s.Inv →
      (s.slot slot.val).plan = some p → (s.slot slot.val).run = some q → degradedCase s p = none → q.consecutive < 3 →
      CoresSound s → p.landing.every = 0 → resumeCopies p q = [] → s.paired = false →
      q.active = true → StepOpen p { q with step := 0, completed := [] } →
    let restarted (t : State) : Prop := ∃ q', (t.slot slot.val).run = some q' ∧ q'.step = 0 ∧ q'.completed = [] ∧ q'.inFlight = []
      ∧ q'.seed = q.seed ∧ q'.restarts = q.restarts + 1 ∧ (t.slot slot.val).seed = (s.slot slot.val).seed
      ∧ (∃ x ∈ t.ledger, x.event = 0x0110 ∧ x.source = BitVec.ofNat 16 (srcSlot slot.val)) ∧ t.mem = s.mem
    (causeHits s slot.val p q cause = true → (∀ c, cause ≠ .core c false) → (∀ a, cause ≠ .landingWord a false) →
      (∀ i c, cause ≠ .landingCrate i c false) →
      ∃ t, exec (.jobRestart slot cause) s = .next t ∧ restarted t)
    ∧ (me.toNat = deviceNumber s → (p.peers s).contains device.toNat = true →
        ∃ t, exec (.restartNotice port ⟨device, me, slot, none⟩) s = .next t ∧ restarted t)
    ∧ (me.toNat ≠ deviceNumber s → let m := Sent.restart device.toNat me.toNat slot.val
        exec (.restartNotice port ⟨device, me, slot, none⟩) s = .next ((s.took port m).relaying port m))
    ∧ (∀ k : Fin 6, me.toNat = deviceNumber s → (p.peers s).contains device.toNat = true → s.ecc = [] → Awake s → q.pauses = [] →
        q.saving = none → (q.answers = true → q.hdr.signal = false) → (∀ x ∈ s.hooks, ∀ y ∈ x.2.waiters, ∀ r, y ≠ .record slot r) →
        ∃ t, exec (.restartNotice port ⟨device, me, slot, some k⟩) s = .next t ∧ (t.slot slot.val).run = none
          ∧ (t.slot slot.val).plan = some p ∧ ∃ x ∈ t.ledger, x.event = 0x0111 ∧ x.source = BitVec.ofNat 16 (srcSlot slot.val))

/-- A landing of a plan of one device, unsealed: it is written to COPY0 and confirmed at once, and its copy to COPY1 starts; the job
takes the table generation of the moment. The copy ends with COPY1 holding COPY0's bytes. A notice joins those of the landing. -/
def Obligations.Landings : Prop :=
  ∀ (slot : SlotId) (p : Plan) (q : Run) (s : State), s.Inv → (s.slot slot.val).plan = some p → (s.slot slot.val).run = some q →
      s.ecc = [] → Awake s → p.keys s = [] →
    let n := slot.val
    let v := s.slot n
    (landingMay p q = true → p.peers s = [] → s.paired = false → q.landings.notices = [] → StepOpen p q →
      let q1 : Run := { q with gen := s.tables.generation }
      exec (.landing slot) s = .next ((s.withMem p.landing.copy0 (landingBytes (s.withSlot n { v with run := some q1 }) n p q1).2).withSlot n
        { v with run := some { q1 with
          consecutive := 0
          landings := { q.landings with
            due := false
            waiting := none
            resume := some (q.landings.next, false)
            resumeGen := s.tables.generation
            copying := true } } }).listed)
    ∧ (q.landings.copying = true →
      exec (.landingCopyComplete slot) s = .next ((s.withMem p.landing.copy1 (memBytes s p.landing.copy0 p.landingSize)).withSlot n
        { v with run := some { q with landings := { q.landings with
          copying := false
          resume := q.landings.resume.map (fun x => (x.1, true)) } } }))
    ∧ (∀ (port : LinkId) (device me : BitVec 12) (number : Word) (digest : Dword), q.landings.waiting = none →
      let m := Sent.landing device.toNat me.toNat n number.toNat digest
      let notice := Instr.landingNotice port ⟨device, me, slot, none⟩ number digest
      (me.toNat = deviceNumber s → exec notice s = .next ((s.took port m).withSlot n { v with run := some { q with
        landings := { q.landings with notices := (device.toNat, number.toNat, digest) :: q.landings.notices } } }))
      ∧ (me.toNat ≠ deviceNumber s → exec notice s = .next ((s.took port m).relaying port m)))

/-- A mark advances its source's number by one and no other's: MARK answers the new number; an edge of MARK_IN with at least four samples
on each side is a mark, one with fewer counts as a glitch. An idle bound run that waits for no period has one pending after it. -/
def Obligations.MarksAdvance : Prop :=
  (∀ (h : Hdr) (src : Byte) (s : State), s.Inv → Serves s false → 4 ≤ src.toNat → src.toNat ≤ 7 → ∃ t : State,
    exec (.mark h src) s = .next (afterReply h (Reply.done (s.mark src.toNat + 1).toNat 0 0) t)
    ∧ t.mark src.toNat = s.mark src.toNat + 1 ∧ (∀ j, j ≠ src.toNat → t.mark j = s.mark j) ∧ t.mem = s.mem ∧ t.host = s.host
    ∧ (∀ n p q, n < 16 → (s.slot n).plan = some p → (s.slot n).run = some q → q.src = some (Fin.ofNat 8 src.toNat) → q.paused = false →
        q.pending = [] → (t.slot n).run.map (·.pending) = some [⟨s.mark src.toNat + 1, false⟩]))
  ∧ (∀ (src : Fin 4) (low high : Nat) (s : State), s.Inv → clocked s = true → 4 ≤ low → 4 ≤ high → s.paired = false → ∃ t,
    exec (.periodMark src low high) s = .next t ∧ t.mark src.val = s.mark src.val + 1 ∧ (∀ j, j ≠ src.val → t.mark j = s.mark j)
    ∧ t.mem = s.mem ∧ t.host = s.host
    ∧ (∀ n p q, n < 16 → (s.slot n).plan = some p → (s.slot n).run = some q → q.src = some (Fin.ofNat 8 src.val) → q.paused = false →
        q.pending = [] → (t.slot n).run.map (·.pending) = some [⟨s.mark src.val + 1, false⟩]))
  ∧ (∀ (src : Fin 4) (low high : Nat) (s : State), clocked s = true → (low < 4 ∨ high < 4) →
    exec (.periodMark src low high) s = .next (s.bump (counterId (srcMark src.val) 1) 1))

/-- PERIOD_START of an idle bound run with a pending period: the period runs, under its mark's number and at its tier (alone, the run's own),
with the slot seed, which moves on by ADVANCE. -/
def Obligations.PeriodStarts : Prop :=
  ∀ (slot : SlotId) (p : Plan) (q : Run) (v : Period) (rest : List Period) (w : Schedule) (s : State), s.Inv → (s.slot slot.val).plan = some p →
      (s.slot slot.val).run = some q → q.pending = v :: rest → q.src.isSome = true → q.active = false → q.paused = false → q.saving = none →
      p.steps ≠ [] → startSchedule s slot.val q = some w →
      (p.landing.every ≠ 0 ∨ StepOpen p { q with step := 0, completed := [], tier := w.tier }) →
    (s.twin = Twin.reset → w = q.schedule)
    ∧ ∃ t q', exec (.periodStart slot) s = .next t ∧ (t.slot slot.val).run = some q' ∧ q'.active = true ∧ q'.period = v.seq ∧ q'.step = 0
      ∧ q'.seed = (s.slot slot.val).seed ∧ (t.slot slot.val).seed = (s.slot slot.val).seed + (s.slot slot.val).advance
      ∧ q'.pending = q.pending ∧ q'.tier = w.tier ∧ q'.agreed = some w ∧ q'.completed = [] ∧ t.mem = s.mem ∧ t.host = s.host

/-! ### Numbers -/

/-- Every code of every format that is not a NaN converts back to itself, whatever the rounding mode, the random number and OVF_NAN, and
counts no event: a stored value loses nothing by being read and written. -/
def Obligations.FormatsRoundTrip : Prop :=
  ∀ (f : Fmt) (mode : Rnd) (r : Nat) (ovfNan : Bool) (c : Nat), c < 2 ^ f.width → decode f c ≠ .nan →
    convert f mode r ovfNan (decode f c) = ⟨c, false, false⟩

/-- Round to nearest even: no finite code of a floating-point format lies nearer to a finite value than the code delivered, unless the
value overflows; of two codes equally near, the one delivered is even. -/
def Obligations.RoundsToNearest : Prop :=
  ∀ (f : Fmt) (s : Bool) (m : Nat) (e : Int) (d : Nat), f.isFloat = true → d < 2 ^ f.width → (decode f d).isFin = true →
    let v : FV := .fin s m e
    let k := convert f .rne 0 false v
    k.sat = false →
    ((v.sub (decode f k.code)).abs).le ((v.sub (decode f d)).abs) = true
    ∧ (((v.sub (decode f k.code)).abs).eq ((v.sub (decode f d)).abs) = true → (decode f k.code).eq (decode f d) = false → k.code % 2 = 0)

/-- The uniform value of a word. -/
def Obligations.UniformValue : Prop :=
  (∀ w : Dword, let t := w.toNat / 2 ^ 40
    uniform w = decode .fp32 (convert .fp32 .rtz 0 false (.fin false (2 * t + 1) (-25))).code
    ∧ (t < 2 ^ 23 → (uniform w).eq (.fin false (2 * t + 1) (-25)) = true)
    ∧ (2 ^ 23 ≤ t → (uniform w).eq (.fin false t (-24)) = true)
    ∧ (FV.fin false 1 (-25)).le (uniform w) = true ∧ (uniform w).le (.fin false (2 ^ 24 - 1) (-24)) = true
    ∧ (uniform w).eq FV.zero = false ∧ (uniform w).eq FV.one = false)
  ∧ (∀ (u : LaneId) (d a : Reg) (b c : Fin 64) (s : State), b.val / 4 = 1 →
    let e := laneEnv s (laneIx u)
    exec (.rand u d a b c) s = .next (s.withReg u d (f32Bits (uniform (genWord e.ctx.seed ((e.prog.streamBase + c.val) % 2 ^ 32)
      (e.flat (s.laneOf u)))))))

/-- A Bernoulli draw. -/
def Obligations.BernoulliDraw : Prop :=
  (∀ (u : LaneId) (d a : Reg) (b c : Fin 64) (s : State), b.val / 4 = 2 →
    let e := laneEnv s (laneIx u)
    let x := uniform (genWord e.ctx.seed ((e.prog.streamBase + c.val) % 2 ^ 32) (e.flat (s.laneOf u)))
    exec (.rand u d a b c) s = .next (s.withReg u d (if x.lt (f32Val (s.reg u a)) then 1 else 0)))
  ∧ (∀ (w : Dword) (a : Word),
    (FV.one.le (f32Val a) = true → (uniform w).lt (f32Val a) = true)
    ∧ ((f32Val a).le (.fin false 1 (-25)) = true → (uniform w).lt (f32Val a) = false)
    ∧ ((f32Val a).isNan = true → (uniform w).lt (f32Val a) = false))

/-- An exact accumulator with its flags: which products are NaN, what each product does, and what the output is. -/
def Obligations.ExactAccumulator : Prop :=
  (∀ x y : FV, x.mul y = .nan ↔ (x = .nan ∨ y = .nan ∨ (x.isFin = false ∧ y.isZero = true) ∨ (x.isZero = true ∧ y.isFin = false)))
  ∧ (∀ (t : Tensor) (w : Word), t.scaled = true → LaneEnv.operand t 0xFF w = .nan)
  ∧ (∀ (s t : Bool) (n : Nat) (g : Int), n ≠ 0 → (FV.inf s).mul (.fin t n g) = .inf (s != t) ∧ (FV.fin t n g).mul (.inf s) = .inf (t != s))
  ∧ (∀ (w : Int) (a : Acc), a.exact w .nan = { a with nan := true } ∧ a.exact w (.inf false) = { a with pinf := true }
      ∧ a.exact w (.inf true) = { a with ninf := true })
  ∧ (∀ (w : Int) (a : Acc),
      (a.nan = true ∨ (a.pinf = true ∧ a.ninf = true) → Acc.value false w a = .nan)
      ∧ (a.nan = false → a.pinf = true → a.ninf = false → Acc.value false w a = .inf false)
      ∧ (a.nan = false → a.pinf = false → a.ninf = true → Acc.value false w a = .inf true)
      ∧ (a.nan = false → a.pinf = false → a.ninf = false → Acc.value false w a = (FV.ofInt a.int.toInt).scale w))

/-- The weight of bit 0 for operands without block scales: 2^(mA + mB); every product of two codes is a whole multiple of it, so that an
accumulator takes the product without loss. -/
def Obligations.UnscaledProductsExact : Prop :=
  Fmt.mExp .e4m3 = -9 ∧ Fmt.mExp .e5m2 = -16 ∧ Fmt.mExp .e2m1 = -1 ∧ Fmt.mExp .int8 = 0 ∧ Fmt.mExp .int4 = 0
  ∧ (∀ f : Fmt, f ∈ [Fmt.e4m3, .e5m2, .e2m1, .int8, .int4] →
      (∃ c, c < 2 ^ f.width ∧ (decode f c).eq (.fin false 1 f.mExp) = true)
      ∧ (∀ c, c < 2 ^ f.width → (decode f c).isFin = true → (decode f c).isZero = false →
          (FV.fin false 1 f.mExp).le (decode f c).abs = true))
  ∧ (∀ (f g : Fmt) (x y : Nat), f ∈ [Fmt.e4m3, .e5m2, .e2m1, .int8, .int4] → g ∈ [Fmt.e4m3, .e5m2, .e2m1, .int8, .int4] →
      x < 2 ^ f.width → y < 2 ^ g.width → (decode f x).isFin = true → (decode g y).isFin = true →
    ∃ i : Int, ((decode f x).mul (decode g y)).eq ((FV.ofInt i).scale (f.mExp + g.mExp)) = true
      ∧ ∀ a : Acc, (a.exact (f.mExp + g.mExp) ((decode f x).mul (decode g y))) = { a with int := a.int + BitVec.ofInt 96 i })
  ∧ (∀ (c : Ctx) (bi home g m n : Nat), (c.plan.tensor c.r.a).scaled = false → (c.plan.tensor bi).scaled = false →
      (c.product bi).weight home g m n = (c.plan.tensor c.r.a).fmt.mExp + (c.plan.tensor bi).fmt.mExp)
  ∧ (∀ (e : LaneEnv) (l : Lane), (e.ctx.plan.tensor e.ctx.r.a).scaled = false → (e.ctx.plan.tensor e.ctx.r.b).scaled = false →
      e.weight l = (e.ctx.plan.tensor e.ctx.r.a).fmt.mExp + (e.ctx.plan.tensor e.ctx.r.b).fmt.mExp)

/-- No order of accumulation affects an exact sum, and sums of parts of K joined give the sum of all of K. The products of a range of K
accumulated in two parts, one carried to the other, are those of the whole range. -/
def Obligations.ExactSums : Prop :=
  ((∀ (w : Int) (l m : List FV) (a : Acc), l.Perm m → l.foldl (Acc.exact w) a = m.foldl (Acc.exact w) a)
    ∧ (∀ (w : Int) (ls : List (List FV)),
        Acc.combine false (ls.map (fun l => l.foldl (Acc.exact w) Acc.zero)) = ls.flatten.foldl (Acc.exact w) Acc.zero))
  ∧ (∀ (p : Prod) (home g m n : Nat) (w : Int) (k0 k1 k2 : Nat) (a : Acc), k0 ≤ k1 → k1 ≤ k2 →
      p.accumulate home g m n w k1 k2 (p.accumulate home g m n w k0 k1 a) = p.accumulate home g m n w k0 k2 a)

/-! ### Lane instructions -/

/-- An instruction writes element registers only: a register above 47 keeps its value, as do the lane's other registers and every other
lane. Moves, constants, indices, integer and logical instructions, and SEL. -/
def Obligations.LaneIntegers : Prop :=
  (∀ (u w : LaneId) (d r : Reg) (v : Word) (s : State), s.Inv → Tab.wf 0 (s.laneOf u).regs = true →
      (s.withReg u d v).reg u r = (if r = d ∧ d.val < 48 then v else s.reg u r)
      ∧ (w ≠ u → (s.withReg u d v).laneOf w = s.laneOf w))
  ∧ (∀ (u : LaneId) (d a b c : Reg) (i : Fin 64) (s : State),
      let x := s.reg u a
      let y := s.reg u b
      let e := laneEnv s (laneIx u)
      let l := s.laneOf u
      exec (.laneNop u) s = .next (s.withLane u l)
      ∧ exec (.const u d i) s = .next (s.withReg u d (BitVec.ofNat 32 (e.prog.consts.getD i.val 0)))
      ∧ exec (.mov u d a) s = .next (s.withReg u d x)
      ∧ exec (.idx u d 0) s = .next (s.withReg u d (BitVec.ofNat 32 l.elem))
      ∧ exec (.idx u d 1) s = .next (s.withReg u d (BitVec.ofNat 32 l.row))
      ∧ exec (.idx u d 2) s = .next (s.withReg u d (BitVec.ofNat 32 (l.row / 2 ^ 32 % 256)))
      ∧ exec (.idx u d 3) s = .next (s.withReg u d (BitVec.ofNat 32 (e.flat l)))
      ∧ exec (.idx u d 4) s = .next (s.withReg u d (BitVec.ofNat 32 (e.flat l / 2 ^ 32)))
      ∧ (e.conv = none → e.flat l = l.row * e.prog.l + l.elem)
      ∧ exec (.iadd u d a b) s = .next (s.withReg u d (x + y))
      ∧ exec (.isub u d a b) s = .next (s.withReg u d (x - y))
      ∧ exec (.imul u d a b) s = .next (s.withReg u d (x * y))
      ∧ exec (.imulh u d a b) s = .next (s.withReg u d (((x.signExtend 64) * (y.signExtend 64)).extractLsb' 32 32))
      ∧ exec (.imin u d a b) s = .next (s.withReg u d (if x.toInt < y.toInt then x else y))
      ∧ exec (.imax u d a b) s = .next (s.withReg u d (if x.toInt < y.toInt then y else x))
      ∧ exec (.and u d a b) s = .next (s.withReg u d (x &&& y))
      ∧ exec (.or u d a b) s = .next (s.withReg u d (x ||| y))
      ∧ exec (.xor u d a b) s = .next (s.withReg u d (x ^^^ y))
      ∧ exec (.shl u d a b) s = .next (s.withReg u d (x <<< (y.toNat % 32)))
      ∧ exec (.shr u d a b) s = .next (s.withReg u d (x >>> (y.toNat % 32)))
      ∧ exec (.sar u d a b) s = .next (s.withReg u d (x.sshiftRight (y.toNat % 32)))
      ∧ exec (.icmplt u d a b) s = .next (s.withReg u d (if x.toInt < y.toInt then 1 else 0))
      ∧ exec (.icmpeq u d a b) s = .next (s.withReg u d (if x = y then 1 else 0))
      ∧ exec (.sel u d a b c) s = .next (s.withReg u d (if s.reg u c = 0 then y else x)))

/-- Floating-point instructions: the exact result, rounded once to FP32 (BF16 instructions: to FP32 and then BF16). -/
def Obligations.LaneFloats : Prop :=
  ∀ (u : LaneId) (d a b c : Reg) (s : State),
    let x := f32Val (s.reg u a)
    let y := f32Val (s.reg u b)
    let z := f32Val (s.reg u c)
    let p := bf16Val (s.reg u a)
    let q := bf16Val (s.reg u b)
    let r := bf16Val (s.reg u c)
    let nan : Word := 0x7FC00000
    let short (v : FV) : Word := BitVec.ofNat 32 (encode .bf16 (r32 v))
    exec (.fadd u d a b) s = .next (s.withReg u d (f32Bits (x.add y)))
    ∧ exec (.fsub u d a b) s = .next (s.withReg u d (f32Bits (x.sub y)))
    ∧ exec (.fmul u d a b) s = .next (s.withReg u d (f32Bits (x.mul y)))
    ∧ exec (.ffma u d a b c) s = .next (s.withReg u d (f32Bits ((x.mul y).add z)))
    ∧ exec (.fmin u d a b) s = .next (s.withReg u d (f32Bits (x.min y)))
    ∧ exec (.fmax u d a b) s = .next (s.withReg u d (f32Bits (x.max y)))
    ∧ exec (.fabs u d a) s = .next (s.withReg u d (if x.isNan then nan else s.reg u a &&& 0x7FFFFFFF))
    ∧ exec (.fneg u d a) s = .next (s.withReg u d (if x.isNan then nan else s.reg u a ^^^ 0x80000000))
    ∧ exec (.badd u d a b) s = .next (s.withReg u d (short (p.add q)))
    ∧ exec (.bmul u d a b) s = .next (s.withReg u d (short (p.mul q)))
    ∧ exec (.bfma u d a b c) s = .next (s.withReg u d (short ((p.mul q).add r)))
    ∧ exec (.fcmplt u d a b) s = .next (s.withReg u d (if x.lt y then 1 else 0))
    ∧ exec (.fcmple u d a b) s = .next (s.withReg u d (if x.le y then 1 else 0))
    ∧ exec (.fcmpeq u d a b) s = .next (s.withReg u d (if x.eq y then 1 else 0))

/-- CVT, SFN, RAND kinds 0, 3 and 4, XMAC and XRND. -/
def Obligations.LaneConversions : Prop :=
  ∀ (u : LaneId) (d a b : Reg) (x y : Fin 64) (s : State),
    let e := laneEnv s (laneIx u)
    let l := s.laneOf u
    let v := (s.reg u a).toNat
    let w := genWord e.ctx.seed ((e.prog.streamBase + y.val) % 2 ^ 32) (e.flat l)
    (∀ f g m, cvtFmt (x.val / 4) = some f → cvtFmt (y.val / 4) = some g → Rnd.ofCode (x.val % 4 * 2 + y.val / 2 % 2) = some m →
      let k := convert g m (if m = .sr then genTop (genWord e.ctx.seed e.prog.streamBase (e.flat l)) else 0) (bit y.val 0)
        (decode f (v % 2 ^ f.width))
      exec (.cvt u d a x y) s = .next (s.withLane u ((l.set d.val (BitVec.ofNat 32 k.code)).count k)))
    ∧ (∀ f g, sfnIn y.val = some f → sfnOut y.val = some g → sfCodes.contains x.val = true →
      let k := sfDeliver e.ctx.set x.val (decode f (v % 2 ^ f.width)) g false
      exec (.sfn u d a x y) s = .next (s.withLane u ((l.set d.val
        (if bit y.val 5 then f32Bits (decode g k.code) else BitVec.ofNat 32 k.code)).count k)))
    ∧ (x.val / 4 = 0 → exec (.rand u d a x y) s =
        .next (s.withLane u ((l.set d.val (w.extractLsb' 0 32)).set (d.val + 1) (w.extractLsb' 32 32))))
    ∧ (x.val / 4 = 3 →
        let k := sfDeliver .standard 0x18 (uniform w) .bf16 false
        exec (.rand u d a x y) s = .next (s.withLane u ((l.set d.val (BitVec.ofNat 32 k.code)).count k)))
    ∧ (x.val / 4 = 4 →
        let k := sfDeliver .standard 0x18 (uniform w) .fp16 false
        exec (.rand u d a x y) s = .next (s.withLane u ((l.set d.val (BitVec.ofNat 32 k.code)).count k)))
    ∧ (
        let p := (LaneEnv.operand (e.ctx.plan.tensor e.ctx.r.a) l.scaleA (s.reg u a)).mul
          (LaneEnv.operand (e.ctx.plan.tensor e.ctx.r.b) l.scaleB (s.reg u b))
        let r := (l.acc d.val).exact (e.weight l) p
        let m : Lane := { ((l.set d.val (r.int.extractLsb' 0 32)).set (d.val + 1)
            (r.int.extractLsb' 32 32)).set (d.val + 2) (r.int.extractLsb' 64 32) with
          flags := Tab.put 0 l.flags d.val (BitVec.ofNat 3 (4 * r.nan.toNat + 2 * r.pinf.toNat + r.ninf.toNat)) }
        (e.conv = none → exec (.xmac u d a b) s = .next (s.withLane u m))
        ∧ (e.conv.isSome = true → exec (.xmac u d a b) s = .next (s.withLane u (e.deliver { m with kpos := l.kpos + 1 })))
        ∧ (∀ c, e.conv = some c → l.kpos < c.p.k → Tab.wf 0 l.regs = true →
            let o := c.output l.row l.elem
            (e.deliver l).get 0 = BitVec.ofNat 32 (c.p.ca e.home o.1 o.2.1 l.kpos)
            ∧ (e.deliver l).get 1 = BitVec.ofNat 32 (c.p.cb e.home o.1 l.kpos o.2.2)
            ∧ (∀ k, 2 ≤ k → (e.deliver l).get k = l.get k)))
    ∧ (
        let t := e.ctx.plan.tensor e.ctx.r.out
        t.rnd ≠ .sr →
        let k := convert t.fmt t.rnd 0 t.ovfNan ((l.acc a.val).value false (e.weight l))
        exec (.xrnd u d a) s = .next (s.withLane u ((l.set d.val (BitVec.ofNat 32 k.code)).count k)))

/-- LD in its five modes reads through a load slot; ST holds a store until the unit completes, and changes no memory. -/
def Obligations.LaneLoadsAndStores : Prop :=
  ∀ (u : LaneId) (d a : Reg) (i : Fin 64) (s : State),
    let e := laneEnv s (laneIx u)
    let l := s.laneOf u
    let w := e.prog.slots.getD (i.val / 8) 0
    let t := e.ctx.plan.tensor (slotTensor w)
    let f := slotFlat w l.row (e.flat l)
    slotUsed w = true →
    (slotStore w = false →
      (i.val % 8 = 0 →
        let k := convert .fp32 .rne 0 false (e.ctx.val e.home (slotTensor w) f)
        exec (.ld u d i) s = .next (s.withLane u ((l.set d.val (BitVec.ofNat 32 k.code)).count k)))
      ∧ (i.val % 8 = 1 → exec (.ld u d i) s = .next (s.withReg u d (BitVec.ofNat 32 (e.ctx.code e.home (slotTensor w) f))))
      ∧ (i.val % 8 = 2 → exec (.ld u d i) s =
          .next (s.withReg u d (BitVec.ofInt 32 (decode t.fmt (e.ctx.code e.home (slotTensor w) f)).floor)))
      ∧ (i.val % 8 = 3 →
        let v := e.readWord t.sealed (e.wordAddr w f)
        exec (.ld u d i) s = .next (s.withLane u ((l.set d.val (BitVec.ofNat 32 v)).set (d.val + 1) (BitVec.ofNat 32 (v / 2 ^ 32)))))
      ∧ (i.val % 8 = 4 → exec (.ld u d i) s = .next (s.withReg u d (BitVec.ofNat 32 (e.ctx.scaleCode e.home (slotTensor w) f)))))
    ∧ (slotStore w = true → i.val % 8 < 4 → exec (.st u a i) s = .next (s.withLane u { l with
        stores := l.stores ++ [⟨i.val / 8, i.val % 8, f, s.reg u a, l.get (a.val + 1)⟩] }))

/-- A reduction takes the element's contribution: the first as it is, the next joined to those before. PASS and END end the element: the
element registers and the flags are cleared, the row registers kept, and the next element of the chunk starts, or the unit has run. A lane's
work unit whose checks pass: the lane is free and the core counts an operation; a second failure releases nothing, and escapes. -/
def Obligations.LaneReductionsAndEnds : Prop :=
  (∀ (u : LaneId) (d a : Reg) (s : State),
      let l := s.laneOf u
      let e := laneEnv s (laneIx u)
      let v := s.reg u a
      let joined (k : Reduce) (p : Partial) : State := s.withLane u { l with partials := l.partials ++ [(d.val, k, p)] }
      let one : Partial := ⟨1, f32Bits (f32Val v), 0⟩
      let first := welFirst (f32Val v)
      let next (f : Partial → Partial) : State := s.withLane u { l with partials := l.partials.map (fun x =>
        if x.1 = d.val then (d.val, x.2.1, f x.2.2) else x) }
      let ends := { l with regs := l.regs.filter (fun x => 48 ≤ x.1), flags := [] }
      ((∀ x ∈ l.partials, x.1 ≠ d.val) →
        exec (.rsum u d a) s = .next (joined .sum one) ∧ exec (.rmax u d a) s = .next (joined .max one)
        ∧ exec (.rmin u d a) s = .next (joined .min one)
        ∧ exec (.rwel u d a) s = .next (joined .wel ⟨first.n, f32Bits first.mean, f32Bits first.m2⟩))
      ∧ ((∃ x ∈ l.partials, x.1 = d.val) → (∀ x ∈ l.partials, x.1 = d.val → x.2.1 = .sum) →
        exec (.rsum u d a) s = .next (next (fun p => ⟨p.count + 1, f32Add p.p v, 0⟩)))
      ∧ ((∃ x ∈ l.partials, x.1 = d.val) → (∀ x ∈ l.partials, x.1 = d.val → x.2.1 = .max) →
        exec (.rmax u d a) s = .next (next (fun p => ⟨p.count + 1, f32Max p.p v, 0⟩)))
      ∧ ((∃ x ∈ l.partials, x.1 = d.val) → (∀ x ∈ l.partials, x.1 = d.val → x.2.1 = .min) →
        exec (.rmin u d a) s = .next (next (fun p => ⟨p.count + 1, f32Min p.p v, 0⟩)))
      ∧ ((∃ x ∈ l.partials, x.1 = d.val) → (∀ x ∈ l.partials, x.1 = d.val → x.2.1 = .wel) →
        exec (.rwel u d a) s = .next (next (fun p => p.next .wel v)))
      ∧ (l.busy = true → l.elem + 1 < min (32 * (l.elem / 32 + 1)) e.prog.l →
        exec (.pass u) s = .next (s.withLane u (e.begin { ends with elem := l.elem + 1 }))
        ∧ exec (.finish u) s = .next (s.withLane u (e.begin { ends with elem := l.elem + 1 })))
      ∧ (l.busy = true → min (32 * (l.elem / 32 + 1)) e.prog.l ≤ l.elem + 1 →
        exec (.pass u) s = .next (s.withLane u { ends with ended := true }) ∧ exec (.finish u) s = .next (s.withLane u { ends with ended := true })))
  ∧ (∀ (u : LaneId) (n : Fin 3) (s : State), (s.core (coreIx u.core)).escaped = true → exec (.laneWorkUnitComplete u n) s = .next s)
  ∧ (∀ (u : LaneId) (s : State), s.Inv → CoresSound s → (s.laneOf u).busy = true → (s.laneOf u).ended = true → (s.core (coreIx u.core)).escaped = false →
      ((s.core (coreIx u.core)).laneRuns = [] → ∃ t, exec (.laneWorkUnitComplete u 0) s = .next t ∧ t.laneOf u = Lane.reset
        ∧ (t.core (coreIx u.core)).health.ops = (s.core (coreIx u.core)).health.ops + 1)
      ∧ (∃ t, exec (.laneWorkUnitComplete u 2) s = .next t ∧ t.lanes = s.lanes ∧ t.mem = s.mem ∧ t.hooks = s.hooks
        ∧ (t.core (coreIx u.core)).escaped = true
        ∧ (t.core (coreIx u.core)).health.ops = (s.core (coreIx u.core)).health.ops + 2))

/-! ### Codec streams -/

/-- STREAM_OPEN of a descriptor in its ranges opens the free stream of the lowest index on the least loaded engine, with one STREAM_PLACED
record; STREAM_SUBMIT puts a frame in the queue, under the next frame number, and answers when it completes; STREAM_CLOSE of a stream
without frames frees its index, with one generation more. The controls and marks of an open stream: each writes its own field of the stream,
or the tags of one rack buffer, and answers; a wrong value gives BAD_PARAMETER, and a stream that is closed, closing or of another
generation BAD_PARAMETER of the stream field. -/
def Obligations.Streams : Prop :=
  ((∀ (h : Hdr) (host : Dword) (len : Word) (s : State), s.Inv → ServesHost s h false → len.toNat ≠ 128 →
      exec (.streamOpen h host len) s = .next (afterReply h (Reply.badField 40) s))
    ∧ (∀ (h : Hdr) (host : Dword) (len : Word) (e i : Nat) (s : State), s.Inv → ServesHost s h false → len.toNat = 128 →
      let b := hostData s h host.toNat 128
      let d := parseStream b
      let n := d.buffers * d.bufferBytes
      streamOk b = true → rangeOk s d.rackBase n = true → (d.rackBase + n ≤ cellarEnd ∨ isInter d.rackBase = true) → rackRefused s d = false →
        leastLoaded s (d.engines s) = some e → i < 256 → (s.stream i).opened = false → (∀ j, j < i → (s.stream j).opened = true) →
      (rackUsed s + d.buffers ≤ 1024 → (d.cls = 0 → engineLoad s e + d.rateKpix ≤ 2000000) →
        exec (.streamOpen h host len) s = .next (afterReply h (Reply.done (i + 256 * (s.stream i).gen.toNat) 0 0)
          ((s.withStream i (newStream s i h b e)).log 0x0500 (srcEngine e) (toLE 4 (i + 256 * (s.stream i).gen.toNat) ++ [0]))))
      ∧ (1024 < rackUsed s + d.buffers ∨ (d.cls = 0 ∧ 2000000 < engineLoad s e + d.rateKpix) →
        exec (.streamOpen h host len) s = .next (afterReply h (Reply.of stBusy) s)))
    ∧ (∀ (h : Hdr) (sid len : Word) (host : Dword) (s : State), s.Inv → ServesHost s h false → len.toNat = 64 →
      let i := sid.toNat % 256
      let v := s.stream i
      let b := hostData s h host.toNat 64
      v.opened = true → v.closing = none → streamId i v = sid.toNat → v.engine.isSome = true →
      (16 ≤ v.queue.length → exec (.streamSubmit h sid len host) s = .next (afterReply h (Reply.of stBusy) s))
      ∧ (v.queue.length < 16 → v.desc.dir = 0 → fieldLE b 0 2 = 1 → fieldLE b 2 1 ≤ 7 → fieldLE b 3 1 ≤ 7 → allZero (slice b 4 4) = true →
          allZero (slice b 48 16) = true → (planesOf v.desc b).all planeOk = true →
          (planesOf v.desc b).all (fun x => rangeOk s x.1 (planeSpan x)) = true →
        (namesCrate s ((planesOf v.desc b).map (fun x => (x.1, planeSpan x))) = true →
          exec (.streamSubmit h sid len host) s = .next (afterReply h (Reply.of stBadParameter) s))
        ∧ (namesCrate s ((planesOf v.desc b).map (fun x => (x.1, planeSpan x))) = false → planesSealedOk s v.desc (planesOf v.desc b) = false →
          exec (.streamSubmit h sid len host) s = .next (afterReply h (Reply.of stSealed) s))
        ∧ (namesCrate s ((planesOf v.desc b).map (fun x => (x.1, planeSpan x))) = false → planesSealedOk s v.desc (planesOf v.desc b) = true →
        ∃ x : Submit, exec (.streamSubmit h sid len host) s = .next (s.withStream i { v with
            queue := v.queue ++ [x]
            nextFrame := v.nextFrame + 1 })
          ∧ x.hdr = h ∧ x.frame = v.nextFrame ∧ x.flags = fieldLE b 2 1 ∧ x.ltSlot = fieldLE b 3 1 ∧ x.late = false ∧ x.mark = none
          ∧ x.passed = false))
      ∧ (v.queue.length < 16 → v.desc.dir = 1 → fieldLE b 0 2 = 1 → fieldLE b 2 1 ≤ 1 → fieldLE b 3 1 = 0 → allZero (slice b 24 40) = true →
        ∃ x : Submit, exec (.streamSubmit h sid len host) s = .next (s.withStream i { v with
            queue := v.queue ++ [x]
            nextFrame := v.nextFrame + 1 })
          ∧ x.hdr = h ∧ x.frame = v.nextFrame ∧ x.flags = fieldLE b 2 1 ∧ x.length = fieldLE b 4 4 ∧ x.late = false ∧ x.mark = none))
    ∧ (∀ (h : Hdr) (sid : Word) (s : State), s.Inv → Serves s false →
      let i := sid.toNat % 256
      let v := s.stream i
      v.opened = true → v.closing = none → streamId i v = sid.toNat → v.queue = [] → (∀ x ∈ s.engines, i ∉ x.2.ready) →
      (v.frame = none → (v.desc.dir = 0 → v.out = []) → exec (.streamClose h sid) s = .next (afterReply h (Reply.of stDone)
          (s.withStream i { Stream.reset with gen := v.gen + 1 })))
      ∧ (v.frame.isSome = true ∨ (v.desc.dir = 0 ∧ v.out ≠ []) → exec (.streamClose h sid) s = .next (s.withStream i { v with
          closing := some h
          held := []
          out := if v.desc.dir = 0 then v.out else [] }))))
  ∧ (∀ (h : Hdr) (sid : Word) (s : State), s.Inv → Serves s false →
      let i := sid.toNat % 256
      let v := s.stream i
      let done (w : Stream) : State := afterReply h (Reply.of stDone) (s.withStream i w)
      let wrong : State := afterReply h (Reply.of stBadParameter) s
      ((v.opened = false ∨ v.closing.isSome = true ∨ streamId i v ≠ sid.toNat) → ∀ (x : Dword) (w : Word) (a b : Half) (m n : Byte),
        ∀ c ∈ [Instr.ringHead h sid x, .rate h sid w w w a b, .forceKey h sid, .flush h sid, .rebind h sid m n, .streamClose h sid,
          .hold h sid a, .unhold h sid a, .releaseOut h sid a, .setLong h sid a m, .clearLong h sid a m],
        exec c s = .next (afterReply h (Reply.badField 32) s))
      ∧ (v.opened = true → v.closing = none → streamId i v = sid.toNat →
        (∀ x : Dword, exec (.ringHead h sid x) s = .next
          (if (v.produced - v.consumed).toNat < (x - v.consumed).toNat then wrong else done { v with consumed := x }))
        ∧ (∀ (bpf cap vbv : Word) (lo hi : Half),
          exec (.rate h sid bpf cap vbv lo hi) s = .next (if qpRange v.desc.codec v.desc.bitDepth (signed 16 lo.toNat) = true
              ∧ qpRange v.desc.codec v.desc.bitDepth (signed 16 hi.toNat) = true ∧ signed 16 lo.toNat ≤ signed 16 hi.toNat then
            done { v with newRate := some ⟨bpf.toNat, cap.toNat, vbv.toNat, signed 16 lo.toNat, signed 16 hi.toNat⟩ } else wrong))
        ∧ exec (.forceKey h sid) s = .next (done { v with forceKey := true })
        ∧ (v.desc.dir = 0 → exec (.flush h sid) s = .next (done v.endQueue)
            ∧ (v.queue ≠ [] → (v.endQueue.queue.getLast?).any (fun x => bit x.flags 2) = true))
        ∧ (v.desc.dir ≠ 0 → ∃ w : Stream, exec (.flush h sid) s = .next (done w)
            ∧ w.held = [] ∧ w.out.length = v.out.length + v.held.length ∧ w.out.take v.out.length = v.out
            ∧ w = { v with held := [], out := w.out, nextPicture := w.nextPicture })
        ∧ (∀ m n : Byte, v.tier = 3 → (m.toNat ≤ 7 ∧ v.desc.cls ≠ 2 ∨ m.toNat = 0xFF) → 1 ≤ n.toNat → n.toNat ≤ 8 →
          exec (.rebind h sid m n) s = .next (done { v with
            onTime := 0
            regained := true
            rebind := some (m.toNat, n.toNat) }))
        ∧ (∀ (a : Half) (m : Byte), v.desc.buffers ≤ a.toNat → ∀ c ∈ [Instr.hold h sid a, .unhold h sid a, .releaseOut h sid a,
            .setLong h sid a m, .clearLong h sid a m], exec c s = .next wrong)
        ∧ (∀ (a : Half) (m : Byte), a.toNat < v.desc.buffers →
          let t := v.tags a.toNat
          let marked (x : Tags) : State := afterReply h (Reply.done (tagWord x) 0 0) (s.withStream i (v.setTags a.toNat x))
          exec (.hold h sid a) s = .next (marked { t with hold := true })
          ∧ exec (.unhold h sid a) s = .next (marked { t with hold := false })
          ∧ exec (.releaseOut h sid a) s = .next (marked { t with out := false })
          ∧ exec (.setLong h sid a m) s = .next (if v.desc.dir = 0 ∧ t.filled = true ∧ m.toNat ≤ 7 then
              marked { t with long := t.long ||| BitVec.ofNat 8 (2 ^ m.toNat) } else wrong)
          ∧ exec (.clearLong h sid a m) s = .next (if v.desc.dir = 0 ∧ m.toNat ≤ 7 then
              marked { t with long := t.long &&& ~~~ BitVec.ofNat 8 (2 ^ m.toNat) } else wrong))))

/-- Frames of an encode stream: the frame that is coded next, which without reordering is the oldest one, starts in the free buffer of the
lowest number, and a key frame drops every reference; a block row adds its bits and counts one operation; a record goes to the ring where it
has room, followed by the producer word, and waits otherwise; the frame completes with its buffer filled. A decode submit starts by taking
its data. Which frames an encoder holds for reordering is the model's choice (notes/assumptions/25.md). -/
def Obligations.Frames : Prop :=
  (∀ (n : Fin 256) (e : Fin 16) (x : Submit) (rest : List Submit) (s : State), s.Inv →
    let i := n.val
    let v := s.stream i
    v.opened = true → v.out = [] → v.engine = some e → engineOpen s e.val = true → v.frame = none → v.queue = x :: rest →
    (v.desc.bframes = 0 → v.takeCoded = some (x, { v with
        queue := rest
        overtaken := v.overtaken - 1 }))
    ∧ (∀ b y v0, v.desc.dir = 0 → v.freeBuffer = some b → v.takeCoded = some (y, v0) →
      let w := v0.startEncode y b
      exec (.frameStart n) s = .next { s.withStream i w with
        engines := Tab.put Engine.reset s.engines e.val { s.engine e.val with
          ready := (s.engine e.val).ready.filter (· != i) ++ [i] } }
      ∧ w.queue = v0.queue ∧ w.frame.map (·.buffer) = some b ∧ w.frame.map (·.sub) = some y ∧ w.frame.map (·.key) = some (v.startsKey y)
      ∧ w.frame.map (·.row) = some 0 ∧ (v.startsKey y = true → ∀ c, (w.tags c).short = false ∧ (w.tags c).long = 0))
    ∧ (v.desc.dir = 0 → v.freeBuffer = none ∨ v.takeCoded = none → exec (.frameStart n) s = .next s)
    ∧ (v.desc.dir = 1 → bit x.flags 1 = false → dmaStopped s x.hdr = false →
        exec (.frameStart n) s = .next (s.withStream i (v.startDecode (submitData s x) x))
        ∧ (v.startDecode (submitData s x) x).queue = rest)
    ∧ (v.desc.dir = 1 → bit x.flags 1 = true → s.ecc = [] →
        let w := v.startDecode (submitData (seen s (touchRange false x.source x.length)) x) x
        ∃ t, exec (.frameStart n) s = .next t ∧ t.stream i = w ∧ w.queue = rest ∧ t.mem = s.mem ∧ t.host = s.host ∧ t.slots = s.slots ∧ t.hooks = s.hooks)
    ∧ (v.desc.dir = 1 → bit x.flags 1 = false → dmaStopped s x.hdr = true → exec (.frameStart n) s = .next s))
  ∧ (∀ (e : EngineId) (i : Nat) (f : Frame) (s : State), s.Inv → engineOpen s e.val = true → (s.rail (srcEngine e.val)).rail ≠ .gated →
      pickRow s (servable s e.val) = some i → (s.stream i).frame = some f → (s.stream i).desc.dir = 0 →
    let v := s.stream i
    let past := Config.codecNext v.coder (pictureBytes (seen s (planeTouches v.desc f.sub)) v.desc f.sub ++ toLE 8 f.row ++ toLE 8 (unsigned 64 f.qp))
    ∃ t g, exec (.blockRow e 0) s = .next t ∧ (t.stream i).frame = some g ∧ (t.stream i).coder = past
      ∧ g.row = f.row + 1 ∧ g.rowBits = f.rowBits ++ [Config.codecNum past 0] ∧ g.sub = f.sub ∧ g.buffer = f.buffer ∧ g.key = f.key
      ∧ g.coding = decide (f.row + 1 < (s.stream i).desc.rows)
      ∧ ((s.stream i).desc.unitEnds f.row = false → (t.stream i).out = [])
      ∧ ((s.stream i).desc.unitEnds f.row = true → (t.stream i).out ≠ [])
      ∧ (t.engine e.val).health.ops = (s.engine e.val).health.ops + 1
      ∧ t.host = s.host ∧ t.hooks = s.hooks ∧ (flightTouches s = [] → t.slots = s.slots) ∧ t.regions = s.regions)
  ∧ (∀ (n : Fin 256) (x : OutRec) (rest : List OutRec) (s : State), s.Inv →
    let i := n.val
    let v := s.stream i
    let o := v.produced.toNat % v.desc.ringSize
    let after := v.produced + BitVec.ofNat 64 (32 + roundUp 32 x.payload.length)
    v.opened = true → v.closing = none → outputRuns s v.port.val = true → v.out = x :: rest → bit x.flags 4 = false → skipBytes v x = 0 →
    (hasRoom v x = true → ∃ t, exec (.unitEmit n) s = .next t ∧ (t.stream i).out = rest ∧ (t.stream i).produced = after
      ∧ t.host = putHost (putHost s.host v.port.val (v.desc.ringBase + o)
          (recHeader i v x (x.flags + lateFlag v x) x.payload.length ++ padTo (roundUp 32 x.payload.length) x.payload))
          v.port.val v.desc.producer (toLE 8 after.toNat)
      ∧ t.mem = s.mem ∧ t.hooks = s.hooks)
    ∧ (hasRoom v x = false → exec (.unitEmit n) s = .next s))
  ∧ (∀ (n : Fin 256) (f : Frame) (s : State), s.Inv →
    let i := n.val
    let v := s.stream i
    v.opened = true → v.frame = some f → f.coding = false → v.desc.dir = 0 → (∀ x ∈ v.out, x.frame ≠ f.sub.frame) → v.desc.signal = 0xFFFF →
      v.closing = none → Tab.wf Tags.none v.buffers = true →
    ∃ t : State, exec (.frameComplete n) s = .next (afterReply f.sub.hdr (frameReply 0 f) t)
      ∧ (t.stream i).frame = none ∧ ((t.stream i).tags f.buffer).filled = true ∧ (t.stream i).queue = v.queue ∧ (t.stream i).out = v.out
      ∧ t.mem = s.mem ∧ t.host = s.host ∧ t.hooks = s.hooks
      ∧ (bit f.sub.flags 1 = true → ((t.stream i).tags f.buffer).long.getLsbD (f.sub.ltSlot % 8) = true ∨ 7 < f.sub.ltSlot))

/-! ### Links, domains, twins -/

/-- Link ports: LINK_CONFIGURE starts or stops a port, a training that locks ends in VERIFY with an identity and one that does not in DOWN,
a lane that loses its signal is retired, at a slot of both directions past which it carries nothing, a retune takes one lane out of the
striping and puts it back. A data flit in SEQ order is accepted, and its credit owed; a flit with a wrong CRC or an uncorrectable codeword, or
a data flit out of order, is not, and the next flit sent carries a NAK. -/
def Obligations.LinkPorts : Prop :=
  ((∀ (h : Hdr) (port : Byte) (len : Word) (host : Dword) (s : State), s.Inv → ServesHost s h false → port.toNat ≤ 15 → len.toNat ≠ 16 →
      exec (.linkConfigure h port len host) s = .next (afterReply h (Reply.badField 36) s))
    ∧ (∀ (h : Hdr) (port : Byte) (len : Word) (host : Dword) (s : State), s.Inv → ServesHost s h false → port.toNat ≤ 15 → len.toNat = 16 →
      let p := port.toNat
      let l := s.link p
      let b := hostData s h host.toNat 16
      let l1 := { l with
        laneMask := BitVec.ofNat 8 (fieldLE b 3 1)
        minLanes := fieldLE b 4 1
        retune := fieldLE b 5 1 == 1
        loopback := fieldLE b 6 1 == 1 }
      linkBlockOk b = true →
      (fieldLE b 2 1 = 1 → (fieldLE b 6 1 = 0 ∨ portUsed s p = false) → l.enable = false → l.state = .disabled → l.sheeted = false →
        let w := { l1.cleared with
          enable := true
          state := .training }
        exec (.linkConfigure h port len host) s = .next (afterReply h (Reply.done w.activeMask 1 w.retired.toNat)
          ((s.withLink p w).log 0x0400 (srcLink p) [0, 1])))
      ∧ (fieldLE b 2 1 = 0 → portUsed s p = false → l.state = .up → ∃ t,
        exec (.linkConfigure h port len host) s = .next (afterReply h (Reply.done l1.cleared.activeMask 0 l1.retired.toNat) t)
          ∧ t.link p = { l1.cleared with
            enable := false
            state := .disabled })
      ∧ (fieldLE b 2 1 = 0 → portUsed s p = false → l.state ≠ .up →
        let w := { l1.cleared with
          enable := false
          state := .disabled }
        exec (.linkConfigure h port len host) s = .next (afterReply h (Reply.done w.activeMask 0 w.retired.toNat)
          (if l.state = .disabled then s.withLink p w else (s.withLink p w).log 0x0400 (srcLink p) [BitVec.ofNat 8 l.state.code, 0])))
      ∧ (fieldLE b 2 1 = 1 → (fieldLE b 6 1 = 0 ∨ portUsed s p = false) → l.enable = true → l.state = .up →
        (l1.minLanes ≤ l1.active.length → exec (.linkConfigure h port len host) s =
          .next (afterReply h (Reply.done l1.activeMask 3 l1.retired.toNat) (s.withLink p l1)))
        ∧ (l1.active.length < l1.minLanes → ∃ t, exec (.linkConfigure h port len host) s =
            .next (afterReply h (Reply.done l1.activeMask 4 l1.retired.toNat) t) ∧ (t.link p).state = .down
          ∧ (t.link p).activeMask = l1.activeMask))
      ∧ (fieldLE b 2 1 = 0 ∨ fieldLE b 6 1 = 1 → portUsed s p = true →
        exec (.linkConfigure h port len host) s = .next (afterReply h (Reply.of stBusy) s)))
    ∧ (∀ (port : LinkId) (locked : Byte) (sense : Bool) (s : State), s.Inv → clocked s = true →
      let p := port.val
      let l := s.link p
      let ok := l.minLanes ≤ l.active.length ∧ l.active ≠ [] ∧ ∀ i ∈ l.active, locked.getLsbD i = true
      l.enable = true → l.sheeted = false → l.state = .training →
      (ok → ∃ t m, exec (.linkTrained port ⟨locked, sense⟩) s = .next t ∧ t.power = { s.power with twinSense := sense } ∧ (t.link p).state = .verify ∧ (t.link p).retrainFailed = false
        ∧ (t.link p).identityOk = none ∧ t.outbox = s.outbox ++ [m] ∧ t.mem = s.mem ∧ t.host = s.host ∧ ∀ q, q ≠ p → t.link q = s.link q)
      ∧ (¬ ok → s.twin.bound = false ∨ s.twin.linkLost = true → exec (.linkTrained port ⟨locked, sense⟩) s = .next (({ s with
          power := { s.power with twinSense := sense } }.withLink p { l with
            retrainFailed := true
            state := .down }).log 0x0400 (srcLink p) [1, 4])))
    ∧ (∀ (port : LinkId) (lane : Fin 8) (s : State), s.Inv →
      let p := port.val
      let l := s.link p
      let left : Link := { l with
        retired := l.retired ||| BitVec.ofNat 8 (2 ^ lane.val)
        retuning := if l.retuning = some lane then none else l.retuning }
      (clocked s = true → l.enable = true → l.laneMask.getLsbD lane.val = true → l.retired.getLsbD lane.val = false →
        ∃ t, exec (.laneSignalLoss port lane) s = .next t ∧ (t.link p).retired = left.retired
          ∧ (left.retired ≠ 0xFF → (l.state = .up ∨ l.state = .verify → left.minLanes ≤ left.active.length) →
            (l.state = .up ∨ l.state = .verify → (lane.val, l.retireSlot) ∈ (t.link p).leaving ∧ l.retireSlot ≤ (t.link p).txCount)
            ∧ (∃ x ∈ t.ledger, x.event = 0x0401 ∧ x.source = BitVec.ofNat 16 (srcLink p)) ∧ t.mem = s.mem ∧ t.hooks = s.hooks))
      ∧ (l.retired.getLsbD lane.val = true → exec (.laneSignalLoss port lane) s = .next s)
      ∧ (clocked s = true → l.state = .up → l.retuning = none → lane.val ∈ l.active → 2 ≤ l.active.length →
        let due := if l.retune = true then lane.val ∈ l.faulted
          else 2 ^ 40 ≤ Tab.look 0 l.sinceRetune lane.val ∨ 2 ^ 20 < Tab.look 0 l.corrected lane.val
        (due → exec (.laneRetune port lane) s = .next ((s.withLink p { l with retuning := some lane }).bump (counterId (srcLink p) 4) 1))
        ∧ (¬ due → exec (.laneRetune port lane) s = .next s))
      ∧ (l.retuning = some lane → exec (.retuneComplete port lane true) s = .next (s.withLink p { l with
          retuning := none
          sinceRetune := Tab.put 0 l.sinceRetune lane.val 0
          corrected := Tab.put 0 l.corrected lane.val 0
          faulted := l.faulted.filter (· != lane.val)
          testing := l.testing.filter (· != lane.val) }))
      ∧ (l.retuning = some lane → l.retired.getLsbD lane.val = false → ∃ t, exec (.retuneComplete port lane false) s = .next t
        ∧ (t.link p).retired = l.retired ||| BitVec.ofNat 8 (2 ^ lane.val) ∧ (t.link p).retuning = none)))
  ∧ (∀ (port : LinkId) (flit : List Byte) (n : Fin 16) (s : State), s.Inv → clocked s = true → (s.link port.val).state = .up →
      (s.link port.val).loopback = false → (∀ x ∈ s.colls, x.2.chunks = []) →
      let p := port.val
      let l := s.link p
      let good := flit.length = 256 ∧ fieldLE flit 252 4 = crc32 (flit.take 252)
      let typ := bits (fieldLE flit 2 1) 5 4
      (good → typ = 0 → fieldLE flit 0 2 = l.rxSeq.toNat → ∃ t, exec (.flitReceive port flit ⟨none, n⟩) s = .next t
        ∧ (t.link p).rxSeq = l.rxSeq + 1 ∧ (t.link p).rxCount = l.rxCount + 1 ∧ (t.link p).ackValid = true ∧ (t.link p).resent = false
        ∧ (let v := bits (fieldLE flit 2 1) 7 6
           (t.link p).rx = l.rx ++ [⟨v, s.rxHalf p v (slice flit 16 236), l.rxSeq, slice flit 16 236⟩]) ∧ t.mem = s.mem ∧ t.host = s.host)
      ∧ (¬ good ∨ (typ = 0 ∧ fieldLE flit 0 2 ≠ l.rxSeq.toNat ∧ bit (fieldLE flit 6 1) 7 = false) →
        ∃ t f, exec (.flitReceive port flit ⟨none, n⟩) s = .next t
        ∧ (t.link p).rxSeq = l.rxSeq ∧ (t.link p).rx = l.rx ∧ (t.link p).resent = true
        ∧ (t.link p).sent[l.sent.length]? = some f ∧ bit (fieldLE f 6 1) 7 = true ∧ t.mem = s.mem ∧ t.host = s.host)
      ∧ (∀ i : Fin 8, thirdFault (Tab.look Health.reset (l.arrive n.val).laneHealth i.val) = false →
        ∃ t f, exec (.flitReceive port flit ⟨some i, n⟩) s = .next t
        ∧ (t.link p).rxSeq = l.rxSeq ∧ (t.link p).rx = l.rx ∧ (t.link p).resent = true ∧ i.val ∈ (t.link p).testing
        ∧ (t.link p).sent[l.sent.length]? = some f ∧ bit (fieldLE f 6 1) 7 = true ∧ t.mem = s.mem ∧ t.host = s.host))

/-- Messages that links bring: each leaves the receive buffer of its port, and the flits that this empties give their credits back; one for
another member is passed on; an unsealed WRITE or READ of this device is carried out and answered, or refused and answered so; the answer to
the one access of a WRITE_MEM or READ_MEM completes the command; an answer to no access changes nothing more. -/
def Obligations.RemoteAccesses : Prop :=
  ∀ (port : LinkId) (m : Msg) (s : State), s.Inv →
    let w := s.took port (.mem 1 m)
    let r := s.took port (.mem 2 m)
    let d := s.took port (.mem 3 m)
    let k := s.took port (.mem 4 m)
    (forMe s m = false →
      exec (.write port m) s = .next (w.relaying port (.mem 1 m)) ∧ exec (.read port m) s = .next (r.relaying port (.mem 2 m))
      ∧ exec (.data port m) s = .next (d.relaying port (.mem 3 m)) ∧ exec (.ack port m) s = .next (k.relaying port (.mem 4 m)))
    ∧ (forMe s m = true → m.sealed = false → s.ecc = [] → Awake s →
      (accessRefused s m = none → flightTouches s = [] →
        exec (.write port m) s = .next ((w.withMem m.addr.toNat m.data).answering 4 m none [])
        ∧ exec (.read port m) s = .next (r.answering 3 m none (memBytes s m.addr.toNat m.length.toNat)))
      ∧ (∀ c, accessRefused s m = some c →
        exec (.write port m) s = .next (w.answering 4 m (some c) []) ∧ exec (.read port m) s = .next (r.answering 3 m (some c) [])))
    ∧ (rangeOk s m.addr.toNat m.length.toNat = false → accessRefused s m = some false)
    ∧ (forMe s m = true → (∀ x ∈ s.xfers, x.xid ≠ m.xid) → exec (.data port m) s = .next d ∧ exec (.ack port m) s = .next k)
    ∧ (∀ (h : Hdr) (dev host len : Dword) (x : Xfer), forMe s m = true → m.again = false → s.xfers = [x] → x.xid = m.xid → x.done = false →
        x.device = m.src.toNat → x.refused = none →
      (x.isRead = false → x.owner = .command (.writeMem h dev host len) →
        exec (.ack port m) s = .next (afterReply h (if m.refused then Reply.of (if m.causeSealing then stSealed else stBadAddress)
          else Reply.of stDone) { k with xfers := [] }))
      ∧ (x.isRead = true → x.owner = .command (.readMem h dev host len) → dmaStopped s h = false → x.parts = [] → x.addr = m.addr.toNat → x.addr = localPart dev.toNat → h.partner = none →
          m.sealed = false → m.refused = false → m.data.length = x.length → m.data ≠ [] →
        exec (.data port m) s = .next (afterReply h (Reply.of stDone) ({ d with xfers := [] }.withHost h.port host.toNat m.data))))

/-- DOMAIN_JOIN of a role that needs no port joins at once; otherwise it waits, with its ports enabled. A peer's identity that agrees brings
a port UP, or leaves it so; one that does not takes it DOWN. -/
def Obligations.DomainMembership : Prop :=
  (∀ (h : Hdr) (len : Word) (host : Dword) (d : Domain) (s : State), s.Inv → ServesHost s h false → s.twin.bound = false →
      s.twin.binding = none → s.member = none → s.joining = none →
      parseDomain (hostData s h host.toNat (min len.toNat 1088)) len.toNat = some d →
    (d.ports = [] → exec (.domainJoin h len host) s = .next (afterReply h
      (Reply.done (d.devices.getD (d.myGroup * d.members + d.myPosition) 0xFFF) 0 0) { s with member := some d }))
    ∧ ((∃ p ∈ d.ports, s.up p = false) → (∀ p ∈ d.ports, (s.link p).state = .verify ∨ s.up p = true → (s.link p).enable = true) →
      ∃ t, exec (.domainJoin h len host) s = .next t ∧ t.joining = some (h, d) ∧ t.member = none
      ∧ (∀ p ∈ d.ports, (t.link p).enable = true ∨ (t.link p).sheeted = true) ∧ t.mem = s.mem ∧ t.host = s.host ∧ t.chutes = s.chutes))
  ∧ (∀ (h : Hdr) (len : Word) (host : Dword) (s : State), ServesHost s h false → s.twin.bound = false →
      (s.member.isSome = true ∨ s.joining.isSome = true ∨ s.twin.binding.isSome = true) → exec (.domainJoin h len host) s = .next (afterReply h (Reply.of stBusy) s))
  ∧ (∀ (port : LinkId) (id : Dword) (number : BitVec 12) (group position : Byte) (s : State), s.Inv →
      ((s.link port.val).state = .verify ∨ s.up port.val = true) →
    let p := port.val
    let u := applyAll (takeBytes port 3 (msgHeader 8 0 0 number.toNat 0 (group.toNat + 256 * position.toNat) id.toNat 0) s) s
    let ok := ∃ d, domainOf s = some d ∧ p ∈ d.ports ∧ d.id = id ∧ d.peer p = (group.toNat, position.toNat)
      ∧ d.device group.toNat position.toNat = number.toNat
    (ok → ∃ t, exec (.domain port id number group position) s = .next t ∧ (t.link p).state = .up ∧ (t.link p).identityOk = some true
      ∧ t.mem = s.mem ∧ t.regions = s.regions)
    ∧ (¬ ok → s.joining = none → (s.up p = false → exec (.domain port id number group position) s =
          .next ((u.withLink p { u.link p with
            identityOk := some false
            state := .down }).log 0x0400 (srcLink p) [2, 4]))
      ∧ (s.up p = true → ∃ t, exec (.domain port id number group position) s = .next t ∧ (t.link p).state = .down
          ∧ (t.link p).identityOk = some false)))

/-- Twin pairs: TWIN_BIND waits with both twin ports enabled and completes with the partner's opposite mode; TWIN_RELEASE asks the partner
whether a run stands against it, and ends the pair with both ports disabled where none does; a partner's reply completes a packet with the
larger status; packets, order numbers and register writes that the partner sends start, pass their chute's head or wait by their place in
the order; a twin that steps out has no run left, and the one that goes on is marked so. (The layout of twin messages is the model's,
notes/assumptions/17.md.) -/
def Obligations.TwinPairs : Prop :=
  (∀ (h : Hdr) (mode : Byte) (s : State), s.Inv → Serves s false → mode.toNat ≤ 1 → s.member = none →
    (s.twin.bound = false → s.twin.binding = none → s.joining = none → (∀ x ∈ s.slots, x.2.plan = none) → (∀ x ∈ s.streams, x.2.opened = false) →
        (s.up 7 && s.up 15) = false →
        (∀ p ∈ [7, 15], (s.link p).state = .verify ∨ s.up p = true → (s.link p).enable = true) →
      ∃ t, exec (.twinBind h mode) s = .next t ∧ t.twin.binding = some (h, mode == 1) ∧ t.twin.bound = false
      ∧ (∀ p ∈ [7, 15], (t.link p).enable = true ∨ (t.link p).sheeted = true) ∧ t.mem = s.mem ∧ t.host = s.host ∧ t.chutes = s.chutes)
    ∧ (∀ other : Bool, s.twin.bound = false → s.twin.binding = none → s.joining = none → (∀ x ∈ s.slots, x.2.plan = none) →
        (∀ x ∈ s.streams, x.2.opened = false) → (∀ p ∈ [7, 15], s.up p = true) → s.twin.partnerBind = some other →
      let asked : State := { s with twin := { s.twin with binding := some (h, mode == 1) } }
      let u := applyAll (Act.seq (identify 7) (identify 15) asked) asked
      exec (.twinBind h mode) s = .next (if other = (mode == 0) then
          afterReply h (Reply.done mode.toNat 0 0) { u with twin := { Twin.reset with
            bound := true
            mode := mode == 1 } }
        else afterReply h ⟨stBadParameter, 0, 0, 1, 0, false, 0⟩ { u with twin := { s.twin with
          binding := none
          partnerBind := none } }))
    ∧ (s.twin.bound = true ∨ s.twin.binding.isSome = true ∨ s.joining.isSome = true ∨ (∃ x ∈ s.slots, x.2.plan.isSome = true)
        ∨ (∃ x ∈ s.streams, x.2.opened = true) → exec (.twinBind h mode) s = .next (afterReply h (Reply.of stBusy) s)))
  ∧ (∀ (h : Hdr) (mode : Byte) (s : State), Serves s false → mode.toNat ≤ 1 → s.member.isSome = true →
      exec (.twinBind h mode) s = .next (afterReply h (Reply.of stBadParameter) s))
  ∧ (∀ (port : LinkId) (other : Nat) (value : Dword) (more : Bool) (body : List Byte) (h : Hdr) (mode : Bool) (s : State), s.Inv →
      clocked s = true →
      (port.val = 7 ∧ other = 15 ∨ port.val = 15 ∧ other = 7) → (s.link port.val).state = .verify → s.up other = true →
      s.twin.bound = false → s.twin.binding = some (h, mode) → value.toNat = 1 + b2n (!mode) →
    ∃ t : State, exec (.twin port 0 value ⟨more, body⟩) s = .next (afterReply h (Reply.done (b2n mode) 0 0) t)
      ∧ t.twin = { Twin.reset with
          bound := true
          mode := mode } ∧ (t.link port.val).state = .up ∧ t.mem = s.mem ∧ t.host = s.host)
  ∧ (∀ (h : Hdr) (s : State), s.Inv → clocked s = true → s.firmware.recovery = false →
    (s.twin.bound = false → exec (.twinRelease h) s = .next (afterReply h (Reply.of stDone) s))
    ∧ (s.twin.bound = true → s.paired = false → s.twin.steppedOut = false → (∃ x ∈ s.slots, x.2.run.isSome = true) →
      exec (.twinRelease h) s = .next (afterReply h (Reply.of stBusy) s))
    ∧ (s.paired = true → s.twin.releasing = none → s.twin.partnerBusy = none → ∃ t, exec (.twinRelease h) s = .next t
      ∧ t.twin = { s.twin with releasing := some (h, runsLeft s) } ∧ t.outbox = s.outbox ++ [.twin 10 (b2n (runsLeft s)) false []]
      ∧ t.mem = s.mem ∧ t.host = s.host ∧ t.chutes = s.chutes)
    ∧ (∀ other : Bool, s.paired = true → s.twin.releasing = none → s.twin.partnerBusy = some other →
        (other = true ∨ ∃ x ∈ s.slots, x.2.run.isSome = true) → ∃ t, exec (.twinRelease h) s = .next (afterReply h (Reply.of stBusy) t)
      ∧ t.twin = { s.twin with partnerBusy := none } ∧ t.mem = s.mem ∧ t.host = s.host)
    ∧ (s.twin.bound = true → (∀ x ∈ s.slots, x.2.run = none) →
        (s.paired = false ∨ (s.twin.releasing = none ∧ s.twin.partnerBusy = some false)) → ∃ t, exec (.twinRelease h) s = .next t
      ∧ t.twin = Twin.reset ∧ (∀ p ∈ [7, 15], (t.link p).enable = false ∧ (t.link p).state = .disabled) ∧ t.mem = s.mem
      ∧ (Answerable s h → h.signal = false → s.twin.forwarded = [] → s.xfers = [] → (t.chute (chuteIx h.port h.chute)).replyIndex
          = (s.chute (chuteIx h.port h.chute)).replyIndex + (if h.replyOnErrorOnly then 0 else 1))))
  ∧ (∀ (port : LinkId) (n : Dword) (body : List Byte) (f : Forwarded) (o : Reply) (s : State), clocked s = true → s.twin.bound = true →
      s.twin.part = [] → (port.val = 7 ∨ port.val = 15) → s.twin.forwarded.find? (fun f => f.order == n) = some f → f.own = some o →
      o.status = (parseReply body).status →
    let t := { s.took port (.twin 3 n.toNat false body) with twin := { s.twin with
      forwarded := s.twin.forwarded.filter (fun g => g.order != n) } }
    exec (.twin port 3 n ⟨false, body⟩) s = .next (applyAll (replyEffs f.hdr o t) t))
  ∧ (∀ (port : LinkId) (k : Byte) (n : Dword) (body : List Byte) (s : State), clocked s = true → s.twin.bound = true →
      (port.val = 7 ∨ port.val = 15) → k ≠ 0 →
    exec (.twin port k n ⟨true, body⟩) s = .next { s.took port (.twin k.toNat n.toNat true body) with twin := { s.twin with
      part := s.twin.part ++ body } })
  ∧ (∀ (port : LinkId) (k : Byte) (n : Dword) (more : Bool) (body : List Byte) (s : State), clocked s = true → k ≠ 0 →
      (s.twin.bound = false ∨ port.val ≠ 7 ∧ port.val ≠ 15) →
    exec (.twin port k n ⟨more, body⟩) s = .next (s.took port (.twin k.toNat n.toNat more body)))
  ∧ (∀ (port : LinkId) (n : Dword) (body : List Byte) (s : State), s.Inv → clocked s = true → s.twin.bound = true →
      (port.val = 7 ∨ port.val = 15) → s.twin.part = [] → s.twin.releasing = none →
    let x := splitBody body
    let w (k : Nat) := s.took port (.twin k n.toNat false body)
    (∀ i, orderer s = false → s.twin.steppedOut = false → s.twin.waiting = [] → partnerInstr n (fieldLE body 0 1) x.1 = some i →
        packetWait x.1 = none →
      ∃ t, exec (.twin port 1 n ⟨false, body⟩) s = .next t ∧ t.mem = s.mem ∧ t.host = s.host
        ∧ (n = s.twin.order → t.started = s.started ++ [i] ∧ t.twin.order = n + 1 ∧ t.twin.waiting = [])
        ∧ (n ≠ s.twin.order → t.started = s.started ∧ t.twin.order = s.twin.order ∧ t.twin.waiting = [(n, .packet i none)]))
    ∧ (∀ a : Asking, s.twin.asked.find? (fun a => a.id == fieldLE body 0 8) = some a → s.twin.waiting = [] →
        let k := chuteIx a.hdr.port a.hdr.chute
        (s.chute k).epoch = a.hdr.epoch → (s.chute k).enable = true →
      ∃ t, exec (.twin port 2 n ⟨false, body⟩) s = .next t ∧ t.mem = s.mem ∧ t.host = s.host
        ∧ (t.chute k).head = (s.chute k).head + BitVec.ofNat 32 (packetEntries (s.chute k) a.packet)
        ∧ (t.chute k).owed = (s.chute k).owed + 1
        ∧ t.twin.asked = s.twin.asked.filter (fun b => b.id != fieldLE body 0 8)
        ∧ t.twin.forwarded = s.twin.forwarded ++ [⟨a.hdr, n, none, none⟩])
    ∧ (orderer s = true → exec (.twin port 4 n ⟨false, body⟩) s = .next { w 4 with twin := { s.twin with
        requests := s.twin.requests ++ [⟨n.toNat, toLE 2 (fieldLE body 0 2) ++ x.1, x.2, .idle, 0, 0⟩] } })
    ∧ (∀ v, parseWork body = some v → s.twin.steppedOut = false → s.twin.waiting = [] → n ≠ BitVec.allOnes 64 → n ≠ BitVec.allOnes 64 - 1 → n ≠ s.twin.order →
      exec (.twin port 5 n ⟨false, body⟩) s = .next { w 5 with twin := { s.twin with waiting := [(n, v)] } })
    ∧ (s.twin.steppedOut = false → s.twin.partnerOut = false → s.twin.forwarded = [] → s.twin.writes = [] →
      ∃ t, exec (.twin port 9 n ⟨false, body⟩) s = .next t ∧ t.twin.partnerOut = true ∧ t.mem = s.mem)
    ∧ (s.paired = true → n.toNat ≠ 2 → exec (.twin port 10 n ⟨false, body⟩) s =
        .next { w 10 with twin := { s.twin with partnerBusy := some (n.toNat == 1) } })
    ∧ (s.twin.steppedOut = true → n.toNat = 2 → (∀ x ∈ s.slots, x.2.run = none) →
      ∃ t, exec (.twin port 10 n ⟨false, body⟩) s = .next t ∧ t.twin = Twin.reset
      ∧ (∀ p ∈ [7, 15], (t.link p).enable = false ∧ (t.link p).state = .disabled) ∧ t.mem = s.mem))
  ∧ (∀ s : State, s.Inv → s.twin.bound = true → s.twin.steppedOut = false → s.twin.partnerOut = false → s.twin.forwarded = [] →
      (s.port 0).perst = false → (s.port 1).perst = false →
    (∃ t, exec (.stepOut true) s = .next t ∧ t.twin.steppedOut = true ∧ (∀ n, n < 16 → (t.slot n).run = none)
      ∧ (t.port 0).evtCause.getLsbD 2 = true ∧ (t.port 1).evtCause.getLsbD 2 = true ∧ t.mem = s.mem ∧ t.regions = s.regions)
    ∧ ((∀ n, n < 16 → (s.slot n).run = none) → exec (.stepOut false) s = .next { s.log 0x0113 0 (toLE 1 (b2n (s.twin.mode == false))) with
        ports := Tab.put Port.reset (Tab.put Port.reset s.ports 0 ((s.port 0).event 2)) 1 ((s.port 1).event 2)
        twin := { s.twin with
          partnerOut := true
          releasing := none
          asked := [] } }))
  ∧ (∀ (own : Bool) (s : State), s.twin.bound = false → exec (.stepOut own) s = .next s)

/-! ### Collectives, tables, firmware -/

/-- A collective is admitted once those of lower IDs have been and fewer than the plan's peak are in progress, and one on the dumbwaiter
holds a slot on each hub; a chunk takes its bin and sends its grants; a message for another member is passed on; a peer's first words join
the chunk's; a grant that differs bars its peer, with one record. (The readings of grants that come early are the model's,
notes/assumptions/17.md.) -/
def Obligations.Collectives : Prop :=
  (∀ (slot : SlotId) (r : Nat) (p : Plan) (q : Run) (s : State), s.Inv → (s.slot slot.val).plan = some p → (s.slot slot.val).run = some q →
    (collectiveReady p q r = true → lowerAdmitted p q r = true → q.collectives.length < p.resource.peakSums →
        (∀ d ∈ sumMembers s p (p.record r), d = deviceNumber s ∨ reachable s d = true) →
      let v := s.withSlot slot.val { s.slot slot.val with run := some { q with collectives := q.collectives ++ [⟨r, 0, 1, []⟩] } }
      (onDumbwaiter p (p.record r) = false → exec (.collectiveAdmit slot r) s = .next v)
      ∧ (onDumbwaiter p (p.record r) = true → ∃ t, exec (.collectiveAdmit slot r) s = .next t ∧ t.slots = v.slots ∧ t.mem = s.mem
          ∧ ∀ h : Fin 2, t.coll h.val = { s.coll h.val with
            dumbwaiters := (s.coll h.val).dumbwaiters ++ [collectiveId s slot.val p r] }))
    ∧ (p.resource.peakSums ≤ q.collectives.length → exec (.collectiveAdmit slot r) s = .next s)
    ∧ (lowerAdmitted p q r = false → exec (.collectiveAdmit slot r) s = .next s))
  ∧ (∀ (slot : SlotId) (r k : Nat) (f : LaneFault) (p : Plan) (q : Run) (a : Admitted) (e : Coll1) (s : State), s.Inv →
      (s.slot slot.val).plan = some p → (s.slot slot.val).run = some q → q.collectives.find? (fun a => a.record == r) = some a →
      collOf s slot.val r k = some e →
    let h := chunkHub k
    let id := collectiveId s slot.val p r
    let v := s.coll h
    (if h = 0 then a.next0 else a.next1) = k → k < sumChunks p (p.record r) → (∀ x ∈ v.chunks, x.id ≠ id) → e.completes = false →
      (∀ g ∈ v.grants, g.id ≠ id) → (∀ d ∈ e.givers, barredPeer s id d = false) → (p.tensor (p.record r).sumTensor).sealed = false →
    ∃ t, exec (.chunkBinAssign slot r ⟨k, f⟩) s = .next t
      ∧ (t.coll h).chunks = v.chunks ++ [⟨id, slot.val, r, k, e.words, [], [], [], [], [], none, f, false, false, false⟩]
      ∧ (t.slot slot.val).run = some { q with collectives := q.collectives.map (fun b =>
          if b.record ≠ r then b else if h = 0 then { b with next0 := k + 2 } else { b with next1 := k + 2 }) }
      ∧ t.outbox = s.outbox ++ e.givers.map (fun d => .sum
          ⟨id, k, .grant, 0, BitVec.ofNat 12 e.me, BitVec.ofNat 12 d, BitVec.ofNat 32 (sumCount p (p.record r)), setCrc e.members, e.dw, .no,
            [], false, 0, [], 0, ⟨0, 0, 0⟩⟩)
      ∧ t.mem = s.mem ∧ t.host = s.host)
  ∧ (∀ (port : LinkId) (m : SumMsg) (x : ChunkState) (e : Coll1) (s : State), s.Inv → m.answer = .no → m.sealed = false →
      m.dst.toNat = deviceNumber s → m.kind = .exponents →
      (s.coll (chunkHub m.chunk)).chunks.find? (fun x => x.id == m.id && x.chunk == m.chunk) = some x →
      collOf s x.slot x.record m.chunk = some e → (e.ctx.plan.tensor e.ctx.r.sumTensor).sealed = false → m.src.toNat ∈ e.givers →
      (m.kind, m.src.toNat, m.first) ∉ x.got → (∀ g ∈ (s.coll (chunkHub m.chunk)).grants, g.id ≠ m.id) → x.agreed = false → x.total = false → x.returned e .agreed = false →
    let ring := e.dw = true ∧ m.src.toNat ∈ e.ring
    let w := List.replicate m.first 0 ++ bytesWords m.data
    let y : ChunkState := { x with
      exps := if ring then x.exps else mergeWords x.exps w
      ringExps := if ring then mergeWords x.ringExps w else x.ringExps
      got := (m.kind, m.src.toNat, m.first) :: x.got }
    (e.completes = false ∨ e.needs.all (y.has e .exponents) = false) → ∀ i ∈ [Instr.sumMessage port m, .dwait port m],
      ∃ t, exec i s = .next t ∧ t.mem = s.mem ∧ t.host = s.host
        ∧ (t.coll (chunkHub m.chunk)).chunks.find? (fun x => x.id == m.id && x.chunk == m.chunk) = some y)
  ∧ (∀ (port : LinkId) (m : SumMsg) (s : State), m.dst.toNat ≠ deviceNumber s → takesSum s m = false →
      ∀ i ∈ [Instr.sumMessage port m, .dwait port m], exec i s = .next ((s.took port (.sum m)).relaying port (.sum m)))
  ∧ (∀ (port : LinkId) (m : SumMsg) (s : State), s.Inv → Awake s → m.answer = .no → m.sealed = false → m.dst.toNat = deviceNumber s →
      m.kind = .grant →
    let h := chunkHub m.chunk
    let v := s.coll h
    let w := s.took port (.sum m)
    (collectiveOf s m.id = none → exec (.sumMessage port m) s = .next { w with colls := Tab.put Coll.reset s.colls h { v with
      grants := v.grants ++ [⟨m.id, m.chunk, m.src.toNat, m.n, m.setCrc⟩] } })
    ∧ (∀ (j : Nat) (p : Plan) (r : Nat), collectiveOf s m.id = some (j, p, r) →
        (m.n.toNat ≠ sumCount p (p.record r) ∨ m.setCrc ≠ setCrc (sumMembers s p (p.record r))) →
      (barredPeer s m.id m.src.toNat = true → exec (.sumMessage port m) s = .next w)
      ∧ (barredPeer s m.id m.src.toNat = false → exec (.sumMessage port m) s = .next ({ w with
          colls := Tab.put Coll.reset s.colls h { v with
            barred := v.barred ++ [(m.id, m.src.toNat)]
            grants := v.grants.filter (fun x => !(x.id == m.id && x.src == m.src.toNat)) } }.log 0x0402 (srcColl h)
              (toLE 8 m.id.toNat ++ toLE 2 m.src.toNat)))))

/-- A table switch: TABLE_LOAD and TABLE_SELECT start the writing of the inactive banks, one at a time; when they are written the
generation advances; and once no job carries an older one, the command answers the set's identity, with one record. -/
def Obligations.TableSwitching : Prop :=
  (∀ (h : Hdr) (host : Dword) (len : Word) (k : Byte) (s : State), ServesHost s h false → len.toNat = 3584 → k.toNat ≤ 1 →
    (s.tables.command.isSome = true → exec (.tableLoad h host len) s = .next (afterReply h (Reply.of stBusy) s)
      ∧ exec (.tableSelect h k) s = .next (afterReply h (Reply.of stBusy) s))
    ∧ (s.tables.command = none →
      exec (.tableSelect h k) s = .next { s with tables := { s.tables with
        writing := some (if k = 0 then .standard else .c12)
        command := some h } }
      ∧ exec (.tableLoad h host len) s = .next (match parseTables (hostData s h host.toNat 3584) with
        | none => afterReply h (Reply.of stBadParameter) s
        | some t => { s with tables := { s.tables with
            writing := some t
            command := some h } })))
  ∧ (∀ (h : Hdr) (k : Byte) (s : State), Serves s false → 1 < k.toNat → exec (.tableSelect h k) s = .next (afterReply h (Reply.badField 32) s))
  ∧ (∀ s : State,
    (s.tables.writing = none → exec .tableBanksWritten s = .next s)
    ∧ (∀ t, s.tables.writing = some t → exec .tableBanksWritten s = .next { s with tables := { s.tables with
        generation := s.tables.generation + 1
        active := t
        old := some s.tables.active
        writing := none } }))
  ∧ (∀ (h : Hdr) (s : State), s.tables.command = some h →
    let older (q : Run) : Prop := q.gen ≠ s.tables.generation
      ∨ (q.landings.waiting.isSome = true ∧ q.landings.resume.isSome = true ∧ q.landings.resumeGen ≠ s.tables.generation)
    (s.tables.writing.isSome = true ∨ (∃ x ∈ s.slots, ∃ q, x.2.run = some q ∧ older q) → exec .tableSwitchComplete s = .next s)
    ∧ (s.tables.writing = none → (∀ x ∈ s.slots, ∀ q, x.2.run = some q → ¬ older q) →
      let id := s.tables.active.ident
      exec .tableSwitchComplete s = .next (afterReply h (Reply.done (id % 2 ^ 32) (id / 2 ^ 32) 0) ({ s with tables := { s.tables with
        old := none
        command := none } }.log 0x0306 0 (toLE 8 id)))))

/-- FIRMWARE_STAGE appends its bytes to the image that its port stages, in the bank that is not running; FIRMWARE_COMMIT of an image that
verifies makes that bank the preferred one, and one that does not is rejected with an event and a record, the flash as it was. -/
def Obligations.FirmwareUpdates : Prop :=
  (∀ (h : Hdr) (host : Dword) (off len : Word) (s : State), ServesHost s h true → len ≠ 0 →
    let staged : List Byte := if off = 0 then [] else (s.stage.map (·.bytes)).getD []
    let bs := staged ++ hostData s h host.toNat len.toNat
    (∀ x, s.stage = some x → x.port ≠ h.port → exec (.firmwareStage h host off len) s = .next (afterReply h (Reply.of stBusy) s))
    ∧ ((∀ x, s.stage = some x → x.port = h.port) →
      (off.toNat ≠ staged.length → exec (.firmwareStage h host off len) s = .next (afterReply h (Reply.badField 40) s))
      ∧ (off.toNat = staged.length → 2 ^ 20 < len.toNat ∨ 28 * 2 ^ 20 < off.toNat + len.toNat →
        exec (.firmwareStage h host off len) s = .next (afterReply h (Reply.badField 44) s))
      ∧ (off ≠ 0 → off.toNat = staged.length → exec (.firmwareStage h host off 0) s = .next (afterReply h (Reply.badField 44) s))
      ∧ (off.toNat = staged.length → len.toNat ≤ 2 ^ 20 → off.toNat + len.toNat ≤ 28 * 2 ^ 20 →
        exec (.firmwareStage h host off len) s = .next (afterReply h (Reply.of stDone) { s with
          stage := some ⟨h.port, bs⟩
          flash := s.flash.setBank (!s.firmware.bankB) bs }))))
  ∧ (∀ (h : Hdr) (len : Word) (s : State), Serves s true →
    (s.stage = none → exec (.firmwareCommit h len) s = .next (afterReply h (Reply.of stBusy) s))
    ∧ (∀ x, s.stage = some x → x.port = h.port →
      exec (.firmwareCommit h len) s = .next (
        if len.toNat = x.bytes.length ∧ imageOk s.flash.minSvn x.bytes = true then
          afterReply h (Reply.done (b2n (!s.firmware.bankB)) 0 0) { s with
            stage := none
            flash := { s.flash with
              preferB := !s.firmware.bankB
              writeCount := s.flash.writeCount + 1 } }
        else afterReply h (Reply.of stFirmware) { s.log 0x0005 (srcPort h.port) (toLE 1 1) with
          stage := none
          ports := Tab.put Port.reset (Tab.put Port.reset s.ports 0 ((s.port 0).event 3)) 1 ((s.port 1).event 3) })))

/-! ### Resets -/

/-- A function's reset starts once, and other requests join it; FUNCTION_RESET_COMPLETE answers all of them. A chute that is reset is
disabled with its indices at 0 and its settings kept; a plan slot is left empty; an FLR leaves its port's chutes and registers as at
reset. RESET_DEVICE writes DONE, keeps memory and taint, and clears what R304 clears. -/
def Obligations.Resets : Prop :=
  (∀ (h : Hdr) (fid : Half) (s : State), s.Inv → Serves s false →
    (unitOk s fid.toNat = false ∨ (h.partner = none ∧ fid.toNat = srcChute (chuteIx h.port h.chute)) →
      exec (.resetFunction h fid) s = .next (afterReply h (Reply.badField 32) s))
    ∧ (unitOk s fid.toNat = true → (h.partner.isSome = true ∨ fid.toNat ≠ srcChute (chuteIx h.port h.chute)) →
      (inReset s fid.toNat = true → exec (.resetFunction h fid) s = .next { s with resets := s.resets.map (fun r =>
        if r.fid = resetKey s fid then { r with commands := r.commands ++ [h] } else r) })
      ∧ (inReset s fid.toNat = false →
        (∃ t, exec (.resetFunction h fid) s = .next t ∧ t.resets = s.resets ++ [⟨fid, [h], []⟩] ∧ ((fid.toNat / 4096 ≠ 6 ∧ (fid.toNat / 4096 = 3 → (s.link (fid.toNat % 4096)).state ≠ .up))
              ∨ (∀ x ∈ s.slots, x.2.run = none) → t.mem = s.mem)
          ∧ t.regions = s.regions
          ∧ t.keys = s.keys ∧ t.tables = s.tables ∧ t.pending = s.pending
          ∧ (fid.toNat / 4096 = 5 → let i := fid.toNat % 4096
            (t.chute i).enable = false ∧ (t.chute i).head = 0 ∧ (t.chute i).tail = 0 ∧ (t.chute i).replyIndex = 0
              ∧ (t.chute i).ringBase = (s.chute i).ringBase ∧ (t.chute i).log2N = (s.chute i).log2N)
          ∧ (fid.toNat / 4096 = 6 → t.slot (fid.toNat % 4096) = Slot.reset)))))
  ∧ (∀ (fid : Half) (pass : Bool) (s : State), (∀ r ∈ s.resets, r.fid ≠ fid) → exec (.functionResetComplete fid pass) s = .next s)
  ∧ (∀ (fid : Half) (h : Hdr) (s : State), s.resets = [⟨fid, [h], []⟩] → fid.toNat / 4096 ≠ 8 →
    exec (.functionResetComplete fid true) s = .next (afterReply h (Reply.of stDone) { s with resets := [] }))
  ∧ (∀ (fid : Half) (p : PortId) (s : State), s.resets = [⟨fid, [], [p]⟩] → fid.toNat / 4096 ≠ 8 →
    exec (.functionResetComplete fid true) s = .next ({ s with resets := [] }.withPort p.val { s.port p.val with
      resetBusy := false
      resetDone := true }))
  ∧ (∀ (p : PortId) (fid : Half) (s : State), s.Inv → barOpen s p.val = true → s.twin.bound = false →
    ((s.port p.val).resetBusy = true → exec (.funcReset p fid) s = .next (s.withPort p.val { s.port p.val with fid := fid }))
    ∧ ((s.port p.val).resetBusy = false → unitOk s fid.toNat = false → exec (.funcReset p fid) s = .next (s.withPort p.val
        { s.port p.val with
          fid := fid
          resetRejected := true }))
    ∧ ((s.port p.val).resetBusy = false → unitOk s fid.toNat = true → inReset s fid.toNat = false →
      ∃ t, exec (.funcReset p fid) s = .next t ∧ (t.port p.val).fid = fid ∧ (t.port p.val).resetBusy = true
        ∧ t.resets = s.resets ++ [⟨fid, [], [p]⟩] ∧ ((fid.toNat / 4096 ≠ 6 ∧ (fid.toNat / 4096 = 3 → (s.link (fid.toNat % 4096)).state ≠ .up))
              ∨ (∀ x ∈ s.slots, x.2.run = none) → t.mem = s.mem)))
  ∧ (∀ (p : PortId) (s : State), s.Inv → barOpen s p.val = true → (s.port p.val).flrActive = false → ∃ t, exec (.flr p) s = .next t
    ∧ (t.port p.val).flrActive = true ∧ (t.port p.val).busMaster = false ∧ (t.port p.val).window = none ∧ (t.port p.val).evtEnable = false
    ∧ (t.port p.val).dlUp = (s.port p.val).dlUp ∧ (∃ r ∈ t.resets, r.fid = BitVec.ofNat 16 (srcPort p.val))
    ∧ (∀ c : Fin 64, (t.chute (chuteIx p c)).enable = false ∧ (t.chute (chuteIx p c)).ringBase = 0) ∧ t.mem = s.mem)
  ∧ (∀ (h : Hdr) (w : Word) (s : State), s.Inv → Serves s true →
    (w ≠ 0x0D200D20 → exec (.resetDevice h w) s = .next (afterReply h (Reply.badField 32) s))
    ∧ (w = 0x0D200D20 → s.twin.bound = false → ∃ t, exec (.resetDevice h w) s = .next t
      ∧ t.host = (afterReply h (Reply.of stDone) s).host ∧ t.mem = s.mem ∧ t.taint = s.taint ∧ t.pending = s.pending
      ∧ t.status.ready = false ∧ t.status.resetting = true ∧ (∀ i, (t.chute i).enable = false) ∧ t.hooks = [] ∧ t.slots = []
      ∧ t.regions = [] ∧ t.keys = [] ∧ t.streams = [] ∧ t.member = none ∧ t.tables = Tables.reset
      ∧ (∀ p, (t.link p).enable = false ∧ (t.link p).state = .disabled)
      ∧ t.flash.startCount = s.flash.startCount + 1 ∧ t.ledger.head?.map (·.event) = some 0x0002))

/-! ### Registers, mailboxes, configuration -/

/-- Writes of a chute's registers and of hooks: TAIL and REPLY_HEAD of an enabled chute, a REPLY_HEAD out of range recorded and ignored,
ENABLE of a disabled chute with its fields in range, ENABLE = 0 as the chute's reset, and a hook's COUNT as a release. -/
def Obligations.ChuteRegisters : Prop :=
  ∀ (p : PortId) (k : Fin 64) (s : State), s.Inv → barOpen s p.val = true →
    let i := chuteIx p k
    let c := s.chute i
    (∀ v : Word, exec (.tail p k v) s = .next (if c.enable then s.withChute i { c with tail := v } else s))
    ∧ (∀ (v : Dword) (o : BitVec 24), o.toNat = 0x10000 + 4096 * k.val →
      exec (.registerWrite p o 4 v) s = exec (.tail p k (v.setWidth 32)) s)
    ∧ (∀ v : Word, exec (.replyHead p k v) s = .next (if c.enable = false then s
        else if c.replyIndex - c.replyHead < v - c.replyHead then s.log 0x0304 (srcChute i) (toLE 4 v.toNat)
        else applyAll (markStopped (s.withChute i { c with replyHead := v })) (s.withChute i { c with replyHead := v })))
    ∧ (∃ t : State, t = applyAll (markStopped s) s ∧ ∀ j, t.chute j = { s.chute j with stopped := (t.chute j).stopped })
    ∧ (∀ v : Dword, c.enable = false →
      let c1 := { c with
        log2N := v.extractLsb' 0 5
        log2Replies := v.extractLsb' 8 5
        cls := v.extractLsb' 16 2
        vector := v.extractLsb' 24 6 }
      (4 ≤ c1.log2N.toNat ∧ c1.log2N.toNat ≤ 16 ∧ 4 ≤ c1.log2Replies.toNat ∧ c1.log2Replies.toNat ≤ 16 →
          inReset s (srcChute i) = false → exec (.chuteEnable p k v) s = .next (s.withChute i { c1 with
          enable := true
          cfgBad := false
          blocked := false
          stopped := false
          head := 0
          tail := 0
          replyIndex := 0
          replyHead := 0
          owed := 0
          granted := none
          passes := 0
          promoted := 0
          fetched := [] }))
      ∧ (¬ (4 ≤ c1.log2N.toNat ∧ c1.log2N.toNat ≤ 16 ∧ 4 ≤ c1.log2Replies.toNat ∧ c1.log2Replies.toNat ≤ 16) →
          inReset s (srcChute i) = false → exec (.chuteEnable p k v) s = .next (s.withChute i { c1 with cfgBad := true }))
      ∧ (inReset s (srcChute i) = true → exec (.chuteEnable p k v) s = .next (s.withChute i c1)))
    ∧ (c.enable = false → exec (.chuteDisable p k) s = .next s)
    ∧ (c.enable = true → inReset s (srcChute i) = false → ∃ t, exec (.chuteDisable p k) s = .next t
      ∧ t.resets = s.resets ++ [⟨BitVec.ofNat 16 (srcChute i), [], []⟩] ∧ (t.chute i).enable = false ∧ (t.chute i).tail = 0
      ∧ (t.chute i).ringBase = c.ringBase ∧ t.mem = s.mem)
    ∧ (∀ (n : BitVec 12) (v : Word), s.twin.bound = false → (s.hook n.toNat).waiters = [] →
      exec (.hookRegisterWrite p n v) s = .next (if n.toNat < 64 then s.log 0x0303 (srcPort p.val) (toLE 2 n.toNat)
        else if v = 0 then s else s.releasedHook n.toNat v.toNat (srcPort p.val)))

/-- The other registers of a port: APPLY of the BAR2 window, reads and writes through it, EVT_CAUSE cleared by ones, the patiences with 0
ignored, the selects, unaligned writes discarded, the mailbox, SMBus messages, and configuration writes. -/
def Obligations.PortRegisters : Prop :=
  ∀ (p : PortId) (s : State), s.Inv → barOpen s p.val = true →
    let q := s.port p.val
    let a := 65536 * q.winBase.toNat
    let n := 65536 * q.winLength.toNat
    exec (.apply p) s = .next (s.withPort p.val (if n = 0 ∨ q.flrActive = true then { q with window := none }
      else if n ≤ 2 ^ (30 + q.bar2Log2) ∧ rangeOk s a n = true then { q with window := some (a, n) } else { q with winBad := true }))
    ∧ (∀ off len : Nat, (q.window = none ∨ ∃ b m, q.window = some (b, m) ∧ m ≤ off) →
      exec (.bar2Read p off len) s = .next (s.withPort p.val { q with readData := List.replicate len 0xFF }))
    ∧ (∀ b m off len : Nat, q.window = some (b, m) → off < m → off + len ≤ m → rangeOk s (b + off) len = false →
      exec (.bar2Read p off len) s = .next (s.withPort p.val { q with readData := List.replicate len 0xFF }))
    ∧ (∀ b m off len : Nat, q.window = some (b, m) → off < m → off + len ≤ m → rangeOk s (b + off) len = true → s.ecc = [] → Awake s →
        runRaces s (touchRange false (b + off) len) = [] →
      exec (.bar2Read p off len) s = .next (s.withPort p.val { q with
        readData := if touchesTaint s (b + off) then List.replicate len 0xFF else memBytes s (b + off) len }))
    ∧ (∀ (off : Nat) (bs : List Byte), s.twin.bound = false → s.ecc = [] → Awake s →
      (q.window = none → exec (.bar2Write p off bs) s = .next s)
      ∧ (∀ b m, q.window = some (b, m) → off < m → off + bs.length ≤ m → rangeOk s (b + off) bs.length = true →
          runRaces s (touchRange true (b + off) bs.length) = [] → exec (.bar2Write p off bs) s = .next (s.withMem (b + off) bs)))
    ∧ (∀ v : Dword,
      exec (.registerWrite p 0x1028 4 v) s = .next (s.withPort p.val { q with evtCause := q.evtCause &&& ~~~ v.extractLsb' 0 4 })
      ∧ exec (.registerWrite p 0x1018 4 v) s = .next { s with status := { s.status with
          bgPatience := if v.extractLsb' 16 16 = 0 then s.status.bgPatience else v.extractLsb' 16 16
          bulkPatience := if v.extractLsb' 0 16 = 0 then s.status.bulkPatience else v.extractLsb' 0 16 } }
      ∧ exec (.registerWrite p 0xA0010 4 v) s = .next (s.withPort p.val { q with ledgerSelect := v.setWidth 32 })
      ∧ exec (.registerWrite p 0xB0000 4 v) s = .next (s.withPort p.val { q with counterSelect := v.setWidth 32 })
      ∧ (∀ (o : BitVec 24) (bytes : Nat), (bytes ≠ 4 ∧ bytes ≠ 8) ∨ o.toNat % bytes ≠ 0 →
          exec (.registerWrite p o bytes v) s = .next s))
    ∧ (q.mailbox.busy = true → exec (.mbSend p) s = .next s)
    ∧ (q.mailbox.busy = false → q.mailbox.reqLength.toNat ≤ 1024 → exec (.mbSend p) s = .next { s.withPort p.val { q with
        mailbox := { q.mailbox with busy := true } } with
      mgmt := { s.mgmt with queue := s.mgmt.queue ++ [(some p, Tab.lookAll 0 q.mailbox.request 0 q.mailbox.reqLength.toNat)] } })
    ∧ exec (.mbAbort p) s = .next { s.withPort p.val { q with mailbox := { q.mailbox with busy := false } } with
        mgmt := { s.mgmt with queue := s.mgmt.queue.filter (fun x => x.1 != some p) } }
    ∧ (∀ bs : List Byte, s.mgmt.queue = [] → readsEvent bs = false → exec (.smbusMessage bs) s = .next { s with
        mgmt := { s.mgmt with responses := if messageOk bs then s.mgmt.responses ++ [match readsSensor bs with
            | none => responseBytes s.free
            | some id => sensorAnswer s bs id] else s.mgmt.responses }
        free := s.free + 1 })
    ∧ (∀ (k : Fin 8) (on : Bool),
      exec (.configurationWrite p (.busMaster on)) s = .next (s.withPort p.val { q with busMaster := on }.sendPending)
      ∧ exec (.configurationWrite p (.relaxedOrdering on)) s = .next (s.withPort p.val { q with relaxedOrdering := on })
      ∧ exec (.configurationWrite p (.bar2Size k)) s = .next (s.withPort p.val { q with
          bar2Log2 := k.val
          window := q.window.map (fun x => (x.1, min x.2 (2 ^ (30 + k.val)))) })
      ∧ exec (.configurationWrite p (.aerMask on)) s = .next (s.withPort p.val { q with aerMasked := on })
      ∧ exec (.configurationWrite p (.aerSeverity on)) s = .next (s.withPort p.val { q with aerFatal := on })
      ∧ exec (.configurationWrite p .aerClear) s = .next (s.withPort p.val { q with aerStatus := false })
      ∧ (∀ r : Fin 16, exec (.configurationWrite p (.completionTimeout r)) s = .next (s.withPort p.val { q with completionTimeout := r.val }))
      ∧ (∀ w r : Fin 6, exec (.configurationWrite p (.sizes w r)) s = .next (s.withPort p.val { q with
          maxPayload := min w.val 2
          maxRead := r.val })))
    ∧ (∀ (v : Fin 64) (address : Dword) (data : Word), ∃ t, exec (.configurationWrite p (.msixMessage v address data)) s = .next t
      ∧ (t.port p.val).message v.val = ⟨v.val, address, data⟩ ∧ (∀ u : Nat, u ≠ v.val → (t.port p.val).message u = q.message u)
      ∧ t = s.withPort p.val { q with msixTable := (t.port p.val).msixTable })
    ∧ (∀ (v : Fin 64) (on mask : Bool), q.msixMask.getLsbD v.val = true →
      let sent := ((List.range 64).filter (fun u => q.msixPending.getLsbD u && (u == v.val || !q.msixMask.getLsbD u))).map q.message
      ∃ t, exec (.configurationWrite p (.msixMask v false)) s = .next t
        ∧ (t.port p.val).interrupts = (if q.sendsMsix then q.interrupts ++ sent else q.interrupts)
        ∧ (t.port p.val).msixPending.getLsbD v.val = (q.msixPending.getLsbD v.val && !q.sendsMsix)
        ∧ (t.port p.val).msixMask.getLsbD v.val = false ∧ t.mem = s.mem
        ∧ exec (.configurationWrite p (.msixControl on mask)) s = .next (s.withPort p.val { q with
          msixEnable := on
          msixMaskAll := mask }.sendPending))

/-! ### Intake -/

/-- With one chute enabled, no twin and no waiter that could be served: its head packet starts when it passes its checks, waits for no hook,
no reset and no reply space, and the head passes its entries; a packet that fails its checks completes, and the head passes it too. Whatever
the chutes, at most one packet starts, and it is the head of one. Twin B of a pair forwards a packet that both twins run. A failed fetch
resets the chute, with one record; a failed read of host data, a control block or a queued bitstream among them, completes its command with
the address. -/
def Obligations.PacketIntake : Prop :=
  (∀ (i n : Nat) (b : List Byte) (s : State), s.Inv → s.power.rails = true → s.status.ready = true → s.twin = Twin.reset →
      (∀ j, ∀ w ∈ (s.hook j).waiters.head?, (s.hook j).count < w.amount) → openChutes s = [i] → headPacket s i = some (n, b) →
      (s.chute i).hasRoom = true →
    (∀ c, packetRefused s b = none → packetWait b = none → orderHolds (s.chute i) b = false → ownPacket s i b = .command c →
        waitsReset s (.command c) = false →
      ∃ t, exec .packetStart s = .next t ∧ t.started = s.started ++ [c] ∧ (t.chute i).head = (s.chute i).head + BitVec.ofNat 32 n
        ∧ (t.chute i).owed = (s.chute i).owed + 1 ∧ t.mem = s.mem ∧ t.host = s.host ∧ t.slots = s.slots)
    ∧ (∀ c, packetRefused s b = none → packetWait b = none → ownPacket s i b = .command c →
        (orderHolds (s.chute i) b = true ∨ waitsReset s (.command c) = true) →
      ∃ t, exec .packetStart s = .next t ∧ t.started = s.started ∧ (t.chute i).head = (s.chute i).head ∧ t.mem = s.mem ∧ t.host = s.host)
    ∧ (∀ r, packetRefused s b = some r → ∃ t, exec .packetStart s = .next t
        ∧ (t.chute i).head = (s.chute i).head + BitVec.ofNat 32 n ∧ t.mem = s.mem))
  ∧ (∀ s : State, s.Inv → s.power.rails = true → s.status.ready = true → s.twin = Twin.reset →
    ∃ t, exec .packetStart s = .next t ∧ t.mem = s.mem
      ∧ (t.started = s.started ∨ ∃ i n b c, i ∈ openChutes s ∧ headPacket s i = some (n, b) ∧ ownPacket s i b = .command c
        ∧ t.started = s.started ++ [c] ∧ (t.chute i).head = (s.chute i).head + BitVec.ofNat 32 n))
  ∧ (∀ (i n : Nat) (b : List Byte) (c : Instr) (s : State), s.Inv → s.power.rails = true → s.status.ready = true →
      s.twin = { Twin.reset with
        bound := true
        mode := true } → (∀ j, ∀ w ∈ (s.hook j).waiters.head?, (s.hook j).count < w.amount) → openChutes s = [i] →
      headPacket s i = some (n, b) → (s.chute i).hasRoom = true → packetRefused s b = none → orderHolds (s.chute i) b = false →
      ownPacket s i b = .command c → sharedInstr c = true → waitsReset s (.command c) = false →
    ∃ t, exec .packetStart s = .next t ∧ t.twin.asked = [⟨askId i (s.chute i), ownHdr s i b, b⟩] ∧ t.started = s.started
      ∧ (t.chute i).head = (s.chute i).head ∧ t.mem = s.mem ∧ t.host = s.host)
  ∧ (∀ s : State, s.status.ready = false → exec .packetStart s = .next s)
  ∧ (∀ s : State, s.power.rails = true → s.status.ready = true → s.twin = Twin.reset → openChutes s = [] →
    exec .packetStart s = .next { s with intake := [] })
  ∧ (∀ (p : PortId) (k : Fin 64) (a j : Nat) (host : Dword) (s : State), s.Inv →
    let i := chuteIx p k
    let c := s.chute i
    c.enable = true → canFetch s p.val = true → inReset s (srcChute i) = false → c.fetched = [] → j < c.available →
      a = 64 * c.ringBase.toNat + 64 * ((c.head.toNat + j) % 2 ^ c.log2N.toNat) → a ≤ host.toNat → host.toNat < a + 64 →
      s.hooks = [] → c.granted = none →
    ∃ t, exec (.fetchFailed p k host) s = .next t ∧ (t.chute i).enable = false ∧ (t.chute i).ringBase = c.ringBase
      ∧ t.ledger = (s.log 0x0305 (srcChute i) (toLE 8 host.toNat)).ledger
      ∧ t.resets = s.resets ++ [⟨BitVec.ofNat 16 (srcChute i), [], []⟩] ∧ t.mem = s.mem ∧ t.host = s.host)
  ∧ (∀ (h : Hdr) (host : Dword) (s : State),
    (startedOf s h = none → exec (.hostDataReadFailed h host) s = .next s)
    ∧ (∀ (d b len : Dword) (k : Nat), startedOf s h = some (.writeMem h d b len) → target s 32 d len.toNat = .here k → s.ecc = [] → Awake s →
        b.toNat ≤ host.toNat → host.toNat < b.toNat + len.toNat → dataMoved s h = false →
      ∃ m, m ≤ host.toNat - b.toNat ∧ exec (.hostDataReadFailed h host) s = .next (afterReply h
        ⟨stBadAddress, 0, host.toNat % 2 ^ 32, host.toNat / 2 ^ 32, 0, false, 0⟩
        ({ s with
          free := s.free + 1
          xfers := s.xfers.filter (fun x => decide (x.owner ≠ XferOwner.command (.writeMem h d b len))) }.withMem k (hostData s h b.toNat m))))
    ∧ (∀ c a n, startedOf s h = some c → hostReads c = some (a, n) → (∀ g d b l, c ≠ .writeMem g d b l) → a ≤ host.toNat →
        host.toNat < a + n → dataMoved s h = false →
      exec (.hostDataReadFailed h host) s = .next (afterReply h ⟨stBadAddress, 0, host.toNat % 2 ^ 32, host.toNat / 2 ^ 32, 0, false, 0⟩
        { s with xfers := s.xfers.filter (fun x => decide (x.owner ≠ XferOwner.command c)) }))
    ∧ (∀ c, startedOf s h = some c → readsBlock c = true → queuedRead s h = none →
      exec (.hostDataReadFailed h host) s = .next (afterReply h ⟨stBadAddress, 0, host.toNat % 2 ^ 32, host.toNat / 2 ^ 32, 0, false, 0⟩ s))
    ∧ (∀ c i a n, startedOf s h = some c → queuedRead s h = some (i, a, n) → a ≤ host.toNat → host.toNat < a + n →
      exec (.hostDataReadFailed h host) s = .next (afterReply h ⟨stBadAddress, 0, host.toNat % 2 ^ 32, host.toNat / 2 ^ 32, 0, false, 0⟩
        (s.withStream i { s.stream i with queue := (s.stream i).queue.filter (fun q => decide (q.hdr ≠ h)) }))))

/-! ### Rails, rotation, probes -/

/-- Rails rise at most 32 at a time, further requests waiting in order; they are lowered without LIVE work, gated without work, and woken;
rotation exchanges the roles of two cores with the shelf's contents; a probe marks an idle core, and a core that fails it is sheeted. -/
def Obligations.RailsRotationProbes : Prop :=
  (∀ (d : RailId) (s : State), s.Inv → s.power.rails = true →
    let r := s.rail (railIx d)
    let due := backlogged s d = true ∨ domainLive s d = true
    (r.rail = .vlo → r.ramping = false → due → ramping s < 32 → s.ramps = [] →
      exec (.railRaise d) s = .next (s.withRail d { r with ramping := true }))
    ∧ (r.rail = .vlo → r.ramping = false → due → railIx d ∉ s.ramps → 32 ≤ ramping s ∨ s.ramps ≠ [] →
      exec (.railRaise d) s = .next { s with ramps := s.ramps ++ [railIx d] })
    ∧ (¬ due → exec (.railRaise d) s = .next s)
    ∧ (r.ramping = true → (∀ y ∈ s.rails, y.1 ≠ railIx d → y.2.ramping = false) → ∃ t, exec (.railRaiseComplete d) s = .next t
      ∧ t.ramps = s.ramps.drop 32 ∧ (∀ x ∈ s.ramps.take 32, (t.rail x).ramping = true) ∧ t.mem = s.mem)
    ∧ (r.ramping = true → s.ramps = [] → exec (.railRaiseComplete d) s = .next (match d with
        | .core c => (s.withRail d ⟨.vhi, false⟩).bump (counterId (srcCore (coreIx c)) 0x0D) 1
        | _ => s.withRail d ⟨.vhi, false⟩))
    ∧ (r.rail = .vhi → domainLive s d = false → (backlogged s d = false ∨ ∃ t, d = .tile t) →
      exec (.railLower d) s = .next (s.withRail d ⟨.vlo, false⟩))
    ∧ (backlogged s d = true → (∀ t, d ≠ .tile t) → exec (.railLower d) s = .next s)
    ∧ (domainLive s d = true → exec (.railLower d) s = .next s)
    ∧ (r.rail = .vlo → r.ramping = false → domainWork s d = false → exec (.gate d) s = .next { s.withRail d ⟨.gated, false⟩ with
        ramps := s.ramps.filter (· != railIx d) })
    ∧ (domainWork s d = true → exec (.gate d) s = .next s)
    ∧ (r.rail = .gated → exec (.wake d) s = .next (s.withRail d ⟨.vlo, false⟩)))
  ∧ (∀ (t : TileId) (s : State), s.Inv → s.power.rails = true →
    let v := s.tile t.val
    (v.rotationDue = false → ∃ u, exec (.rotationDue t) s = .next u ∧ (u.tile t.val).rotationDue = true
      ∧ (∀ c, (s.core c).wear ≤ (u.core c).wear) ∧ u = { s with
          tiles := u.tiles
          cores := u.cores
          free := s.free + 1 })
    ∧ (∀ a b : Fin 13, v.rotationDue = true → v.spare.isSome = true → v.exchange = none → mostWorn s t.val (activeIn s t.val) = [a.val] →
        leastWorn s t.val ((goodIn s t.val).filter (· != a.val)) = [b.val] → mayExchange s (16 * t.val + a.val) (16 * t.val + b.val) = true →
      exec (.rotation t) s = .next { s with
        tiles := Tab.put Tile.none s.tiles t.val { v with exchange := some (a, b) }
        free := s.free + 2 })
    ∧ (∀ o i : Fin 13, v.exchange = some (o, i) → v.spare = some i →
      let a := 16 * t.val + o.val
      let b := 16 * t.val + i.val
      ∃ u, exec (.rotationComplete t) s = .next u ∧ (u.tile t.val).spare = some o ∧ (u.tile t.val).exchange = none
        ∧ (u.tile t.val).rotationDue = false ∧ (u.tile t.val).positions = swapPositions a b v.positions
        ∧ (∀ x, x < shelfSlot → u.byte (shelfBase + b * shelfSlot + x) = s.byte (shelfBase + a * shelfSlot + x))
        ∧ (u.tainted b = s.tainted a)
        ∧ u.ledger = (s.log 0x0104 (srcTile t.val) [BitVec.ofNat 8 o.val, BitVec.ofNat 8 i.val]).ledger ∧ u.host = s.host))
  ∧ (∀ (c : CoreId) (s : State), s.Inv →
    let k := coreIx c
    (s.power.rails = true → goodCore s k = true → coreWork s k = false → inReset s (srcCore k) = false →
        (∀ x ∈ waitingRecords s, k ∉ x.2.2.2) → Awake s →
      exec (.marginProbe c) s = .next (s.withCore k { s.core k with probe := true }))
    ∧ (coreWork s k = true ∨ (∃ x ∈ waitingRecords s, k ∈ x.2.2.2) → exec (.marginProbe c) s = .next s)
    ∧ ((s.core k).probe = true → exec (.marginProbeComplete c true) s = .next (s.withCore k { s.core k with probe := false }))
    ∧ ((s.core k).probe = true → goodCore s k = true → CoresSound s → ∃ t, exec (.marginProbeComplete c false) s = .next t ∧ goodCore t k = false
      ∧ (t.core k).probe = false ∧ t.flash.sheetedInService = s.flash.sheetedInService + 1)
    ∧ ((s.core k).probe = false → exec (.marginProbeComplete c false) s = .next s))

/-! ### Power and pins -/

/-- POWER_UP brings the rails up and the device to READY, or asserts FAULT_N where a hub fails; removal of power keeps the flash and the
pins only; sensors sample, report crossings and trip; PERST, D3hot and the reference clocks act on their port. -/
def Obligations.PowerAndPins : Prop :=
  (∀ (failed : List CoreId) (s : State), s.Inv → s.power.rails = false → s.power.needLow = false → s.power.tripped = false →
      s.power.afterTrip = false →
    (∃ t, exec (.powerUp false failed) s = .next t ∧ t.status.ready = true ∧ t.status.resetting = false ∧ t.power.rails = true
      ∧ t.power.pwrEn = true ∧ t.flash.startCount = s.flash.startCount + 1 ∧ t.ledger.head?.map (·.event) = some 0x0003
      ∧ (∀ p : Fin 2, if (s.port p.val).perst then (t.port p.val).evtCause = (s.port p.val).evtCause
        else (t.port p.val).evtCause.getLsbD 0 = true))
    ∧ (∃ t, exec (.powerUp true failed) s = .next t ∧ t.power.fault = true ∧ t.power.bootFailed = true ∧ t.status.ready = s.status.ready
      ∧ t.power.rails = true))
  ∧ (∀ (failed : List CoreId) (x : Bool) (s : State),
    (s.power.rails = true → s.status.ready = true → exec (.powerUp x failed) s = .next s)
    ∧ (s.power.rails = false → (s.power.needLow = true ∨ s.power.tripped = true) → exec (.powerUp x failed) s = .next s)
    ∧ (s.power.rails = true → s.status.ready = false → s.power.bootFailed = false → ∃ t, exec (.powerUp false failed) s = .next t
      ∧ t.status.ready = true ∧ t.status.resetting = false ∧ t.flash.startCount = s.flash.startCount + b2n (!s.status.resetting)))
  ∧ (∀ s : State,
    let off := { s.power with
      rails := false
      bootFailed := false
      alert := false }
    let down : Power := { off with
      fault := true
      needLow := true }
    s.powerLost.mem = [] ∧ s.powerLost.keys = [] ∧ s.powerLost.slots = [] ∧ s.powerLost.ledger = [] ∧ s.powerLost.flash = s.flash
    ∧ (s.power.rails = true →
      exec .pwrEnFall s = .next { s.powerLost with power := { off with pwrEn := false } }
      ∧ exec .inputUndervoltage s = .next { s.powerLost with power := { down with inputOk := false } }
      ∧ exec .inputOvervoltage s = .next { s.powerLost with power := { down with inputOk := false } }
      ∧ exec .railFault s = .next { s.powerLost with power := down })
    ∧ (s.power.rails = false → exec .pwrEnFall s = .next { s with power := { s.power with
        pwrEn := false
        needLow := false } })
    ∧ (s.power.tripped = true → s.power.pwrEn = false → exec .thermTripRelease s = .next { s with power := { s.power with
        tripped := false
        needLow := false } })
    ∧ (s.power.tripped = false → exec .thermTripRelease s = .next s))
  ∧ (∀ (i : Byte) (v : Word) (s : State), s.Inv →
    let sampled := Tab.put Sensor.reset s.sensors i.toNat ⟨v, (s.sensor i.toNat).sample + 1⟩
    (84 ≤ i.toNat → exec (.sensorSample ⟨[(i, v)], []⟩) s = .next { s with
      sensors := sampled
      power := { s.power with hot := s.power.hot.filter (· != i.toNat) } })
    ∧ (i.toNat < 84 → s.power.rails = true → v.toInt < 110000 → exec (.sensorSample ⟨[(i, v)], []⟩) s = .next { s with
      sensors := sampled
      mgmt := { s.mgmt with pldmEvents := s.mgmt.pldmEvents ++ (crossed (s.sensor i.toNat).reading v).map (fun t => (i.toNat, t)) }
      power := { s.power with
        alert := s.power.alert || !(crossed (s.sensor i.toNat).reading v).isEmpty
        hot := s.power.hot.filter (· != i.toNat) } })
    ∧ (i.toNat < 84 → s.power.rails = true → 110000 ≤ v.toInt → i.toNat ∈ s.power.hot → ∃ t, exec (.sensorSample ⟨[(i, v)], []⟩) s = .next t
      ∧ t.power.rails = false ∧ t.power.fault = true ∧ t.power.tripped = true ∧ t.power.needLow = true ∧ t.mem = [] ∧ t.flash = s.flash))
  ∧ (∀ (p : PortId) (s : State), s.Inv →
    let q := s.port p.val
    let clock (t : State) : Bool := (t.port 0).refclk || (t.port 1).refclk
    let trained (v : Port) (t : State) : Prop := ∃ n, let x := Config.hostLink p.val n; t.port p.val = v.train x.1 x.2.1 x.2.2
    (barOpen s p.val = true → exec (.d3hotEntry p) s = .next (s.withPort p.val { q with d3hot := true }))
    ∧ (barOpen s p.val = true → q.d3hot = true → ∃ t, exec (.d0Return p) s = .next t ∧ (t.port p.val).d3hot = false
      ∧ (t.port p.val).flrActive = true ∧ t.mem = s.mem)
    ∧ (q.perst = true → exec (.perstAssert p) s = .next s)
    ∧ (q.perst = false → s.power.rails = true → ∃ t, exec (.perstAssert p) s = .next t ∧ (t.port p.val).perst = true
      ∧ (t.port p.val).dlUp = false ∧ (t.port p.val).bar2Log2 = 4 ∧ (t.port p.val).flrActive = true ∧ t.mem = s.mem)
    ∧ (q.perst = true → s.power.rails = true → ∃ t, exec (.perstDeassert p) s = .next t ∧ (t.port p.val).perst = false
      ∧ (clock s = false → (t.port p.val).dlUp = false) ∧ (clock s = true → q.dlUp = false → trained { q with perst := false } t)
      ∧ t.mem = s.mem ∧ t.chutes = s.chutes)
    ∧ (s.power.rails = true → ∃ t, exec (.refclkLoss p) s = .next t ∧ (t.port p.val).refclk = false
      ∧ ((s.port (1 - p.val)).refclk = false → (t.port 0).dlUp = false ∧ (t.port 1).dlUp = false) ∧ t.mem = s.mem ∧ t.chutes = s.chutes)
    ∧ (s.power.rails = true → ∃ t, exec (.refclkArrival p) s = .next t ∧ (t.port p.val).refclk = true
      ∧ (q.perst = true → (t.port p.val).dlUp = false)
      ∧ (q.perst = false → if q.dlUp then (t.port p.val).dlUp = true else trained { q with refclk := true } t) ∧ t.mem = s.mem ∧ t.chutes = s.chutes))
end

