-- ==== Sys2Proof/Laws/Tab.lean ====
section
/-! SUPPORT. Sys2Proof/Laws/Tab.lean: sparse tables: what a write reads back as, and that every operation keeps the canonical
form. -/
namespace Sys2Proof.Machine

variable {α : Type}

theorem Tab.look_below (d : α) (t : Tab α) (k : Nat) (h : Tab.above k t = true) : Tab.look d t k = d := by
  cases t with
  | nil => rfl
  | cons x t =>
    have hk : k < x.1 := by simpa [Tab.above] using h
    simp [Tab.look, hk, Nat.ne_of_lt hk]

theorem Tab.above_trans {a b : Nat} (t : Tab α) (hab : a < b) (h : Tab.above b t = true) : Tab.above a t = true := by
  cases t with
  | nil => rfl
  | cons x t =>
    have : b < x.1 := by simpa [Tab.above] using h
    simp [Tab.above, Nat.lt_trans hab this]

section Put
variable [DecidableEq α]

theorem Tab.wf_cons (d : α) (i : Nat) (v : α) (t : Tab α) :
    Tab.wf d ((i, v) :: t) = true ↔ v ≠ d ∧ Tab.above i t = true ∧ Tab.wf d t = true := by
  simp [Tab.wf, and_assoc]

theorem Tab.above_drop (i k : Nat) (d : α) (t : Tab α) (h : Tab.above i t = true) (hw : Tab.wf d t = true) :
    Tab.above i (Tab.drop t k) = true := by
  cases t with
  | nil => rfl
  | cons x t =>
    obtain ⟨j, v⟩ := x
    rw [Tab.wf_cons] at hw
    have hj : i < j := by simpa [Tab.above] using h
    unfold Tab.drop
    split
    · exact Tab.above_trans t hj hw.2.1
    · split <;> simpa [Tab.above] using hj

omit [DecidableEq α] in
theorem Tab.above_ins (i k : Nat) (v : α) (t : Tab α) (h : Tab.above i t = true) (hk : i < k) :
    Tab.above i (Tab.ins t k v) = true := by
  cases t with
  | nil => simpa [Tab.ins, Tab.above] using hk
  | cons x t =>
    have hj : i < x.1 := by simpa [Tab.above] using h
    unfold Tab.ins
    split
    · simpa [Tab.above] using hk
    · split
      · simpa [Tab.above] using hk
      · simpa [Tab.above] using hj

theorem Tab.wf_drop (d : α) (k : Nat) (t : Tab α) (h : Tab.wf d t = true) : Tab.wf d (Tab.drop t k) = true := by
  induction t with
  | nil => rfl
  | cons x t ih =>
    obtain ⟨j, v⟩ := x
    have h' := (Tab.wf_cons d j v t).1 h
    unfold Tab.drop
    split
    · exact h'.2.2
    · split
      · exact h
      · exact (Tab.wf_cons d j v _).2 ⟨h'.1, Tab.above_drop j k d t h'.2.1 h'.2.2, ih h'.2.2⟩

theorem Tab.wf_ins (d : α) (k : Nat) (v : α) (t : Tab α) (hv : v ≠ d) (h : Tab.wf d t = true) :
    Tab.wf d (Tab.ins t k v) = true := by
  induction t with
  | nil => simp [Tab.ins, Tab.wf, Tab.above, hv]
  | cons x t ih =>
    obtain ⟨j, w⟩ := x
    have h' := (Tab.wf_cons d j w t).1 h
    unfold Tab.ins
    split
    · next e => subst e; exact (Tab.wf_cons d _ v t).2 ⟨hv, h'.2.1, h'.2.2⟩
    · split
      · next lt => exact (Tab.wf_cons d k v _).2 ⟨hv, by simpa [Tab.above] using lt, h⟩
      · next ne nlt =>
        exact (Tab.wf_cons d j w _).2 ⟨h'.1, Tab.above_ins j k v t h'.2.1 (by omega), ih h'.2.2⟩

/-- A write keeps the canonical form. -/
theorem Tab.wf_put (d : α) (t : Tab α) (k : Nat) (v : α) (h : Tab.wf d t = true) : Tab.wf d (Tab.put d t k v) = true := by
  unfold Tab.put
  split
  · exact Tab.wf_drop d k t h
  · next hv => exact Tab.wf_ins d k v t hv h

theorem Tab.look_drop (d : α) (t : Tab α) (k j : Nat) (h : Tab.wf d t = true) :
    Tab.look d (Tab.drop t k) j = if j = k then d else Tab.look d t j := by
  induction t with
  | nil => simp [Tab.drop, Tab.look]
  | cons x t ih =>
    obtain ⟨i, v⟩ := x
    have h' := (Tab.wf_cons d i v t).1 h
    by_cases hki : k = i
    · subst hki
      by_cases hjk : j = k
      · subst hjk; simp [Tab.drop, Tab.look_below d t j h'.2.1]
      · by_cases hlt : j < k
        · simp [Tab.drop, hjk, Tab.look, hlt, Tab.look_below d t j (Tab.above_trans t hlt h'.2.1)]
        · simp [Tab.drop, hjk, Tab.look, hlt]
    · by_cases hkl : k < i
      · by_cases hjk : j = k
        · subst hjk; simp [Tab.drop, hki, hkl, Tab.look]
        · simp [Tab.drop, hki, hkl, hjk]
      · simp only [Tab.drop, hki, hkl, if_false, Tab.look]
        rw [ih h'.2.2]
        by_cases hjk : j = k
        · subst hjk; simp [hki, hkl]
        · simp [hjk]

omit [DecidableEq α] in
theorem Tab.look_ins (d : α) (t : Tab α) (k j : Nat) (v : α) :
    Tab.look d (Tab.ins t k v) j = if j = k then v else Tab.look d t j := by
  induction t with
  | nil =>
    by_cases h : j = k
    · simp [Tab.ins, Tab.look, h]
    · simp [Tab.ins, Tab.look, h]
  | cons x t ih =>
    obtain ⟨i, w⟩ := x
    by_cases hki : k = i
    · subst hki
      by_cases hjk : j = k
      · simp [Tab.ins, Tab.look, hjk]
      · simp [Tab.ins, Tab.look, hjk]
    · by_cases hkl : k < i
      · by_cases hjk : j = k
        · simp [Tab.ins, hki, hkl, Tab.look, hjk]
        · by_cases hjl : j < k
          · have hji : j ≠ i := by omega
            simp [Tab.ins, hki, hkl, Tab.look, hjk, hjl, hji, Nat.lt_trans hjl hkl]
          · simp [Tab.ins, hki, hkl, Tab.look, hjk, hjl]
      · simp only [Tab.ins, hki, hkl, if_false, Tab.look]
        rw [ih]
        by_cases hjk : j = k
        · subst hjk; simp [hki, hkl]
        · simp [hjk]

/-- What an index reads as after a write. -/
theorem Tab.look_put (d : α) (t : Tab α) (k j : Nat) (v : α) (h : Tab.wf d t = true) :
    Tab.look d (Tab.put d t k v) j = if j = k then v else Tab.look d t j := by
  unfold Tab.put
  split
  · next e => subst e; exact Tab.look_drop v t k j h
  · exact Tab.look_ins d t k j v

/-- A write reads back. -/
theorem Tab.look_put_self (d : α) (t : Tab α) (k : Nat) (v : α) (h : Tab.wf d t = true) :
    Tab.look d (Tab.put d t k v) k = v := by rw [Tab.look_put d t k k v h]; simp

/-- A write leaves every other index alone. -/
theorem Tab.look_put_other (d : α) (t : Tab α) {k j : Nat} (v : α) (h : Tab.wf d t = true) (hjk : j ≠ k) :
    Tab.look d (Tab.put d t k v) j = Tab.look d t j := by rw [Tab.look_put d t k j v h]; simp [hjk]

/-- A run of writes keeps the canonical form. -/
theorem Tab.wf_putAll (d : α) (vs : List α) (t : Tab α) (k : Nat) (h : Tab.wf d t = true) :
    Tab.wf d (Tab.putAll d t k vs) = true := by
  induction vs generalizing t k with
  | nil => exact h
  | cons v vs ih => exact ih _ _ (Tab.wf_put d t k v h)

/-- Values changed one by one keep the canonical form, whatever default they had. -/
theorem Tab.wf_remap {d e : α} (f : α → α) (t : Tab α) (h : Tab.wf e t = true) : Tab.wf d (Tab.remap d f t) = true := by
  have key : ∀ (t : Tab α) (i : Nat), Tab.wf e t = true → Tab.above i t = true →
      Tab.wf d (Tab.remap d f t) = true ∧ Tab.above i (Tab.remap d f t) = true := by
    intro t
    induction t with
    | nil => intro i _ _; exact ⟨rfl, rfl⟩
    | cons x t ih =>
      obtain ⟨j, v⟩ := x
      intro i hw ha
      have h' := (Tab.wf_cons e j v t).1 hw
      have hij : i < j := by simpa [Tab.above] using ha
      obtain ⟨hr, hab⟩ := ih j h'.2.2 h'.2.1
      unfold Tab.remap
      split
      · exact ⟨hr, Tab.above_trans _ hij hab⟩
      · next hv => exact ⟨(Tab.wf_cons d j (f v) _).2 ⟨hv, hab, hr⟩, by simpa [Tab.above] using hij⟩
  cases t with
  | nil => rfl
  | cons x t =>
    obtain ⟨j, v⟩ := x
    have h' := (Tab.wf_cons e j v t).1 h
    obtain ⟨hr, hab⟩ := key t j h'.2.2 h'.2.1
    unfold Tab.remap
    split
    · exact hr
    · next hv => exact (Tab.wf_cons d j (f v) _).2 ⟨hv, hab, hr⟩

end Put

/-- Every entry of a table after a write is the written one or was there. -/
theorem Tab.mem_ins {k : Nat} {v : α} {t : Tab α} {x : Nat × α} (h : x ∈ Tab.ins t k v) : x = (k, v) ∨ x ∈ t := by
  induction t with
  | nil => left; simpa [Tab.ins] using h
  | cons y t ih =>
    unfold Tab.ins at h
    split at h
    · rcases List.mem_cons.1 h with e | e
      · exact .inl e
      · exact .inr (List.mem_cons_of_mem _ e)
    · split at h
      · rcases List.mem_cons.1 h with e | e
        · exact .inl e
        · exact .inr e
      · rcases List.mem_cons.1 h with e | e
        · exact .inr (e ▸ List.mem_cons_self)
        · exact (ih e).imp_right (List.mem_cons_of_mem _)

theorem Tab.mem_drop {k : Nat} {t : Tab α} {x : Nat × α} (h : x ∈ Tab.drop t k) : x ∈ t := by
  induction t with
  | nil => exact h
  | cons y t ih =>
    unfold Tab.drop at h
    split at h
    · exact List.mem_cons_of_mem _ h
    · split at h
      · exact h
      · rcases List.mem_cons.1 h with e | e
        · exact e ▸ List.mem_cons_self
        · exact List.mem_cons_of_mem _ (ih e)

theorem Tab.mem_put [DecidableEq α] {d : α} {k : Nat} {v : α} {t : Tab α} {x : Nat × α} (h : x ∈ Tab.put d t k v) :
    x = (k, v) ∨ x ∈ t := by
  unfold Tab.put at h
  split at h
  · exact .inr (Tab.mem_drop h)
  · exact Tab.mem_ins h

end Sys2Proof.Machine
end

