-- ==== Sys2Proof/Laws/State.lean ====
section
/-! SUPPORT. Sys2Proof/Laws/State.lean: each effect as the record update that it is, lists of effects, reads of indexed parts after a
write, and that no write of memory leaves the canonical form. -/
namespace Sys2Proof.Machine

/-! ### One effect -/

section
variable (s : State)
@[simp] theorem applyEff_started (l : List Instr) : applyEff s (.started l) = { s with started := l } := rfl
@[simp] theorem applyEff_port (p : Nat) (v : Port) : applyEff s (.port p v) = { s with ports := Tab.put Port.reset s.ports p v } := rfl
@[simp] theorem applyEff_chute (i : Nat) (v : Chute) : applyEff s (.chute i v) = { s with chutes := Tab.put Chute.reset s.chutes i v } := rfl
@[simp] theorem applyEff_host (p : Nat) (a : Nat) (bs : List Byte) : applyEff s (.host p a bs) = { s with host := putHost s.host p a bs } := rfl
@[simp] theorem applyEff_round (c : Nat) (i : Nat) : applyEff s (.round c i) = { s with rounds := Tab.put 0 s.rounds c i } := rfl
@[simp] theorem applyEff_intake (l : List Nat) : applyEff s (.intake l) = { s with intake := l } := rfl
@[simp] theorem applyEff_hook (h : Nat) (v : Hook) : applyEff s (.hook h v) = if 64 ≤ h ∧ h < 4096 then { s with hooks := Tab.put Hook.reset s.hooks h v } else s := rfl
@[simp] theorem applyEff_ready (l : List (Nat × Nat)) : applyEff s (.ready l) = { s with ready := l } := rfl
@[simp] theorem applyEff_races (l : List (Hdr × Nat × Nat)) : applyEff s (.races l) = { s with races := l } := rfl
@[simp] theorem applyEff_saves (v : List (Hdr × Nat)) : applyEff s (.saves v) = { s with saves := v } := rfl
@[simp] theorem applyEff_kept (v : List (List Byte × List CratePart)) : applyEff s (.kept v) = { s with kept := v } := rfl
@[simp] theorem applyEff_testedBanks (i v : Nat) :
    applyEff s (.testedBanks i v) = { s with testedBanks := Tab.put 0 s.testedBanks i v } := rfl
@[simp] theorem applyEff_edge (k : Nat) (v : Edge) : applyEff s (.edge k v) = { s with edges := Tab.put Edge.reset s.edges k v } := rfl
@[simp] theorem applyEff_held (v : List Routed) : applyEff s (.held v) = { s with held := v } := rfl
@[simp] theorem applyEff_glitches (l : List Nat) : applyEff s (.glitches l) = { s with glitches := l } := rfl
@[simp] theorem applyEff_ramps (l : List Nat) : applyEff s (.ramps l) = { s with ramps := l } := rfl
@[simp] theorem applyEff_mark (i : Nat) (v : Word) : applyEff s (.mark i v) = { s with marks := Tab.put 0 s.marks i v } := rfl
@[simp] theorem applyEff_resets (l : List Reset) : applyEff s (.resets l) = { s with resets := l } := rfl
@[simp] theorem applyEff_status (v : Status) : applyEff s (.status v) = { s with status := keepPatience s.status v } := rfl
@[simp] theorem applyEff_mem (a : Nat) (bs : List Byte) : applyEff s (.mem a bs) = { s with mem := putMem s.mem a bs } := rfl
@[simp] theorem applyEff_ecc (w : Nat) (v : Option Ecc) : applyEff s (.ecc w v) = { s with ecc := Tab.put none s.ecc w v } := rfl
@[simp] theorem applyEff_region (i : Nat) (v : Option Region) : applyEff s (.region i v) = { s with regions := Tab.put none s.regions i v } := rfl
@[simp] theorem applyEff_key (i : Nat) (v : Option KeySlot) : applyEff s (.key i v) = { s with keys := Tab.put none s.keys i v } := rfl
@[simp] theorem applyEff_taint (c : Nat) (v : List Dword) : applyEff s (.taint c v) = { s with taint := Tab.put [] s.taint c v } := rfl
@[simp] theorem applyEff_fills (l : List SlotFill) : applyEff s (.fills l) = { s with fills := l } := rfl
@[simp] theorem applyEff_bank (i : Nat) (v : Bank) : applyEff s (.bank i v) = { s with banks := Tab.put Bank.reset s.banks i v } := rfl
@[simp] theorem applyEff_tile (t : Nat) (v : Tile) : applyEff s (.tile t v) = { s with tiles := Tab.put Tile.none s.tiles t v } := rfl
@[simp] theorem applyEff_hub (h : Nat) (v : HubInv) : applyEff s (.hub h v) = { s with hubs := Tab.put HubInv.reset s.hubs h v } := rfl
@[simp] theorem applyEff_core (c : Nat) (v : Core) : applyEff s (.core c v) = { s with cores := Tab.put Core.reset s.cores c v } := rfl
@[simp] theorem applyEff_lane (l : Nat) (v : Lane) : applyEff s (.lane l v) = { s with lanes := Tab.put Lane.reset s.lanes l v } := rfl
@[simp] theorem applyEff_rail (i : Nat) (v : RailState) : applyEff s (.rail i v) = { s with rails := Tab.put RailState.reset s.rails i v } := rfl
@[simp] theorem applyEff_tables (v : Tables) : applyEff s (.tables v) = { s with tables := v } := rfl
@[simp] theorem applyEff_slot (i : Nat) (v : Slot) : applyEff s (.slot i v) = { s with slots := Tab.put Slot.reset s.slots i v } := rfl
@[simp] theorem applyEff_link (i : Nat) (v : Link) : applyEff s (.link i v) = { s with links := Tab.put Link.reset s.links i v } := rfl
@[simp] theorem applyEff_member (v : Option Domain) : applyEff s (.member v) = { s with member := v } := rfl
@[simp] theorem applyEff_joining (v : Option (Hdr × Domain)) : applyEff s (.joining v) = { s with joining := v } := rfl
@[simp] theorem applyEff_twin (v : Twin) : applyEff s (.twin v) = { s with twin := v } := rfl
@[simp] theorem applyEff_xfers (l : List Xfer) : applyEff s (.xfers l) = { s with xfers := l } := rfl
@[simp] theorem applyEff_nextXid (v : Dword) : applyEff s (.nextXid v) = { s with nextXid := v } := rfl
@[simp] theorem applyEff_outbox (l : List Sent) : applyEff s (.outbox l) = { s with outbox := l } := rfl
@[simp] theorem applyEff_coll (h : Nat) (v : Coll) : applyEff s (.coll h v) = { s with colls := Tab.put Coll.reset s.colls h v } := rfl
@[simp] theorem applyEff_engine (e : Nat) (v : Engine) : applyEff s (.engine e v) = { s with engines := Tab.put Engine.reset s.engines e v } := rfl
@[simp] theorem applyEff_stream (i : Nat) (v : Stream) : applyEff s (.stream i v) = { s with streams := Tab.put Stream.reset s.streams i v } := rfl
@[simp] theorem applyEff_flash (v : Flash) : applyEff s (.flash v) = { s with flash := v } := rfl
@[simp] theorem applyEff_firmware (v : Firmware) : applyEff s (.firmware v) = { s with firmware := v } := rfl
@[simp] theorem applyEff_stage (v : Option Stage) : applyEff s (.stage v) = { s with stage := v } := rfl
@[simp] theorem applyEff_power (v : Power) : applyEff s (.power v) = { s with power := v } := rfl
@[simp] theorem applyEff_mgmt (v : Mgmt) : applyEff s (.mgmt v) = { s with mgmt := v } := rfl
@[simp] theorem applyEff_ledger (e : Nat) (src : Nat) (d : List Byte) : applyEff s (.ledger e src d) = s.log e src d := rfl
@[simp] theorem applyEff_count (id : Nat) (n : Nat) : applyEff s (.count id n) = s.bump id n := rfl
@[simp] theorem applyEff_countMax (id : Nat) (n : Nat) : applyEff s (.countMax id n) = s.raiseTo id n := rfl
@[simp] theorem applyEff_clearCounter (id : Nat) : applyEff s (.clearCounter id) = { s with counters := Tab.put Counter.reset s.counters id Counter.reset } := rfl
@[simp] theorem applyEff_sensor (i : Nat) (v : Sensor) : applyEff s (.sensor i v) = { s with sensors := Tab.put Sensor.reset s.sensors i v } := rfl
@[simp] theorem applyEff_fresh : applyEff s (.fresh) = { s with free := s.free + 1 } := rfl
@[simp] theorem applyEff_powerLost : applyEff s (.powerLost) = s.powerLost := rfl
@[simp] theorem applyEff_deviceReset : applyEff s (.deviceReset) = s.deviceReset := rfl
end

/-! ### Lists of effects -/

@[simp] theorem applyAll_nil (s : State) : applyAll [] s = s := rfl
@[simp] theorem applyAll_cons (e : Eff) (es : List Eff) (s : State) : applyAll (e :: es) s = applyAll es (applyEff s e) := rfl

theorem applyAll_append (a b : List Eff) (s : State) : applyAll (a ++ b) s = applyAll b (applyAll a s) := by
  induction a generalizing s with
  | nil => rfl
  | cons e es ih => exact ih (applyEff s e)

/-- One activity after another runs in the state that the first leaves. -/
@[simp] theorem applyAll_seq (a b : Act) (s : State) : applyAll (Act.seq a b s) s = applyAll (b (applyAll (a s) s)) (applyAll (a s) s) :=
  applyAll_append _ _ _

@[simp] theorem Act.none_apply (s : State) : Act.none s = [] := rfl
@[simp] theorem Act.of_apply (es : List Eff) (s : State) : Act.of es s = es := rfl
@[simp] theorem Act.all_nil : Act.all [] = Act.none := rfl
@[simp] theorem Act.all_cons (a : Act) (l : List Act) : Act.all (a :: l) = Act.seq a (Act.all l) := rfl
@[simp] theorem Act.each_nil {α : Type} (f : α → Act) : Act.each f [] = Act.none := rfl
@[simp] theorem Act.each_cons {α : Type} (f : α → Act) (x : α) (l : List α) : Act.each f (x :: l) = Act.seq (f x) (Act.each f l) := rfl
@[simp] theorem Act.when_true (a : Act) : Act.when true a = a := rfl
@[simp] theorem Act.when_false (a : Act) : Act.when false a = Act.none := rfl
@[simp] theorem Act.run_eq (a : Act) (s : State) : Act.run a s = .next (applyAll (a s) s) := rfl

/-- What an activity keeps, if each of its effects keeps it. -/
theorem applyAll_keeps {P : State → Prop} (h : ∀ s e, P s → P (applyEff s e)) (es : List Eff) (s : State) (hs : P s) :
    P (applyAll es s) := by
  induction es generalizing s with
  | nil => exact hs
  | cons e es ih => exact ih _ (h s e hs)

/-- What a list of effects keeps, if each of those in it keeps it. -/
theorem applyAll_keeps_of {P : State → Prop} (es : List Eff) (h : ∀ e ∈ es, ∀ s, P s → P (applyEff s e)) (s : State) (hs : P s) :
    P (applyAll es s) := by
  induction es generalizing s with
  | nil => exact hs
  | cons e es ih =>
    exact ih (fun e' he => h e' (List.mem_cons_of_mem _ he)) _ (h e (List.mem_cons_self ..) s hs)

/-! ### Reads after writes -/
theorem port_after_port (s : State) (k j : Nat) (v : Port) (h : Tab.wf Port.reset s.ports = true) :
    (applyEff s (.port k v)).port j = if j = k then v else s.port j := Tab.look_put Port.reset s.ports k j v h
theorem chute_after_chute (s : State) (k j : Nat) (v : Chute) (h : Tab.wf Chute.reset s.chutes = true) :
    (applyEff s (.chute k v)).chute j = if j = k then v else s.chute j := Tab.look_put Chute.reset s.chutes k j v h
theorem core_after_core (s : State) (k j : Nat) (v : Core) (h : Tab.wf Core.reset s.cores = true) :
    (applyEff s (.core k v)).core j = if j = k then v else s.core j := Tab.look_put Core.reset s.cores k j v h
theorem lane_after_lane (s : State) (k j : Nat) (v : Lane) (h : Tab.wf Lane.reset s.lanes = true) :
    (applyEff s (.lane k v)).lane j = if j = k then v else s.lane j := Tab.look_put Lane.reset s.lanes k j v h
theorem slot_after_slot (s : State) (k j : Nat) (v : Slot) (h : Tab.wf Slot.reset s.slots = true) :
    (applyEff s (.slot k v)).slot j = if j = k then v else s.slot j := Tab.look_put Slot.reset s.slots k j v h
theorem bank_after_bank (s : State) (k j : Nat) (v : Bank) (h : Tab.wf Bank.reset s.banks = true) :
    (applyEff s (.bank k v)).bank j = if j = k then v else s.bank j := Tab.look_put Bank.reset s.banks k j v h
theorem tile_after_tile (s : State) (k j : Nat) (v : Tile) (h : Tab.wf Tile.none s.tiles = true) :
    (applyEff s (.tile k v)).tile j = if j = k then v else s.tile j := Tab.look_put Tile.none s.tiles k j v h
theorem hub_after_hub (s : State) (k j : Nat) (v : HubInv) (h : Tab.wf HubInv.reset s.hubs = true) :
    (applyEff s (.hub k v)).hub j = if j = k then v else s.hub j := Tab.look_put HubInv.reset s.hubs k j v h
theorem edge_after_edge (s : State) (k j : Nat) (v : Edge) (h : Tab.wf Edge.reset s.edges = true) :
    (applyEff s (.edge k v)).edge j = if j = k then v else s.edge j := Tab.look_put Edge.reset s.edges k j v h
theorem link_after_link (s : State) (k j : Nat) (v : Link) (h : Tab.wf Link.reset s.links = true) :
    (applyEff s (.link k v)).link j = if j = k then v else s.link j := Tab.look_put Link.reset s.links k j v h
theorem coll_after_coll (s : State) (k j : Nat) (v : Coll) (h : Tab.wf Coll.reset s.colls = true) :
    (applyEff s (.coll k v)).coll j = if j = k then v else s.coll j := Tab.look_put Coll.reset s.colls k j v h
theorem engine_after_engine (s : State) (k j : Nat) (v : Engine) (h : Tab.wf Engine.reset s.engines = true) :
    (applyEff s (.engine k v)).engine j = if j = k then v else s.engine j := Tab.look_put Engine.reset s.engines k j v h
theorem stream_after_stream (s : State) (k j : Nat) (v : Stream) (h : Tab.wf Stream.reset s.streams = true) :
    (applyEff s (.stream k v)).stream j = if j = k then v else s.stream j := Tab.look_put Stream.reset s.streams k j v h
theorem rail_after_rail (s : State) (k j : Nat) (v : RailState) (h : Tab.wf RailState.reset s.rails = true) :
    (applyEff s (.rail k v)).rail j = if j = k then v else s.rail j := Tab.look_put RailState.reset s.rails k j v h
theorem region_after_region (s : State) (k j : Nat) (v : Option Region) (h : Tab.wf none s.regions = true) :
    (applyEff s (.region k v)).region j = if j = k then v else s.region j := Tab.look_put none s.regions k j v h
theorem key_after_key (s : State) (k j : Nat) (v : Option KeySlot) (h : Tab.wf none s.keys = true) :
    (applyEff s (.key k v)).key j = if j = k then v else s.key j := Tab.look_put none s.keys k j v h
theorem mark_after_mark (s : State) (k j : Nat) (v : Word) (h : Tab.wf 0 s.marks = true) :
    (applyEff s (.mark k v)).mark j = if j = k then v else s.mark j := Tab.look_put 0 s.marks k j v h
theorem sensor_after_sensor (s : State) (k j : Nat) (v : Sensor) (h : Tab.wf Sensor.reset s.sensors = true) :
    (applyEff s (.sensor k v)).sensor j = if j = k then v else s.sensor j := Tab.look_put Sensor.reset s.sensors k j v h
theorem hook_after_hook (s : State) (k j : Nat) (v : Hook) (h : Tab.wf Hook.reset s.hooks = true) (hk : 64 ≤ k ∧ k < 4096) :
    (applyEff s (.hook k v)).hook j = if j = k then v else s.hook j := by
  simp only [applyEff_hook, hk, and_self, if_true]
  exact Tab.look_put Hook.reset s.hooks k j v h

/-- Hooks of the steward firmware keep what they hold (R299). -/
theorem hook_steward (s : State) (k j : Nat) (v : Hook) (hk : ¬ (64 ≤ k ∧ k < 4096)) : (applyEff s (.hook k v)).hook j = s.hook j := by
  simp [hk]

/-! ### Memory keeps its form -/

theorem putMem_wf (bs : List Byte) (t : Tab Byte) (a : Nat) (h : Memory.wf t = true) : Memory.wf (putMem t a bs) = true := by
  induction bs generalizing t a with
  | nil => exact h
  | cons b bs ih => exact ih _ _ (Tab.wf_put 0 t (phys a) b h)

theorem putHost_wf (bs : List Byte) (t : Tab Byte) (p a : Nat) (h : Memory.wf t = true) : Memory.wf (putHost t p a bs) = true := by
  induction bs generalizing t a with
  | nil => exact h
  | cons b bs ih => exact ih _ _ (Tab.wf_put 0 t (2 * a + p % 2) b h)

/-- Device memory stays canonical under every effect. -/
theorem mem_wf_applyEff (s : State) (e : Eff) (h : Memory.wf s.mem = true) : Memory.wf (applyEff s e).mem = true := by
  cases e with
  | mem a bs => exact putMem_wf bs s.mem a h
  | hook k v => simp only [applyEff_hook]; split <;> exact h
  | count id n =>
    simp only [applyEff_count, State.bump]
    split
    · exact h
    · split <;> exact h
  | powerLost => rfl
  | _ => exact h

/-- Host memory stays canonical under every effect. -/
theorem host_wf_applyEff (s : State) (e : Eff) (h : Memory.wf s.host = true) : Memory.wf (applyEff s e).host = true := by
  cases e with
  | host p a bs => exact putHost_wf bs s.host p a h
  | hook k v => simp only [applyEff_hook]; split <;> exact h
  | count id n =>
    simp only [applyEff_count, State.bump]
    split
    · exact h
    · split <;> exact h
  | _ => exact h

/-- Whatever a command does, device memory stays canonical. -/
theorem mem_wf_run (a : Act) (s : State) (h : Memory.wf s.mem = true) : Memory.wf (applyAll (a s) s).mem = true :=
  applyAll_keeps (P := fun s => Memory.wf s.mem = true) mem_wf_applyEff (a s) s h

/-- Whatever a command does, host memory stays canonical. -/
theorem host_wf_run (a : Act) (s : State) (h : Memory.wf s.host = true) : Memory.wf (applyAll (a s) s).host = true :=
  applyAll_keeps (P := fun s => Memory.wf s.host = true) host_wf_applyEff (a s) s h

/-- Memory is canonical at reset. -/
theorem reset_mem_wf : Memory.wf State.reset.mem = true ∧ Memory.wf State.reset.host = true := ⟨rfl, rfl⟩

/-! ### Bytes of memory after a store -/

/-- Bytes read at one byte's place after a write of a run of bytes in one view. -/
theorem byte_putMem_other (bs : List Byte) (t : Tab Byte) (a k : Nat) (h : Memory.wf t = true)
    (hk : ∀ i < bs.length, phys (a + i) ≠ k) : Tab.look 0 (putMem t a bs) k = Tab.look 0 t k := by
  induction bs generalizing t a with
  | nil => rfl
  | cons b bs ih =>
    have h0 : phys a ≠ k := by simpa using hk 0 (by simp)
    have ht : ∀ i < bs.length, phys (a + 1 + i) ≠ k := fun i hi => by
      have := hk (i + 1) (by simpa using hi)
      rwa [show a + (i + 1) = a + 1 + i by omega] at this
    rw [show putMem t a (b :: bs) = putMem (Tab.put 0 t (phys a) b) (a + 1) bs from rfl,
      ih _ _ (Tab.wf_put 0 t (phys a) b h) ht]
    exact Tab.look_put_other 0 t b h (Ne.symm h0)

theorem byte_putHost_other (bs : List Byte) (t : Tab Byte) (p a k : Nat) (h : Memory.wf t = true)
    (hk : ∀ i < bs.length, 2 * (a + i) + p % 2 ≠ k) : Tab.look 0 (putHost t p a bs) k = Tab.look 0 t k := by
  induction bs generalizing t a with
  | nil => rfl
  | cons b bs ih =>
    have h0 : 2 * a + p % 2 ≠ k := by simpa using hk 0 (by simp)
    have ht : ∀ i < bs.length, 2 * (a + 1 + i) + p % 2 ≠ k := fun i hi => by
      have := hk (i + 1) (by simpa using hi)
      rwa [show a + (i + 1) = a + 1 + i by omega] at this
    rw [show putHost t p a (b :: bs) = putHost (Tab.put 0 t (2 * a + p % 2) b) p (a + 1) bs from rfl,
      ih _ _ (Tab.wf_put 0 t _ b h) ht]
    exact Tab.look_put_other 0 t b h (Ne.symm h0)

/-- Host bytes written are read back. -/
theorem byte_putHost (bs : List Byte) (t : Tab Byte) (p a i : Nat) (h : Memory.wf t = true) (hi : i < bs.length) :
    Tab.look 0 (putHost t p a bs) (2 * (a + i) + p % 2) = bs.getD i 0 := by
  induction bs generalizing t a i with
  | nil => simp at hi
  | cons b bs ih =>
    rw [show putHost t p a (b :: bs) = putHost (Tab.put 0 t (2 * a + p % 2) b) p (a + 1) bs from rfl]
    cases i with
    | zero =>
      rw [byte_putHost_other bs _ p (a + 1) _ (Tab.wf_put 0 t _ b h) (fun i _ => by omega)]
      exact Tab.look_put_self 0 t _ b h
    | succ i =>
      have := ih (Tab.put 0 t (2 * a + p % 2) b) (a + 1) i (Tab.wf_put 0 t _ b h) (by simpa using hi)
      rw [show a + (i + 1) = a + 1 + i by omega]
      simpa using this

end Sys2Proof.Machine
end

