-- ==== Sys2Proof/Tests/Slice0.lean ====
section
/-! SUPPORT. Sys2Proof/Tests/Slice0.lean: the model's own tests, a few small ones with expected values from the spec's words, and for each
statement with hypotheses states and operands that meet them. -/
namespace Sys2Proof.Tests
open Sys2Proof Sys2Proof.Machine

-- One proof at a time: side by side, the kernel evaluations below need more memory than the check gives.
set_option Elab.async false

/-! ### Ill-formed commands -/

/-- A header with the fields of port 0, chute 0. -/
def hdr : Hdr := ⟨0, 0, 7, 9, false, false, false, false, 0, 0, 0, none⟩

theorem test_wf_plain : (Instr.nop hdr).wf = true := by decide
theorem test_illformed_signal_hook_steward : (Instr.nop { hdr with signal := true, signalHook := 63, signalInc := 1 }).wf = false := by decide
theorem test_illformed_signal_increment_zero : (Instr.nop { hdr with signal := true, signalHook := 64, signalInc := 0 }).wf = false := by decide
theorem test_illformed_hook_without_flag : (Instr.nop { hdr with signalHook := 64 }).wf = false := by decide
theorem test_illformed_increment_without_flag : (Instr.nop { hdr with signalInc := 1 }).wf = false := by decide
theorem test_illformed_record_index : (Instr.product 0 32768).wf = false ∧ (Instr.product 0 32767).wf = true := by decide
theorem test_illformed_long_term_slot : (Instr.setLong hdr 0 0 8).wf = false ∧ (Instr.clearLong hdr 0 0 8).wf = false := by decide
theorem test_illformed_window_access : (Instr.bar2Read 0 (2 ^ 37) 4).wf = false ∧ (Instr.bar2Read 0 0 0).wf = false
    ∧ (Instr.bar2Write 0 (2 ^ 37) [0]).wf = false ∧ (Instr.bar2Write 0 0 []).wf = false := by decide
theorem test_illformed_short_register_value : (Instr.registerWrite 0 0 4 (2 ^ 32)).wf = false
    ∧ (Instr.registerWrite 0 0 0 0).wf = false := by decide
theorem test_illformed_empty_message : (Instr.smbusMessage []).wf = false := by decide
theorem test_illformed_flit : (Instr.flitReceive 0 [0] ⟨none, 0⟩).wf = false := by decide

/-- A message of `n` data bytes, with its LENGTH. -/
def msgOf (n : Half) (data tag : List Byte) : Msg := ⟨!tag.isEmpty, false, false, n, 1, 2, 0, 5, 0, data, tag, 0, false⟩

theorem test_illformed_message_long : (Instr.read 0 (msgOf 4097 [] [])).wf = false := by decide
theorem test_illformed_message_data : (Instr.write 0 (msgOf 2 [1] [])).wf = false ∧ (Instr.read 0 (msgOf 1 [1] [])).wf = false := by decide
theorem test_illformed_message_tag : (Instr.read 0 (msgOf 1 [] [1])).wf = false
    ∧ (Instr.read 0 { msgOf 1 [] [] with gcmTag := [1] }).wf = false := by decide
/-- A message of a SUM chunk with `data` bytes from its first element. -/
def sumMsg (kind : SumKind) (first : Nat) (n : Word) (data tag : List Byte) : SumMsg :=
  ⟨0, 0, kind, first, 1, 2, n, 0, false, .no, data, !tag.isEmpty, 0, tag, 0, ⟨0, 0, 0⟩⟩
/-- The same on the dumbwaiter (R354). -/
def dwaitMsg (kind : SumKind) (first : Nat) (n : Word) (data tag : List Byte) : SumMsg := { sumMsg kind first n data tag with dumbwaiter := true }

theorem test_sum_message : (sumMsg .exponents 0 1 (List.replicate 64 0) []).wf = true
    ∧ (Instr.dwait 0 (dwaitMsg .integers 0 1 (List.replicate 64 0) [])).wf = true
    ∧ (sumMsg .integers 4095 1 (List.replicate 16 0) (List.replicate 16 0)).wf = true := by decide +kernel
theorem test_illformed_sum_count : (Instr.sumMessage 0 (sumMsg .grant 0 0 [] [])).wf = false := by decide
theorem test_illformed_sum_data : (Instr.sumMessage 0 (sumMsg .grant 0 1 [0] [])).wf = false
    ∧ (Instr.dwait 0 (dwaitMsg .agreed 0 1 [0, 0, 0] [])).wf = false ∧ (Instr.sumMessage 0 (sumMsg .total 4095 1 (List.replicate 32 0) [])).wf = false := by
  decide
theorem test_illformed_sum_long : (Instr.sumMessage 0 (sumMsg .integers 0 1 (List.replicate 4112 0) [])).wf = false
    ∧ (Instr.sumMessage 0 (sumMsg .exponents 0 1 (List.replicate 128 0) [])).wf = false
    ∧ (Instr.dwait 0 (dwaitMsg .integers 0 1 (List.replicate 80 0) [])).wf = false := by decide +kernel
theorem test_illformed_sum_channel : (Instr.sumMessage 0 (dwaitMsg .integers 0 1 [] [])).wf = false
    ∧ (Instr.dwait 0 (sumMsg .integers 0 1 [] [])).wf = false ∧ (Instr.dwait 0 (dwaitMsg .grant 0 1 [] [])).wf = false := by decide
theorem test_illformed_sum_tag : (Instr.sumMessage 0 (sumMsg .grant 0 1 [] [1])).wf = false
    ∧ (Instr.dwait 0 { dwaitMsg .exponents 0 1 [] [] with gcmTag := [1] }).wf = false := by decide
theorem test_illformed_twin_long : (Instr.twin 0 0 0 ⟨false, List.replicate 4097 0⟩).wf = false := by decide +kernel
theorem test_illformed_domain_number : (Instr.domain 0 0 0xFFF 0 0).wf = false := by decide
theorem test_illformed_sensor_number : (Instr.sensorSample ⟨[(0x54, 0)], []⟩).wf = false ∧ (Instr.sensorSample ⟨[(0x60, 0)], []⟩).wf = true
    ∧ (Instr.sensorSample ⟨[(0x64, 0)], []⟩).wf = false := by decide

/-- The table gives its rows no bits. -/
theorem test_no_words : decodeTableWord 64 0 = none := rfl

/-! ### Values from the spec -/

-- R103's check value; R64's worked example; R3's byte order; R435.
theorem test_crc16 : crc16 ("123456789".toList.map (fun c => BitVec.ofNat 8 c.toNat)) = 0x29B1 := by decide +kernel
theorem test_interleaved_example : phys 0x2A3C4D5E70 = 0x1A0303DE70 := by decide
theorem test_little_endian : toLE 4 0x0D200D20 = [0x20, 0x0D, 0x20, 0x0D] := by decide
theorem test_serial_wraps : seqEarlier 0xFFFFFFFF 0 = true ∧ seqEarlier 0 0xFFFFFFFF = false := by decide
-- R38: E4M3 has no infinity and S.1111.111 is its NaN; its largest value is 448; E5M2's is 57,344.
theorem test_e4m3 : decode .e4m3 0x7E = .fin false 14 5 ∧ decode .e4m3 0x7F = .nan := by decide
theorem test_e5m2 : (decode .e5m2 0x7B).eq (.fin false 57344 0) = true ∧ decode .e5m2 0x7C = .inf false := by decide

/-! ### A state that serves packets -/

/-- Whether a state meets the invariant, with an empty ledger. -/
def okState (s : State) : Bool :=
  Memory.wf s.mem && Memory.wf s.host && Tab.wf Port.reset s.ports && Tab.wf Chute.reset s.chutes && Tab.wf 0 s.rounds
    && Tab.wf Hook.reset s.hooks && Tab.wf 0 s.marks && Tab.wf none s.ecc && Tab.wf none s.regions && Tab.wf none s.keys
    && Tab.wf [] s.taint && Tab.wf Bank.reset s.banks && Tab.wf Tile.none s.tiles && Tab.wf Edge.reset s.edges && Tab.wf 0 s.testedBanks && Tab.wf HubInv.reset s.hubs
    && Tab.wf Core.reset s.cores && Tab.wf Lane.reset s.lanes && Tab.wf RailState.reset s.rails && Tab.wf Slot.reset s.slots
    && Tab.wf Link.reset s.links && Tab.wf Coll.reset s.colls && Tab.wf Engine.reset s.engines && Tab.wf Stream.reset s.streams
    && Tab.wf Counter.reset s.counters && Tab.wf Sensor.reset s.sensors
    && s.status.bgPatience != 0 && s.status.bulkPatience != 0 && s.counters.all (fun x => decide (x.2.value ≤ counterMax))
    && s.ledger.isEmpty && s.hooks.all (fun x => decide (64 ≤ x.1) && decide (x.1 < 4096))

theorem inv_of_ok {s : State} (h : okState s = true) : s.Inv := by
  simp only [okState, Bool.and_eq_true, List.all_eq_true, decide_eq_true_eq, List.isEmpty_iff, bne_iff_ne, ne_eq] at h
  obtain ⟨⟨⟨⟨⟨⟨⟨⟨⟨⟨⟨⟨⟨⟨⟨⟨⟨⟨⟨⟨⟨⟨⟨⟨⟨⟨⟨⟨⟨⟨c1, c2⟩, c3⟩, c4⟩, c5⟩, c6⟩, c7⟩, c8⟩, c9⟩, c10⟩, c11⟩, c12⟩, c13⟩, c14⟩, c15⟩, c16⟩, c17⟩, c18⟩, c19⟩,
    c20⟩, c21⟩, c22⟩, c23⟩, c24⟩, c25⟩, c26⟩, p1⟩, p2⟩, k⟩, l⟩, w⟩ := h
  exact ⟨⟨c1, c2, c3, c4, c5, c6, c7, c8, c9, c10, c11, c12, c13, c14, c15, c16, c17, c18, c19, c20, c21, c22, c23, c24, c25, c26⟩, ⟨p1, p2⟩, k,
    ⟨by simp [l], by simp [l]⟩, w⟩

/-- After reset, with READY. -/
def ready : State := { State.reset with status := { Status.reset with ready := true } }

theorem serves_of {s : State} (h1 : clocked s = true) (h2 : s.firmware.recovery = false) (h3 : s.twin.bound = false) (x : Bool) :
    Serves s x := ⟨h1, by simp [h2], by simp [h3]⟩

/-- `ready` with chute 0 of port 0 enabled: 16 entries and 16 replies. -/
def chute0 : Chute := { Chute.reset with enable := true, log2N := 4, log2Replies := 4, replyBase := 0x1000, owed := 1 }
def enabled : State := { ready with chutes := [(0, chute0)] }

theorem enabled_inv : enabled.Inv := inv_of_ok (by decide)
theorem enabled_serves : Serves enabled true ∧ Serves enabled false := ⟨serves_of rfl rfl rfl _, serves_of rfl rfl rfl _⟩
theorem enabled_servesHost : ServesHost enabled hdr true ∧ ServesHost enabled hdr false := ⟨⟨enabled_serves.1, rfl⟩, ⟨enabled_serves.2, rfl⟩⟩

/-- No rail domain is gated. -/
theorem awake_of {s : State} (h : s.rails.all (fun x => x.2.rail != .gated) = true) : Awake s := by
  simpa [Awake, List.all_eq_true] using h

/-! ### Witnesses: the block -/

theorem witness_stepServesQueue : State.reset.pending = [] ∧ State.reset.mgmt.queue = [] := ⟨rfl, rfl⟩

theorem witness_stepKeepsInvariant : enabled.Inv ∧ ∃ t, step { enabled with pending := [.nop hdr] } = .next t :=
  ⟨enabled_inv, _, rfl⟩

/-! ### Witnesses: completion and hooks -/

/-- A packet that signals hook 0xFFF. -/
def signalling : Hdr := { hdr with signal := true, signalHook := 0xFFF, signalInc := 1 }

theorem answerable_hdr : Answerable enabled hdr := ⟨rfl, rfl, by decide, by decide⟩

theorem witness_commandCompletion :
    (Answerable enabled hdr ∧ replyOmitted hdr (Reply.of stDone) = false ∧ (hdr.signal && signals stDone) = false)
    ∧ (enabled.Inv ∧ Answerable enabled signalling ∧ replyOmitted signalling (Reply.of stDone) = false ∧ signalling.signal = true
      ∧ signals stDone = true ∧ 64 ≤ signalling.signalHook.toNat ∧ (enabled.hook signalling.signalHook.toNat).waiters = [])
    ∧ (Answerable enabled { hdr with replyOnErrorOnly := true }
      ∧ replyOmitted { hdr with replyOnErrorOnly := true } (Reply.of stDone) = true)
    ∧ (hdr.partner = none ∧ (∀ f ∈ ready.twin.forwarded, f.hdr ≠ hdr) ∧ replyAlive ready hdr = false
      ∧ (hdr.signal && signals stDone) = false)
    ∧ ((Reply.of stSealed).status < 2 ^ 16 ∧ (Reply.badField 32).detail < 2 ^ 16 ∧ (Reply.done 1 2 3).w0 < 2 ^ 32 ∧ (Reply.done 1 2 3).w1 < 2 ^ 32
      ∧ (Reply.done 1 2 3).w2 < 2 ^ 32) :=
  ⟨⟨answerable_hdr, by decide, by decide⟩, ⟨enabled_inv, ⟨rfl, rfl, by decide, by decide⟩, by decide⟩,
    ⟨⟨rfl, rfl, by decide, by decide⟩, by decide⟩, ⟨rfl, by decide, by decide⟩, by decide⟩

/-- A hook with a count of 5, and one whose waiter needs more than its count. -/
def hooked : State := { enabled with hooks := [(64, ⟨5, []⟩), (4095, ⟨1, [.command hdr 2]⟩)] }

theorem hooked_inv : hooked.Inv := inv_of_ok (by decide)
theorem hooked_serves : Serves hooked false := serves_of rfl rfl rfl _

theorem hooked_heads (j : Nat) : ∀ w ∈ (hooked.hook j).waiters.head?, (hooked.hook j).count < w.amount := by
  by_cases h1 : j = 64
  · subst h1; decide
  · by_cases h2 : j = 4095
    · subst h2; decide
    · have : hooked.hook j = Hook.reset := by simp only [State.hook, hooked, Tab.look, h1, h2, if_false, ite_self]
      simp [this, Hook.reset]

theorem witness_hookCommands :
    (Serves hooked false ∧ (0 : Half).toNat ≤ 4095)
    ∧ (hooked.Inv ∧ 64 ≤ (64 : Half).toNat ∧ (64 : Half).toNat ≤ 4095 ∧ (hooked.hook (64 : Half).toNat).waiters = [])
    ∧ ((5 : Word) ≠ 0 ∧ hdr.signal = false ∧ (5 : Word) ≤ (hooked.hook (64 : Half).toNat).count)
    ∧ ((hooked.hook (64 : Half).toNat).count < (6 : Word) ∧ ∀ w ∈ (hooked.hook (64 : Half).toNat).waiters.head?, (hooked.hook 64).count < w.amount)
    ∧ ((4095 : Half).toNat ≤ 4095 ∧ (hooked.hook (4095 : Half).toNat).waiters ≠ []
      ∧ ∀ w ∈ (hooked.hook (4095 : Half).toNat).waiters.head?, (hooked.hook 4095).count < w.amount)
    ∧ ((63 : Half).toNat < 64 ∧ 4095 < (4096 : Half).toNat) :=
  ⟨⟨hooked_serves, by decide⟩, ⟨hooked_inv, by decide⟩, by decide, ⟨by decide, hooked_heads 64⟩, ⟨by decide, by decide, hooked_heads 4095⟩,
    by decide⟩

theorem witness_headWaiterServed : hooked.Inv ∧ (∀ j, ∀ w ∈ (hooked.hook j).waiters.head?, (hooked.hook j).count < w.amount)
    ∧ (∃ t, exec (.hookSet hdr 4095 2) hooked = .next t) ∧ (∃ t, exec (.hookRelease hdr 4095 1) hooked = .next t)
    ∧ ∃ t, exec (.hookAcquire hdr 64 5) hooked = .next t := ⟨hooked_inv, hooked_heads, ⟨_, rfl⟩, ⟨_, rfl⟩, ⟨_, rfl⟩⟩

/-! ### Witnesses: reports, ledger, counters -/

theorem witness_reportsAnswer : Serves enabled true ∧ hdr.partner = none ∧ 1424 ≤ (1424 : Word).toNat ∧ 13200 ≤ (13200 : Word).toNat
    ∧ (1423 : Word).toNat < 1424 := ⟨enabled_serves.1, by decide⟩

/-- A state that meets the invariant still does after its first ledger record. -/
theorem inv_log {s : State} (h : okState s = true) (hl : s.ledger = []) (event source : Nat) (d : List Byte) : (s.log event source d).Inv := by
  have c := (inv_of_ok h).canonical
  refine ⟨⟨c.mem, c.host, c.ports, c.chutes, c.rounds, c.hooks, c.marks, c.ecc, c.regions, c.keys, c.taint, c.banks, c.tiles, c.edges, c.testedBanks, c.hubs, c.cores,
    c.lanes, c.rails, c.slots, c.links, c.colls, c.engines, c.streams, c.counters, c.sensors⟩, (inv_of_ok h).patient, (inv_of_ok h).counted, ?_,
    (inv_of_ok h).steward⟩
  refine ⟨by simp [State.log, hl], fun i r hr => ?_⟩
  simp only [State.log, hl, List.take] at hr ⊢
  cases i with
  | zero =>
    simp only [List.getElem?_cons_zero, Option.some.injEq] at hr
    subst hr
    simp [BitVec.add_sub_cancel]
  | succ i => simp at hr

/-- One ledger record. -/
def recorded : State := enabled.log 0x0003 0 []

theorem witness_ledger :
    (ServesHost enabled hdr true ∧ enabled.Inv ∧ 1 ≤ (1 : Word).toNat ∧ (1 : Word).toNat ≤ 16384
      ∧ ((1 : Word) - (enabled.ledgerNext - 1)).toNat ≠ 2 ^ 31 ∧ enabled.ledger = [])
    ∧ (ServesHost recorded hdr true ∧ recorded.Inv ∧ ((1 : Word) - (recorded.ledgerNext - 1)).toNat ≠ 2 ^ 31
      ∧ ¬ (recorded.ledger = [] ∨ (recorded.ledgerNext - 1 ≠ 1 ∧ ((1 : Word) - (recorded.ledgerNext - 1)).toNat < 2 ^ 31)))
    ∧ (0x0305 < 2 ^ 16 ∧ (toLE 8 5).length ≤ 24)
    ∧ (seqEarlier 0xFFFFFFFF 0 = true ∧ (0xFFFFFFFF : Word) ≠ 0 ∧ ((0 : Word) - 0xFFFFFFFF).toNat ≠ 2 ^ 31) :=
  ⟨⟨enabled_servesHost.1, enabled_inv, by decide⟩, ⟨⟨serves_of rfl rfl rfl _, rfl⟩, inv_log (by decide) rfl _ _ _, by decide⟩, by decide, by decide⟩

/-- Counters at and next to their largest value. -/
def counted : State := { enabled with counters := [(counterId 0xA000 0, ⟨counterMax - 1, false⟩), (counterId 0xA000 1, ⟨counterMax, true⟩)] }

theorem witness_counters :
    (counted.Inv ∧ (counted.counter (counterId 0xA000 0)).value + 1 ≤ 0xFFFFFFFFFFFF
      ∧ 0xFFFFFFFFFFFF < (counted.counter (counterId 0xA000 0)).value + 2 ∧ (counted.counter (counterId 0xA000 0)).sat = false
      ∧ 0xFFFFFFFFFFFF < (counted.counter (counterId 0xA000 1)).value + 1 ∧ (counted.counter (counterId 0xA000 1)).sat = true)
    ∧ (Serves counted false ∧ ServesHost counted hdr false ∧ 1 ≤ (4096 : Word).toNat ∧ (4096 : Word).toNat ≤ 4096)
    ∧ (isCounter (counterId 0xA000 0) = true ∧ isActivity (counterId 0xA000 0) = false)
    ∧ ((0 : Word).toNat = 0 ∧ 4096 < (4097 : Word).toNat) :=
  ⟨⟨inv_of_ok (by decide), by decide⟩, ⟨serves_of rfl rfl rfl _, ⟨serves_of rfl rfl rfl _, rfl⟩, by decide⟩, by decide, by decide⟩

/-! ### Witnesses: device memory -/

theorem witness_interleavedView : 0x2000000000 ≤ 0x2A3C4D5E70 ∧ 0x2A3C4D5E70 < 0x3E00000000 ∧ phys 0x2A3C4D5E70 = phys 0x1A0303DE70
    ∧ (∀ x ∈ enabled.ecc, phys (8 * x.1) = 8 * x.1) := by decide

/-- Core 0's shelf tainted. -/
def tainted : State := { enabled with taint := [(0, [1])] }

theorem witness_localMemory :
    (enabled.Inv ∧ enabled.ecc = [] ∧ Awake enabled ∧ rangeOk enabled 0x1DFFFFFFFF [0xAA].length = true)
    ∧ (ServesHost enabled hdr false ∧ Awake enabled ∧ Undisturbed enabled hdr (.writeMem hdr 0xFFF0000001000 0 8)
      ∧ Undisturbed enabled hdr (.readMem hdr 0xFFF0000001000 0 8) ∧ Undisturbed enabled hdr (.fillMem hdr 0xFFF0000001000 8 1) ∧ hdr.partner = none
      ∧ (8 : Dword) ≠ 0 ∧ (0x1000 : Dword).toNat < 2 ^ 52 ∧ isLocal enabled (0x1000 : Dword).toNat = false
      ∧ isLocal enabled (0xFFF0000001000 : Dword).toNat = true ∧ (0xFFF0000001000 : Dword).toNat < 2 ^ 52
      ∧ rangeOk enabled (localPart (0xFFF0000001000 : Dword).toNat) (8 : Dword).toNat = true
      ∧ touchesTaint enabled (localPart (0xFFF0000001000 : Dword).toNat) = false
      ∧ (0xFFF0000001000 : Dword).toNat % 8 = 0 ∧ (8 : Dword).toNat % 8 = 0)
    ∧ (ServesHost tainted hdr false ∧ Awake tainted ∧ Undisturbed tainted hdr (.writeMem hdr 0xFFF4000000000 0 8)
      ∧ Undisturbed tainted hdr (.readMem hdr 0xFFF4000000000 0 8) ∧ isLocal tainted (0xFFF4000000000 : Dword).toNat = true
      ∧ rangeOk tainted (localPart (0xFFF4000000000 : Dword).toNat) 8 = true ∧ touchesTaint tainted (localPart (0xFFF4000000000 : Dword).toNat) = true)
    ∧ (Undisturbed enabled hdr (.writeMem hdr 0xFFF1E00000000 0 8) ∧ Undisturbed enabled hdr (.readMem hdr 0xFFF1E00000000 0 8)
      ∧ rangeOk enabled (localPart (0xFFF1E00000000 : Dword).toNat) (8 : Dword).toNat = false)
    ∧ Undisturbed enabled hdr (.fillMem hdr 0xFFF4000000000 0x2000000 1) ∧ wholeSlot enabled (localPart (0xFFF4000000000 : Dword).toNat) (0x2000000 : Dword).toNat = some 0 :=
  ⟨⟨enabled_inv, rfl, awake_of (by decide), by decide⟩,
    ⟨enabled_servesHost.2, awake_of (by decide), ⟨by decide, by decide⟩, ⟨by decide, by decide⟩, ⟨by decide, by decide⟩, by decide⟩,
    ⟨⟨serves_of rfl rfl rfl _, rfl⟩, awake_of (by decide), ⟨by decide, by decide⟩, ⟨by decide, by decide⟩, by decide⟩,
    ⟨⟨by decide, by decide⟩, ⟨by decide, by decide⟩, by decide⟩, ⟨by decide, by decide⟩, by decide⟩

/-- A fill whose epilogue part waits. -/
def filling : State := { enabled with fills := [⟨hdr, 0, 1⟩] }

theorem witness_shelfEpilogueFill : Awake filling ∧ filling.ecc = [] ∧ filling.fills.find? (fun f => f.core == coreIx ⟨0, 0⟩) = some ⟨hdr, 0, 1⟩
    ∧ (filling.core (coreIx ⟨0, 0⟩)).busy = [] := ⟨awake_of (by decide), by decide⟩

/-- A sealed region in the first 64 KiB. -/
def key0 : KeySlot := ⟨[1], [2], 3, 0, [], 0, 0⟩
def sealedAt0 : State := { enabled with regions := [(0, some ⟨0, 65536, 4, 0⟩)], keys := [(0, some key0)] }

theorem witness_copyMemory :
    (Awake enabled ∧ Undisturbed enabled hdr (.copyMem hdr 0xFFF0000000000 0xFFF0000000007 8)
      ∧ Undisturbed enabled hdr (.copyMem hdr 0xFFF0000000000 0xFFF0000000008 8) ∧ Awake sealedAt0
      ∧ Undisturbed sealedAt0 hdr (.copyMem hdr 0xFFF0000000000 0xFFF0000010000 8) ∧ Awake tainted
      ∧ Undisturbed tainted hdr (.copyMem hdr 0xFFF4000000000 0xFFF0000000000 8))
    ∧ (enabled.Inv ∧ Serves enabled false ∧ enabled.ecc = [] ∧ (8 : Dword) ≠ 0 ∧ isLocal enabled 0xFFF0000000000 = true
      ∧ isLocal enabled 0xFFF0000000010 = true ∧ rangeOk enabled (localPart 0xFFF0000000000) 8 = true
      ∧ rangeOk enabled (localPart 0xFFF0000000010) 8 = true ∧ overlapping enabled 0xFFF0000000000 0xFFF0000000007 8 = true
      ∧ overlapping enabled 0xFFF0000000000 0xFFF0000000008 8 = false ∧ enabled.regions = [] ∧ touchesTaint enabled (localPart 0xFFF0000000000) = false)
    ∧ (sealedAt0.Inv ∧ Serves sealedAt0 false ∧ overlapping sealedAt0 0xFFF0000000000 0xFFF0000010000 8 = false
      ∧ copyUnseals sealedAt0 (localPart 0xFFF0000000000) (localPart 0xFFF0000010000) 8 = true)
    ∧ (tainted.Inv ∧ overlapping tainted 0xFFF4000000000 0xFFF0000000000 8 = false ∧ touchesTaint tainted (localPart 0xFFF4000000000) = true) :=
  ⟨⟨awake_of (by decide), ⟨by decide, by decide⟩, ⟨by decide, by decide⟩, awake_of (by decide), ⟨by decide, by decide⟩, awake_of (by decide),
      ⟨by decide, by decide⟩⟩,
    ⟨enabled_inv, enabled_serves.2, by decide⟩, ⟨inv_of_ok (by decide), serves_of rfl rfl rfl _, by decide⟩, ⟨inv_of_ok (by decide), by decide⟩⟩

theorem witness_lengthZeroDoesNothing : ServesHost enabled hdr false ∧ (15 : Byte).toNat ≤ 15 ∧ (∀ x ∈ enabled.races, x.1 ≠ hdr)
    ∧ enabled.twin.bound = false ∧ enabled.member = none ∧ enabled.joining = none ∧ enabled.twin.binding = none := ⟨enabled_servesHost.2, by decide⟩

/-- A stream that holds the first rack of a key's place: the bytes from 0. -/
def racked : State := { enabled with
  keys := [(0, some key0)]
  streams := [(0, { Stream.reset with
    opened := true
    desc := { StreamDesc.empty with buffers := 1, width := 64, height := 64, bitDepth := 8 } })] }

theorem witness_sealedRegionsAndKeys :
    (
      let s := { enabled with keys := [(0, some key0)] }
      Serves s false ∧ (0 : Dword).toNat < 2 ^ 40 ∧ (65536 : Dword) ≠ 0 ∧ rangeOk s (0 : Dword).toNat (65536 : Dword).toNat = true
      ∧ (0 : Dword).toNat % 65536 = 0 ∧ (0 : Dword).toNat + (65536 : Dword).toNat ≤ cellarEnd
      ∧ anyMeet (regionRanges s) [((0 : Dword).toNat, (65536 : Dword).toNat)] = false
      ∧ (s.key (0 : Byte).toNat).isSome = true ∧ s.region 0 = none ∧ (∀ j, j < 0 → (s.region j).isSome = true)
      ∧ anyMeet (planRanges s false ++ (racks s).flatMap (fun x => heldRanges x.1 x.2)) [((0 : Dword).toNat, (65536 : Dword).toNat)] = false)
    ∧ (Serves racked false ∧ anyMeet (planRanges racked false ++ (racks racked).flatMap (fun x => heldRanges x.1 x.2)) [(0, 65536)] = true)
    ∧ (Serves sealedAt0 false ∧ sealedAt0.regions.find? (fun x => x.2.any (fun r => r.base == (0 : Dword).toNat)) = some (0, some ⟨0, 65536, 4, 0⟩)
      ∧ anyMeet (planRanges sealedAt0 true ++ (racks sealedAt0).flatMap (fun x => heldRanges x.1 x.2)) [(0, 65536)] = false)
    ∧ (
      let s := { racked with regions := [(0, some ⟨0, 65536, 4, 0⟩)] }
      Serves s false ∧ s.regions.find? (fun x => x.2.any (fun r => r.base == (0 : Dword).toNat)) = some (0, some ⟨0, 65536, 4, 0⟩)
      ∧ anyMeet (planRanges s true ++ (racks s).flatMap (fun x => heldRanges x.1 x.2)) [(0, 65536)] = true)
    ∧ (ServesHost enabled hdr false ∧ (244 : Word).toNat = 244 ∧ (63 : Byte).toNat ≤ 63 ∧ ∀ x ∈ enabled.regions, ∀ r, x.2 = some r → r.key ≠ (63 : Byte).toNat) :=
  ⟨⟨serves_of rfl rfl rfl _, by decide, by decide, by decide, by decide, by decide, by decide, by decide, by decide,
    fun _ h => absurd h (Nat.not_lt_zero _), by decide⟩, ⟨serves_of rfl rfl rfl _, by decide⟩, ⟨serves_of rfl rfl rfl _, by decide⟩,
    ⟨serves_of rfl rfl rfl _, by decide⟩, enabled_servesHost.2, by decide, by decide, fun _ h => nomatch h⟩

/-! ### Witnesses: the sweep -/

/-- A bank of `ready` with another content. -/
def banked (k : Nat) (b : Bank) : State := { ready with banks := [(k, b)] }

theorem witness_sweep :
    (ready.power.rails = true ∧ CoresSound ready ∧ ready.ecc = [] ∧ (ready.bank (bankIx (.hub 1 63))).standing ≠ .forced)
    ∧ (
      let s := { banked 0 { Bank.reset with writeBacks := [5] } with ecc := [(5, some .single)] }
      s.Inv ∧ s.power.rails = true ∧ CoresSound s ∧ (s.bank (bankIx (.cellar 0 0 0))).standing ≠ .forced ∧ (s.bank (bankIx (.cellar 0 0 0))).writeBacks = [5]
      ∧ Tab.look none s.ecc 5 = some .single)
    ∧ (
      let s := banked 0 { Bank.reset with copy := some (262143, false) }
      s.Inv ∧ s.ecc = [] ∧ (s.bank (bankIx (.cellar 0 0 0))).copy = some (262143, false) ∧ 262143 < bankSlots (bankIx (.cellar 0 0 0)))
    ∧ (
      let s := banked 0 { Bank.reset with copy := some (262144, false) }
      (s.bank (bankIx (.cellar 0 0 0))).copy = some (bankSlots (bankIx (.cellar 0 0 0)), false))
    ∧ (
      let s := banked 0 { Bank.reset with copy := some (262144, true) }
      s.Inv ∧ (s.bank (bankIx (.cellar 0 0 0))).copy = some (bankSlots (bankIx (.cellar 0 0 0)), true))
    ∧ (
      let s := { ready with status := { ready.status with tested := true } }
      s.status.ready = true ∧ s.status.cellarTestDone = false ∧ s.status.tested = true ∧ s.Inv) :=
  ⟨⟨rfl, fun _ h => (nomatch h), by decide⟩, ⟨inv_of_ok (by decide), rfl, fun _ h => (nomatch h), by decide⟩, ⟨inv_of_ok (by decide), by decide⟩, by decide, ⟨inv_of_ok (by decide), by decide⟩, by decide,
    by decide, by decide, inv_of_ok (by decide)⟩

/-- A bank that owes `n + 1` write-backs. -/
def owing (n : Nat) (x : Standing) : Bank := { Bank.reset with
  writeBacks := List.replicate (n + 1) 0
  standing := x }

/-- The standings at the ends of their ranges: 2^19 + 1, 2^20, 2^18 - 1, 2^18 and 2^19 - 1 slots. -/
theorem witness_sweepStanding (n : Nat) (x : Standing) :
    (((banked 0 (owing n x)).bank (bankIx (.cellar 0 0 0))).standing = x)
    ∧ sweepDebt (bankIx (.cellar 0 0 0)) ((banked 0 (owing n x)).bank
        (bankIx (.cellar 0 0 0))) = n + 1 := by
  refine ⟨rfl, ?_⟩
  show (List.replicate (n + 1) 0).length + 0 = n + 1
  simp

/-! ### Witnesses: plans -/

/-- A descriptor of an FP32 row of `n` elements, a MOVE record, and the image of a plan that moves 16 bytes (R256 to R273). -/
def descBytes (base n : Nat) : List Byte :=
  toLE 8 (0xFFF * 2 ^ 40 + base) ++ toLE 8 0xFFFFFFFF ++ toLE 4 n ++ toLE 4 1 ++ toLE 4 1 ++ toLE 4 1 ++ toLE 4 1 ++ toLE 24 1 ++ toLE 4 0
def moveBytes : List Byte :=
  toLE 8 (0xB * 2 ^ 48 + 2 ^ 42 + 15 * 2 ^ 38) ++ toLE 2 0 ++ toLE 4 0xFFFFFFFF ++ toLE 2 1 ++ toLE 6 0xFFFFFFFFFFFF ++ toLE 2 0 ++ toLE 2 1 ++ toLE 2 1
    ++ toLE 2 1 ++ toLE 2 0 ++ toLE 12 (2 ^ 96 - 1) ++ toLE 84 0
def image : List Byte :=
  toLE 2 1 ++ toLE 2 2 ++ toLE 4 512 ++ toLE 8 5 ++ toLE 2 2 ++ toLE 2 1 ++ toLE 2 0 ++ toLE 2 1 ++ toLE 4 128 ++ toLE 4 256 ++ toLE 4 0 ++ toLE 4 384
    ++ toLE 4 448 ++ toLE 20 0
    ++ toLE 64 7762891678301261856131042336475681572370219245756325154561025972697891483607011619274198159309990009327972193402644781412665107207371097724642419785071583
    ++ descBytes 0 4 ++ descBytes 4096 4 ++ moveBytes ++ toLE 128 0

/-- Bytes in host memory from 0, and nothing else there. -/
def placed (s : State) (bs : List Byte) : State := { s with host := putHost [] 0 0 bs }

theorem hostData_placed (s : State) (bs : List Byte) : hostData (placed s bs) hdr 0 bs.length = bs := by
  refine List.ext_getElem (by simp [hostData, hostBytes, hdr]) (fun i h1 h2 => ?_)
  have := byte_putHost bs [] 0 0 i rfl h2
  simp only [hostData, hdr, hostBytes, List.getElem_map, List.getElem_range, State.hostByte, placed]
  rw [show (2 * (0 + i) + (0 : PortId).val % 2) = 2 * (0 + i) + 0 % 2 from rfl, this, List.getD_eq_getElem?_getD, List.getElem?_eq_getElem h2, Option.getD_some]

/-- `placed` leaves the invariant alone. -/
theorem placed_inv {s : State} (h : s.Inv) (bs : List Byte) : (placed s bs).Inv := by
  have c := h.canonical
  exact ⟨⟨c.mem, putHost_wf bs [] 0 0 rfl, c.ports, c.chutes, c.rounds, c.hooks, c.marks, c.ecc, c.regions, c.keys, c.taint, c.banks, c.tiles,
    c.edges, c.testedBanks, c.hubs, c.cores, c.lanes, c.rails, c.slots, c.links, c.colls, c.engines, c.streams, c.counters, c.sensors⟩, h.patient, h.counted,
    h.recorded, h.steward⟩

theorem image_length : image.length = (512 : Word).toNat := by decide +kernel

/-- An image that passes every check of R276. -/
theorem image_loads : (loadChecks (placed enabled image) image).isOk = true := by decide +kernel

theorem exists_of_isOk {α ε : Type} {x : Except ε α} (h : x.isOk = true) : ∃ a, x = .ok a := by
  cases x with
  | ok a => exact ⟨a, rfl⟩
  | error e => simp [Except.isOk, Except.toBool] at h

theorem hostData_image : hostData (placed enabled image) hdr (0 : Dword).toNat (512 : Word).toNat = image := by
  rw [← image_length]
  exact hostData_placed enabled image

/-- A tensor of a format in a local cellar, one row; a record with no operands; a plan of one home. -/
def tensorOf (fmt base : Nat) (size : List Nat) : Tensor :=
  ⟨fmt, 0, 0, false, 0xFFF * 2 ^ 40 + base, 0xFFFF, 0xFFFF, 0, size, [1, size.getD 0 1, 0, 0, 0], 0, false, false, 0, 0, true⟩
def recOf (op : Nat) (stepEnd : Bool) : Rec :=
  ⟨op, 0, 0, false, stepEnd, 15, 0, 0, 0xFFFF, 0xFFFF, 0xFFFF, 0xFFFF, 0xFFFF, 0xFFFF, 0xFFFF, 0, 1, 1, 1, 0, [0xFFFF, 0xFFFF, 0xFFFF, 0xFFFF],
    0xFFFF, 0xFFFF, 0, 0, [0, 0, 0, 0, 0, 0, 0, 0], true⟩
def planOf (tensors : List Tensor) (records : List Rec) : Plan :=
  ⟨2, 512, 5, 1, tensors, records, [], ⟨0, 0, 0, 0, [], true⟩, ⟨0, 0, 0, 0, 0, 0, true⟩, [], [], List.replicate 64 0, true⟩

/-- Two MOVE records in one step. -/
def twoMoves : Plan := planOf [tensorOf 0 0 [4, 1, 1, 1, 1], tensorOf 0 4096 [4, 1, 1, 1, 1]]
  [{ recOf 11 false with a := 0, out := 1 }, { recOf 11 true with a := 0, out := 1 }]

/-- Slot 0 holds a plan, without and with a run. -/
def holding (p : Plan) : State := { enabled with slots := [(0, { Slot.reset with plan := some p, seed := 5, advance := 3 })] }
def running (p : Plan) (q : Run) : State :=
  { enabled with slots := [(0, { Slot.reset with plan := some p, seed := 5, advance := 3, epoch := 1, run := some q })] }

/-- The run that a RUN of slot 0 starts. -/
def freshRun (p : Plan) : Run := newRun (holding p) hdr 0 none

theorem holding_serves (p : Plan) : Serves (holding p) false := serves_of rfl rfl rfl _
theorem running_serves (p : Plan) (q : Run) : Serves (running p q) false := serves_of rfl rfl rfl _
theorem holding_inv (p : Plan) : (holding p).Inv := inv_of_ok rfl
theorem running_inv (p : Plan) (q : Run) : (running p q).Inv := inv_of_ok rfl

/-- Whether a step of a plan has a record left. -/
def openB (p : Plan) (q : Run) : Bool := (p.steps[q.step]?).any (fun rs => rs.any (fun r => !q.isDone p r))
theorem open_of {p : Plan} {q : Run} (h : openB p q = true) : StepOpen p q := by
  unfold openB at h
  rw [Option.any_eq_true] at h
  obtain ⟨rs, h1, h2⟩ := h
  rw [List.any_eq_true] at h2
  obtain ⟨r, h3, h4⟩ := h2
  exact ⟨rs, h1, r, h3, by simpa using h4⟩

theorem witness_planSlots :
    ((holding twoMoves).Inv ∧ ServesHost (holding twoMoves) hdr false ∧ Serves (holding twoMoves) false ∧ (0 : Byte).toNat ≤ 15 ∧ (512 : Word) ≠ 0
      ∧ ((holding twoMoves).slot (0 : Byte).toNat).plan.isSome = true)
    ∧ (enabled.Inv ∧ ServesHost enabled hdr false ∧ (enabled.slot (15 : Byte).toNat).plan = none
      ∧ ∃ r, loadChecks enabled (hostData enabled hdr (0 : Dword).toNat (1 : Word).toNat) = .error r)
    ∧ ((placed enabled image).Inv ∧ ServesHost (placed enabled image) hdr false ∧ Awake (placed enabled image) ∧ ((placed enabled image).slot (0 : Byte).toNat).plan = none
      ∧ (placed enabled image).ecc = []
      ∧ ∃ p, loadChecks (placed enabled image) (hostData (placed enabled image) hdr (0 : Dword).toNat (512 : Word).toNat) = .ok p)
    ∧ ∃ q, ((running twoMoves (freshRun twoMoves)).slot 0).plan = some twoMoves ∧ ((running twoMoves (freshRun twoMoves)).slot 0).run = some q :=
  ⟨⟨holding_inv _, ⟨holding_serves _, rfl⟩, holding_serves _, by decide, by decide, rfl⟩, ⟨enabled_inv, enabled_servesHost.2, rfl, ⟨_, rfl⟩⟩,
    ⟨placed_inv enabled_inv _, ⟨serves_of rfl rfl rfl _, rfl⟩, awake_of rfl, rfl, rfl, by rw [hostData_image]; exact exists_of_isOk image_loads⟩, ⟨_, rfl, rfl⟩⟩

theorem witness_planUnloading :
    ((running twoMoves (freshRun twoMoves)).Inv ∧ Serves (running twoMoves (freshRun twoMoves)) false
      ∧ ((running twoMoves (freshRun twoMoves)).slot 0).plan = some twoMoves ∧ ((running twoMoves (freshRun twoMoves)).slot 0).run.isSome = true)
    ∧ ((holding twoMoves).Inv ∧ Serves (holding twoMoves) false ∧ ((holding twoMoves).slot 0).plan = some twoMoves
      ∧ ((holding twoMoves).slot 0).run = none) :=
  ⟨⟨running_inv _ _, running_serves _ _, rfl, rfl⟩, ⟨holding_inv _, holding_serves _, rfl, rfl⟩⟩

/-- No core serves a position of a tile. -/
def stripped : State := { holding twoMoves with tiles := [] }

theorem witness_runCommand :
    (7 < (8 : Byte).toNat ∧ (8 : Byte).toNat ≠ 0xFF ∧ (7 : Byte).toNat ≤ 7 ∧ (0xFF : Byte).toNat = 0xFF)
    ∧ ((holding twoMoves).Inv ∧ Serves (holding twoMoves) false ∧ ((holding twoMoves).slot 0).plan = some twoMoves
      ∧ ((holding twoMoves).slot 0).run = none ∧ degradedCase (holding twoMoves) twoMoves = none ∧ twoMoves.landing.every = 0
      ∧ StepOpen twoMoves (newRun (holding twoMoves) hdr 0 none))
    ∧ ((running twoMoves (freshRun twoMoves)).slot 0).run.isSome = true
    ∧ (stripped.Inv ∧ Serves stripped false ∧ (stripped.slot 0).plan = some twoMoves ∧ (stripped.slot 0).run = none
      ∧ (degradedCase stripped twoMoves).isSome = true ∧ stripped.paired = false) :=
  ⟨by decide, ⟨holding_inv _, holding_serves _, rfl, rfl, by decide, rfl, open_of (by decide)⟩, rfl,
    ⟨inv_of_ok rfl, serves_of rfl rfl rfl _, rfl, rfl, by decide, rfl⟩⟩

/-- A run paused, with a PAUSE that waits, and one that saves its context. -/
def pausedRun : Run := { freshRun twoMoves with paused := true }
def pausingRun : Run := { pausedRun with pauses := [⟨hdr, [0], 0⟩], inFlight := [1] }

theorem witness_pauseAndResume :
    ((holding twoMoves).Inv ∧ ((holding twoMoves).slot 0).plan = some twoMoves ∧ ((holding twoMoves).slot 0).run = none)
    ∧ (((running twoMoves pausedRun).slot 0).run = some pausedRun ∧ pausedRun.paused = true
      ∧ degradedCase (running twoMoves pausedRun) twoMoves = none ∧ (∀ x ∈ (running twoMoves pausedRun).cores, x.2.laneRuns = [])
      ∧ (pausedRun.landings.due = false ∧ StepOpen twoMoves pausedRun))
    ∧ (((running twoMoves (freshRun twoMoves)).slot 0).run = some (freshRun twoMoves) ∧ (freshRun twoMoves).paused = false)
    ∧ (((running twoMoves pausingRun).slot 0).run = some pausingRun ∧ pausingRun.stopped = none ∧ pausingRun.pauses = [⟨hdr, [0], 0⟩]
      ∧ ([0] : List Nat).all (settled (running twoMoves pausingRun) 0 twoMoves pausingRun) = true)
    ∧ ((running twoMoves { pausedRun with active := false }).slot 0).run.map (·.active) = some false :=
  ⟨⟨holding_inv _, rfl, rfl⟩, ⟨rfl, rfl, by decide, by decide, rfl, open_of (by decide)⟩, ⟨rfl, rfl⟩, ⟨rfl, rfl, rfl, by decide⟩, rfl⟩

theorem witness_abortEndsRun :
    ((freshRun twoMoves).pauses = [] ∧ (freshRun twoMoves).saving = none ∧ (freshRun twoMoves).answers = true
      ∧ (∀ x ∈ (running twoMoves (freshRun twoMoves)).cores, x.2.condemned = false ∧ x.2.failed = false)
      ∧ ∀ x ∈ (running twoMoves (freshRun twoMoves)).cores, ∀ y ∈ x.2.laneRuns, y.slot = (0 : SlotId).val) := by decide

/-- A run whose context is being saved. -/
def savingRun (capacity : Dword) : Run := { pausedRun with saving := some ⟨hdr, 0, capacity, false, 0⟩ }

/-- A context of `twoMoves` with nothing but its header (R280). -/
def context : List Byte :=
  toLE 2 1 ++ toLE 2 0 ++ toLE 4 128 ++ toLE 8 5 ++ toLE 8 3 ++ toLE 8 0 ++ toLE 4 0 ++ toLE 1 3 ++ toLE 27 0 ++ List.replicate 64 0

theorem context_length : context.length = (128 : Dword).toNat := by decide +kernel
theorem hostData_context : hostData (placed (holding twoMoves) context) hdr (0 : Dword).toNat (128 : Dword).toNat = context := by
  rw [← context_length]
  exact hostData_placed _ _

theorem witness_contexts :
    (Serves (running twoMoves (freshRun twoMoves)) false ∧ (1 : Byte).toNat ≤ 1 ∧ (freshRun twoMoves).saving = none)
    ∧ ((running twoMoves (savingRun 0)).Inv ∧ ((running twoMoves (savingRun 0)).slot 0).plan = some twoMoves
      ∧ ((running twoMoves (savingRun 0)).slot 0).run = some (savingRun 0) ∧ (savingRun 0).stopped = none
      ∧ (savingRun 0).inFlight.all (settled (running twoMoves (savingRun 0)) 0 twoMoves (savingRun 0)) = true
      ∧ (running twoMoves (savingRun 0)).ecc = [] ∧ Awake (running twoMoves (savingRun 0)) ∧ dmaStopped (running twoMoves (savingRun 0)) hdr = false ∧ twoMoves.readsSealed = false
      ∧ (contextBytes (running twoMoves (savingRun 0)) 0 twoMoves (savingRun 0)).any (fun x => decide ((0 : Dword).toNat < x.1.length)
        && decide (x.1.length ≤ (4096 : Dword).toNat)) = true)
    ∧ ((placed (holding twoMoves) context).Inv ∧ ServesHost (placed (holding twoMoves) context) hdr false ∧ (placed (holding twoMoves) context).ecc = []
      ∧ (128 : Dword) ≠ 0
      ∧ ((placed (holding twoMoves) context).slot 0).plan = some twoMoves ∧ ((placed (holding twoMoves) context).slot 0).run = none
      ∧ twoMoves.readsSealed = false
      ∧ contextOk twoMoves false (hostData (placed (holding twoMoves) context) hdr (0 : Dword).toNat (128 : Dword).toNat) = true)
    ∧ contextOk twoMoves false (hostData (holding twoMoves) hdr (0 : Dword).toNat (128 : Dword).toNat) = false :=
  ⟨⟨running_serves _ _, by decide, rfl⟩, ⟨running_inv _ _, rfl, rfl, rfl, by decide, rfl, awake_of rfl, rfl, rfl, by decide +kernel⟩,
    ⟨placed_inv (holding_inv _) _, ⟨serves_of rfl rfl rfl _, rfl⟩, rfl, by decide, rfl, rfl, rfl, by rw [hostData_context]; decide +kernel⟩, by decide +kernel⟩

/-! ### Witnesses: records -/

/-- A record that waits for hook 64, and one that signals it. -/
def hookPlan : Plan := { twoMoves with records := [{ recOf 11 false with a := 0, out := 1, waitHook := 64 },
  { recOf 11 true with a := 0, out := 1, signalHook := 64 }] }

theorem witness_recordDispatch :
    ((running hookPlan (freshRun hookPlan)).Inv ∧ ((running hookPlan (freshRun hookPlan)).slot 0).plan = some hookPlan
      ∧ ((running hookPlan (freshRun hookPlan)).slot 0).run = some (freshRun hookPlan) ∧ (freshRun hookPlan).ready hookPlan 0 = true
      ∧ (freshRun hookPlan).hookHeld hookPlan 0 = false ∧ (hookPlan.record 0).waitHook = 64
      ∧ ((running hookPlan (freshRun hookPlan)).hook 64).count = 0 ∧ ((running hookPlan (freshRun hookPlan)).hook 64).waiters = [])
    ∧ ((freshRun hookPlan).ready hookPlan 1 = true ∧ (freshRun hookPlan).hookHeld hookPlan 1 = true
      ∧ mayStart (running hookPlan (freshRun hookPlan)) 0 hookPlan (freshRun hookPlan) 1 = true) :=
  ⟨⟨running_inv _ _, by decide⟩, by decide⟩

/-- Record 1 in flight with its body done, before and after its release. -/
def doneRun (released : List Nat) : Run := { freshRun hookPlan with inFlight := [1], bodyDone := [1], released := released }

theorem witness_recordCompletion :
    (running hookPlan (doneRun [])).Inv ∧ ((running hookPlan (doneRun [])).slot 0).run = some (doneRun [])
    ∧ 1 ∈ (doneRun []).inFlight ∧ 1 ∈ (doneRun []).bodyDone ∧ (hookPlan.record 1).collective = false ∧ (doneRun []).active = true
    ∧ (doneRun []).landings.due = false
    ∧ (∃ rs, hookPlan.steps[(doneRun []).step]? = some rs ∧ ∃ k ∈ rs, k ≠ 1 ∧ (doneRun []).isDone hookPlan k = false)
    ∧ 64 ≤ (hookPlan.record 1).signalHook ∧ (hookPlan.record 1).signalHook < 4096
    ∧ ((running hookPlan (doneRun [])).hook (hookPlan.record 1).signalHook).waiters = []
    ∧ ((running hookPlan (doneRun [])).hook (hookPlan.record 1).signalHook).count.toNat < 0xFFFFFFFF
    ∧ CoresSound (running hookPlan (doneRun [])) ∧ (running hookPlan (doneRun [])).ecc = [] ∧ 1 ∉ (doneRun []).released ∧ 1 ∈ (doneRun [1]).released :=
  ⟨running_inv _ _, rfl, by decide, by decide, by decide, by decide, by decide, ⟨[0, 1], by decide, 0, by decide, by decide, by decide⟩, by decide,
    by decide, by decide, by decide, fun _ h => (nomatch h), rfl, by decide, by decide⟩

/-- One record of each opcode and mode, all in flight: PRODUCT, CONV, POOL, RESAMPLE, ELEMENTWISE, NORMALISE, ROTARY, DRAW, ATTEND, APPEND,
PFLUSH, LANE, SUM, MOVE. -/
def bodyPlan : Plan := { planOf [tensorOf 0 0 [4, 1, 1, 1, 1], tensorOf 0 4096 [4, 1, 1, 1, 1]]
  ([recOf 1 true, { recOf 2 true with mask := 2 ^ 60 }, { recOf 2 true with mask := 2 * 2 ^ 60 }, { recOf 2 true with mask := 3 * 2 ^ 60 },
    recOf 3 true, recOf 4 true, recOf 5 true, recOf 6 true, recOf 7 true, recOf 8 true, { recOf 8 true with stages := [2 ^ 62] },
    recOf 9 true, { recOf 10 true with aux0 := 1 }, recOf 11 true, { recOf 2 true with mask := 2 ^ 60 + 2 ^ 55 }].map
    (fun r => { r with a := 0, out := 1 })) with
  resource := ⟨2, 0, 0, 0, 0, 0, true⟩
  memberSets := [⟨1, [0xFFF]⟩] }
def bodyRun (summed : List Nat) : Run := { freshRun bodyPlan with inFlight := List.range 15, collectives := [⟨12, 0, 1, []⟩], summed := summed }
/-- The arrays of the home's core have carried out every instruction of the PRODUCT and CONV records. -/
def bodyState : State := { running bodyPlan (bodyRun []) with
  cores := [(0, { Core.reset with array := { MatArray.reset with issued := [(0, 0, 99), (0, 1, 99)] } })] }

/-- Whether a record's body is ready, and what its context shows. -/
def bodyB (s : State) (r op : Nat) (body : Ctx → Body) (f : Ctx → Run → Bool) : Bool :=
  match bodyDue s 0 r op with
  | some (c, q) => decide (s.ecc = []) && decide (s.glitches = []) && s.rails.all (fun x => x.2.rail != .gated) && (badCrates c (body c).reads).isEmpty
      && f c q
  | none => false

theorem body_of {s : State} {r op : Nat} {body : Ctx → Body} {f : Ctx → Run → Bool} (h : bodyB s r op body f = true) :
    ∃ c q, BodyReady s 0 r op c q (body c) ∧ f c q = true := by
  unfold bodyB at h
  split at h
  · next c q e =>
    simp only [Bool.and_eq_true, decide_eq_true_eq, List.isEmpty_iff, List.all_eq_true, bne_iff_ne] at h
    exact ⟨c, q, ⟨e, h.1.1.1.1, h.1.2, h.1.1.1.2, h.1.1.2⟩, h.2⟩
  · cases h

theorem witness_arrayBodies :
    (∃ c q, BodyReady bodyState 0 0 1 c q (productBody c) ∧ arrayDone c c.productIssues = true)
    ∧ (∃ c q, BodyReady bodyState 0 1 2 c q ⟨c.arrayOut, [], convParts c, clearArrays c.slot c.record⟩
      ∧ (decide (c.r.geometry.kind = 1) && !laneConv c.r && arrayDone c c.productIssues) = true)
    ∧ (∃ c q, BodyReady bodyState 0 14 2 c q (laneBody c)
      ∧ (decide (c.r.geometry.kind = 1) && laneConv c.r && laneGoes c) = true)
    ∧ (∃ c q, BodyReady bodyState 0 8 7 c q (attendBody c) ∧ arrayDone c c.attendIssues = true) :=
  ⟨body_of (by decide +kernel), body_of (by decide +kernel), body_of (by decide +kernel), body_of (by decide +kernel)⟩

theorem witness_recordBodies :
    (∃ c q, BodyReady bodyState 0 2 2 c q (poolBody c) ∧ decide (c.r.geometry.kind = 2) = true)
    ∧ (∃ c q, BodyReady bodyState 0 3 2 c q (resampleBody c) ∧ decide (c.r.geometry.kind = 3) = true)
    ∧ (∃ c q, BodyReady bodyState 0 4 3 c q (elementwiseBody c) ∧ true = true) ∧ (∃ c q, BodyReady bodyState 0 5 4 c q (normaliseBody c) ∧ true = true)
    ∧ (∃ c q, BodyReady bodyState 0 6 5 c q (rotaryBody c) ∧ true = true) ∧ (∃ c q, BodyReady bodyState 0 7 6 c q (drawBody c) ∧ true = true)
    ∧ (∃ c q, BodyReady bodyState 0 9 8 c q (appendBody c) ∧ decide (appMode c.r = 0) = true)
    ∧ (∃ c q, BodyReady bodyState 0 10 8 c q (pflushBody c) ∧ decide (appMode c.r = 1) = true)
    ∧ (∃ c q, BodyReady bodyState 0 11 9 c q (laneBody c) ∧ (!q.paused && q.saving.isNone && laneGoes c) = true)
    ∧ (∃ c q, BodyReady (running bodyPlan (bodyRun [12])) 0 12 10 c q ⟨[], [], wholePart c 0 c.r.a, Act.none⟩ ∧ q.summed.contains 12 = true)
    ∧ bodyState.Inv
    ∧ (∃ c q, BodyReady bodyState 0 12 10 c q ⟨sumAlone c, [], wholePart c 0 c.r.a, Act.none⟩
      ∧ (!q.summed.contains 12 && q.collectives.any (fun a => a.record == 12) && decide (sumMembers bodyState c.plan c.r = [deviceNumber bodyState]))
        = true) :=
  ⟨body_of (by decide +kernel), body_of (by decide +kernel), body_of (by decide +kernel), body_of (by decide +kernel), body_of (by decide +kernel),
    body_of (by decide +kernel), body_of (by decide +kernel), body_of (by decide +kernel), body_of (by decide +kernel), body_of (by decide +kernel),
    inv_of_ok rfl, body_of (by decide +kernel)⟩

theorem witness_moveLocal : bodyState.Inv ∧ bodyState.xfers = [] ∧ Awake bodyState
    ∧ ∃ c q, BodyReady bodyState 0 13 11 c q ⟨[], [], [], Act.none⟩
    ∧ (moveHere c c.r.a && moveHere c c.r.out && decide ((c.plan.tensor c.r.a).comp = 0) && !(c.plan.tensor c.r.a).scaled) = true :=
  ⟨inv_of_ok rfl, rfl, awake_of (by decide), body_of (body := fun _ => ⟨[], [], [], Act.none⟩) (by decide +kernel)⟩

/-- A PRODUCT of E4M3 rows with K of 300, two chunks. -/
def productPlan : Plan := planOf [tensorOf 3 0 [300, 1, 1, 1, 1], tensorOf 3 8192 [300, 1, 1, 1, 1], tensorOf 0 16384 [1, 1, 1, 1, 1]]
  [{ recOf 1 true with a := 0, b := 1, out := 2 }]
def productRun : Run := { freshRun productPlan with inFlight := [0] }
def productState : State := running productPlan productRun

/-- Its first block, and a fault in its first product. -/
def block0 : BlockId := ⟨0, 0, 0, 0, 0, false⟩
def upset : List Upset := [⟨0, 0, 0, 1⟩]

/-- Whether an instruction is the array's next, and how its two passes end. -/
def issueB (s : State) (id : BlockId) (u again : List Upset) (f : Bool → Bool → Bool) : Bool :=
  match nextIssue s 0 id.slot id.record id with
  | none => false
  | some (c, v) =>
    let tile := (((s.core 0).array.shadow.filter (fun t => decide (t.block = id))).getD (v.load id))
    let carry := (s.core 0).array.carryOf v.flow id
    f (v.pass c.masksB tile carry u).2 (v.pass c.masksB tile carry again).2

theorem issue_of {s : State} {id : BlockId} {u again : List Upset} {f : Bool → Bool → Bool} (h : issueB s id u again f = true) :
    ∃ c v, nextIssue s 0 id.slot id.record id = some (c, v) ∧
      let tile := (((s.core 0).array.shadow.filter (fun t => decide (t.block = id))).getD (v.load id))
      let carry := (s.core 0).array.carryOf v.flow id
      f (v.pass c.masksB tile carry u).2 (v.pass c.masksB tile carry again).2 = true := by
  unfold issueB at h
  split at h
  · cases h
  · next c v e => exact ⟨c, v, e, h⟩

theorem test_array_passes : issueB productState block0 [] [] (fun p _ => p) = true := by decide +kernel
theorem test_array_repeats : issueB productState block0 upset [] (fun p a => !p && a) = true := by decide +kernel
theorem test_array_escapes : issueB productState block0 upset upset (fun p a => !p && !a) = true := by decide +kernel

/-- A LIVE plan in slot 1 beside the BULK record that owns the array, which has carried a block's sum to the second k-chunk. -/
def livePlan : Plan := { productPlan with cls := 0 }
def liveState : State := { productState with
  slots := [(0, { Slot.reset with plan := some productPlan, run := some productRun }),
    (1, { Slot.reset with plan := some livePlan, run := some productRun })]
  cores := [(0, { Core.reset with array := { MatArray.reset with
    owner := some (0, 0)
    carry0 := some ({ block0 with kchunk := 1 }, [Acc.zero])
    issued := [(0, 0, 1)] } })] }

theorem witness_arrayAndPreemption :
    productState.Inv ∧ coreIx ⟨0, 0⟩ = 0 ∧ (∃ c v, nextIssue productState 0 0 0 block0 = some (c, v))
    ∧ ((recordCtx liveState 1 0).any (fun x => decide (x.1.plan.cls = 0) && x.2.inFlight.contains 0 && !x.2.bodyDone.contains 0
        && ((x.1.issues 0)[(liveState.core 0).array.count 1 0]?).isSome) = true)
    ∧ liveState.Inv ∧ (liveState.core 0).array.owner = some (0, 0) ∧ slotClass liveState 0 ≠ 0 ∧ (liveState.core 0).live = none
    ∧ (liveState.core 0).escaped = false ∧ (∀ x ∈ [Acc.zero], x.fp.isSome = true → x.int = 0) := by
  obtain ⟨c, v, h, -⟩ := issue_of test_array_passes
  exact ⟨inv_of_ok rfl, rfl, ⟨c, v, h⟩, by decide +kernel, inv_of_ok rfl, by decide⟩

/-! ### Witnesses: restarts, landings, periods -/

/-- A run on core 0, of this device and device 1, which port 7 reaches. -/
def pairPlan : Plan := { twoMoves with memberSets := [⟨0, [0, 1]⟩] }
def pairDomain : Domain := ⟨1, 2, 1, 0, 0, [0, 1]⟩
def pairState : State := { running pairPlan (freshRun pairPlan) with
  cores := [(0, { Core.reset with busy := [(0, 0)], escaped := true })]
  member := some pairDomain
  links := [(7, { Link.reset with enable := true, state := .up })] }

theorem witness_jobRestarts :
    pairState.Inv ∧ (pairState.slot 0).plan = some pairPlan ∧ (pairState.slot 0).run = some (freshRun pairPlan)
    ∧ degradedCase pairState pairPlan = none ∧ (freshRun pairPlan).consecutive < 3 ∧ (∀ x ∈ pairState.cores, x.2.condemned = false ∧ x.2.failed = false)
    ∧ pairPlan.landing.every = 0 ∧ resumeCopies pairPlan (freshRun pairPlan) = [] ∧ pairState.paired = false ∧ (freshRun pairPlan).active = true
    ∧ StepOpen pairPlan { freshRun pairPlan with step := 0, completed := [] }
    ∧ (causeHits pairState 0 pairPlan (freshRun pairPlan) (.core ⟨0, 0⟩ true) = true ∧ (∀ c, FaultCause.core ⟨0, 0⟩ true ≠ .core c false)
      ∧ (∀ a, FaultCause.core ⟨0, 0⟩ true ≠ .landingWord a false) ∧ ∀ i c, FaultCause.core ⟨0, 0⟩ true ≠ .landingCrate i c false)
    ∧ (pairState.ecc = [] ∧ Awake pairState ∧ (freshRun pairPlan).pauses = [] ∧ (freshRun pairPlan).saving = none
      ∧ (freshRun pairPlan).hdr.signal = false ∧ pairState.hooks = [])
    ∧ (pairPlan.peers pairState).contains (1 : BitVec 12).toNat = true ∧ (0 : BitVec 12).toNat = deviceNumber pairState
    ∧ (2 : BitVec 12).toNat ≠ deviceNumber pairState :=
  ⟨inv_of_ok rfl, rfl, rfl, by decide, by decide, by decide, by decide, by decide, by decide, by decide, open_of (by decide),
    ⟨by decide, fun _ h => (by cases h), fun _ h => (by cases h), fun _ _ h => (by cases h)⟩, ⟨rfl, awake_of (by decide), by decide⟩,
    by decide⟩

/-- A plan with a landing after each step, and its landing due, copying, and over. -/
def landPlan : Plan := { twoMoves with landing := ⟨1, 65536, 131072, 65536, [], true⟩ }
def landRun (copying due : Bool) : Run := { freshRun landPlan with landings := { (freshRun landPlan).landings with copying := copying, due := due } }

theorem witness_landings :
    ((running landPlan (landRun false true)).Inv ∧ (running landPlan (landRun false true)).ecc = [] ∧ landPlan.keys (running landPlan (landRun false true)) = []
      ∧ landingMay landPlan (landRun false true) = true ∧ landPlan.peers (running landPlan (landRun false true)) = []
      ∧ (running landPlan (landRun false true)).paired = false ∧ (landRun false true).landings.notices = []
      ∧ StepOpen landPlan (landRun false true))
    ∧ ((running landPlan (landRun true false)).Inv ∧ (landRun true false).landings.copying = true)
    ∧ (landRun false false).landings.waiting = none ∧ Awake (running landPlan (landRun false true)) :=
  ⟨⟨running_inv _ _, rfl, by decide, by decide, by decide, by decide, by decide, open_of (by decide)⟩, ⟨running_inv _ _, rfl⟩, rfl, awake_of (by decide)⟩

/-- A run bound to a source, idle. -/
def boundRun (src : Fin 8) (pending : List Period) : Run :=
  { newRun (holding twoMoves) hdr 0 (some src) with pending := pending }

theorem witness_marksAdvance :
    ((running twoMoves (boundRun 4 [])).Inv ∧ Serves (running twoMoves (boundRun 4 [])) false ∧ 4 ≤ (4 : Byte).toNat ∧ (7 : Byte).toNat ≤ 7
      ∧ ((running twoMoves (boundRun 4 [])).slot 0).plan = some twoMoves ∧ ((running twoMoves (boundRun 4 [])).slot 0).run = some (boundRun 4 [])
      ∧ (boundRun 4 []).src = some (Fin.ofNat 8 (4 : Byte).toNat) ∧ (boundRun 4 []).paused = false ∧ (boundRun 4 []).pending = [])
    ∧ ((running twoMoves (boundRun 3 [])).Inv ∧ clocked (running twoMoves (boundRun 3 [])) = true ∧ (running twoMoves (boundRun 3 [])).paired = false
      ∧ ((running twoMoves (boundRun 3 [])).slot 0).run = some (boundRun 3 []) ∧ (boundRun 3 []).src = some (Fin.ofNat 8 (3 : Fin 4).val))
    ∧ (4 ≤ 4 ∧ (3 < 4 ∨ 4 < 4)) :=
  ⟨⟨running_inv _ _, running_serves _ _, by decide⟩, ⟨running_inv _ _, by decide⟩, by decide⟩

theorem witness_periodStarts :
    (running twoMoves (boundRun 0 [⟨1, false⟩])).Inv ∧ ((running twoMoves (boundRun 0 [⟨1, false⟩])).slot 0).run = some (boundRun 0 [⟨1, false⟩])
    ∧ (boundRun 0 [⟨1, false⟩]).pending = ⟨1, false⟩ :: [] ∧ (boundRun 0 [⟨1, false⟩]).src.isSome = true ∧ (boundRun 0 [⟨1, false⟩]).active = false
    ∧ (boundRun 0 [⟨1, false⟩]).paused = false ∧ (boundRun 0 [⟨1, false⟩]).saving = none ∧ twoMoves.steps ≠ []
    ∧ startSchedule (running twoMoves (boundRun 0 [⟨1, false⟩])) 0 (boundRun 0 [⟨1, false⟩]) = some (boundRun 0 [⟨1, false⟩]).schedule
    ∧ (running twoMoves (boundRun 0 [⟨1, false⟩])).twin = Twin.reset
    ∧ StepOpen twoMoves { boundRun 0 [⟨1, false⟩] with
        step := 0
        completed := []
        tier := 3 }
    ∧ landPlan.landing.every ≠ 0 :=
  ⟨running_inv _ _, rfl, rfl, rfl, rfl, rfl, rfl, by decide, by decide, rfl, open_of (by decide), by decide⟩

/-! ### Witnesses: numbers -/

theorem witness_formatsRoundTrip : 0x7E < 2 ^ Fmt.e4m3.width ∧ decode .e4m3 0x7E ≠ .nan ∧ 0xF < 2 ^ Fmt.e2m1.width ∧ decode .e2m1 0xF ≠ .nan
    ∧ 0x80 < 2 ^ Fmt.int8.width ∧ decode .int8 0x80 ≠ .nan := by decide

theorem witness_roundsToNearest :
    Fmt.e2m1.isFloat = true ∧ 2 < 2 ^ Fmt.e2m1.width ∧ (decode .e2m1 2).isFin = true ∧ (convert .e2m1 .rne 0 false (.fin false 5 (-2))).sat = false
    ∧ (((FV.fin false 5 (-2)).sub (decode .e2m1 (convert .e2m1 .rne 0 false (.fin false 5 (-2))).code)).abs).eq
        (((FV.fin false 5 (-2)).sub (decode .e2m1 3)).abs) = true
    ∧ (decode .e2m1 (convert .e2m1 .rne 0 false (.fin false 5 (-2))).code).eq (decode .e2m1 3) = false := by decide

theorem witness_uniformValue : (0x7FFFFFFFFFFFFFFF : Dword).toNat / 2 ^ 40 < 2 ^ 23 ∧ 2 ^ 23 ≤ (0x8000000000000000 : Dword).toNat / 2 ^ 40
    ∧ (7 : Fin 64).val / 4 = 1 := by decide

theorem witness_bernoulliDraw : (8 : Fin 64).val / 4 = 2 ∧ FV.one.le (f32Val 0x3F800000) = true
    ∧ (f32Val 0x33000000).le (.fin false 1 (-25)) = true ∧ (f32Val 0x7FC00000).isNan = true := by decide

/-- A tensor with block scales. -/
def scaledTensor : Tensor := { tensorOf 3 0 [4, 1, 1, 1, 1] with scale := 1 }

theorem witness_exactAccumulator : scaledTensor.scaled = true ∧ 1 ≠ 0
    ∧ ({ Acc.zero with nan := true } : Acc).nan = true ∧ ({ Acc.zero with pinf := true, ninf := true } : Acc).ninf = true
    ∧ (Acc.zero.nan = false ∧ Acc.zero.pinf = false ∧ Acc.zero.ninf = false) := by decide

/-- The context of a record, if there is one. -/
def someCtx : Ctx := ⟨productState, 0, productPlan, 0, productPlan.record 0, 5, .standard⟩

theorem witness_unscaledProductsExact :
    (Fmt.e5m2 ∈ [Fmt.e4m3, .e5m2, .e2m1, .int8, .int4] ∧ 0x7B < 2 ^ Fmt.e5m2.width ∧ (decode .e5m2 0x7B).isFin = true
      ∧ (decode .e5m2 0x7B).isZero = false)
    ∧ ((someCtx.plan.tensor someCtx.r.a).scaled = false ∧ (someCtx.plan.tensor 1).scaled = false)
    ∧ ((laneEnv State.reset 0).ctx.plan.tensor (laneEnv State.reset 0).ctx.r.a).scaled = false
    ∧ ((laneEnv State.reset 0).ctx.plan.tensor (laneEnv State.reset 0).ctx.r.b).scaled = false := by decide

theorem witness_exactSums : [FV.one, FV.zero].Perm [FV.zero, FV.one] ∧ 0 ≤ 256 ∧ 256 ≤ 600 :=
  ⟨List.Perm.swap _ _ _, by decide, by decide⟩

/-! ### Witnesses: lanes -/

/-- Lanes 0 and 1 of core 0. -/
def lane0 : LaneId := ⟨⟨0, 0⟩, 0⟩
def lane1 : LaneId := ⟨⟨0, 0⟩, 1⟩

theorem witness_laneIntegers : State.reset.Inv ∧ Tab.wf 0 (State.reset.laneOf lane0).regs = true ∧ lane1 ≠ lane0 := ⟨inv_of_ok (by decide), by decide⟩

-- R174: IMULH keeps the upper half of the signed product; SAR fills with the sign; ICMPLT is signed.
def laned (l : Lane) : State := { State.reset with lanes := [(0, l)] }
def withRegs (x y : Word) : State := laned { Lane.reset with regs := [(1, x), (2, y)] }
/-- Register 3 of lane 0 after a command. -/
def reg3 (i : Instr) (s : State) : Word := match exec i s with
  | .next t => t.reg lane0 3
  | _ => 0

theorem test_iadd_wraps : reg3 (.iadd lane0 3 1 2) (withRegs 0xFFFFFFFF 2) = 1 := by decide
theorem test_imulh : reg3 (.imulh lane0 3 1 2) (withRegs 0xFFFFFFFF 0xFFFFFFFF) = 0 ∧ reg3 (.imulh lane0 3 1 2) (withRegs 0x80000000 2) = 0xFFFFFFFF := by
  decide
theorem test_sar : reg3 (.sar lane0 3 1 2) (withRegs 0x80000000 33) = 0xC0000000 := by decide
theorem test_icmplt : reg3 (.icmplt lane0 3 1 2) (withRegs 0xFFFFFFFF 0) = 1 := by decide
-- R46: 1.0 + 1.0 is 2.0; R40: a NaN gives the canonical NaN; +∞ − ∞ is NaN.
theorem test_fadd : reg3 (.fadd lane0 3 1 2) (withRegs 0x3F800000 0x3F800000) = 0x40000000 := by decide +kernel
theorem test_fsub_infinities : reg3 (.fsub lane0 3 1 2) (withRegs 0x7F800000 0x7F800000) = 0x7FC00000 := by decide +kernel
theorem test_fneg_nan : reg3 (.fneg lane0 3 1) (withRegs 0x7F800001 0) = 0x7FC00000 := by decide +kernel
theorem test_row_register_kept : (match exec (.iadd lane0 48 1 2) (withRegs 1 2) with
  | .next t => t.reg lane0 48
  | _ => 1) = 0 := by decide

/-- A lane program of one load slot and one store slot, and a unit of it on lane 0. -/
def lanePlan : Plan := { planOf [tensorOf 0 0 [64, 1, 1, 1, 1], tensorOf 0 4096 [64, 1, 1, 1, 1]] [{ recOf 9 true with program := 0 }] with
  programs := [⟨1, 1, 64, 1, [2 ^ 19, 2 ^ 19 + 2 ^ 18 + 1, 0, 0, 0, 0, 0, 0], 0, List.replicate 64 0, [0], true⟩] }
def laneRun : Run := { freshRun lanePlan with inFlight := [0] }
def unitState (elem : Nat) (ended : Bool) (partials : List (Nat × Reduce × Partial)) : State :=
  { running lanePlan laneRun with lanes := [(0, { Lane.reset with
    busy := true
    elem := elem
    ended := ended
    partials := partials })] }

/-- A convolution on the lane path, of one row of four outputs and three channels, with a unit of it on lane 0. -/
def convPlan : Plan := planOf [tensorOf 3 0 [4, 1, 1, 2, 1], tensorOf 3 4096 [1, 1, 1, 2, 3], tensorOf 3 8192 [4, 1, 1, 3, 1]]
  [{ recOf 2 true with
    a := 0
    b := 1
    out := 2
    mask := 2 ^ 60 + 2 ^ 55 + 2 ^ 32 + 0x01010100
    stages := [2 ^ 40 + 2 ^ 48 + 2 ^ 56 + 2 ^ 16 + 2 ^ 24 + 2 ^ 32, 0, 0, 0, 0, 0, 0, 0] }]
def convState : State := { running convPlan { freshRun convPlan with inFlight := [0] } with lanes := [(0, { Lane.reset with busy := true })] }

theorem witness_laneConversions :
    (cvtFmt ((3 : Fin 64).val / 4) = some .fp32 ∧ cvtFmt ((20 : Fin 64).val / 4) = some .e2m1
      ∧ Rnd.ofCode ((0 : Fin 64).val % 4 * 2 + (20 : Fin 64).val / 2 % 2) = some .rne)
    ∧ (sfnIn (0 : Fin 64).val = some .fp32 ∧ sfnOut (0 : Fin 64).val = some .bf16 ∧ sfCodes.contains (0x18 : Fin 64).val = true)
    ∧ ((3 : Fin 64).val / 4 = 0 ∧ (15 : Fin 64).val / 4 = 3 ∧ (16 : Fin 64).val / 4 = 4)
    ∧ ((laneEnv State.reset 0).ctx.plan.tensor (laneEnv State.reset 0).ctx.r.out).rnd ≠ .sr
    ∧ (laneEnv State.reset 0).conv = none
    ∧ ((laneEnv convState 0).conv.any (fun c => decide ((convState.laneOf lane0).kpos < c.p.k)) = true
      ∧ Tab.wf 0 (convState.laneOf lane0).regs = true) := by decide

theorem witness_laneLoadsAndStores :
    slotUsed ((laneEnv (unitState 0 false []) 0).prog.slots.getD ((4 : Fin 64).val / 8) 0) = true
    ∧ slotStore ((laneEnv (unitState 0 false []) 0).prog.slots.getD ((4 : Fin 64).val / 8) 0) = false
    ∧ slotUsed ((laneEnv (unitState 0 false []) 0).prog.slots.getD ((11 : Fin 64).val / 8) 0) = true
    ∧ slotStore ((laneEnv (unitState 0 false []) 0).prog.slots.getD ((11 : Fin 64).val / 8) 0) = true ∧ (11 : Fin 64).val % 8 < 4 := by decide

theorem witness_laneReductionsAndEnds :
    (∀ x ∈ ((unitState 0 false []).laneOf lane0).partials, x.1 ≠ (48 : Reg).val)
    ∧ (∀ k : Reduce, (∃ x ∈ ((unitState 0 false [(48, k, ⟨1, 0, 0⟩)]).laneOf lane0).partials, x.1 = (48 : Reg).val)
      ∧ ∀ x ∈ ((unitState 0 false [(48, k, ⟨1, 0, 0⟩)]).laneOf lane0).partials, x.1 = (48 : Reg).val → x.2.1 = k)
    ∧ (((unitState 30 false []).laneOf lane0).busy = true
      ∧ ((unitState 30 false []).laneOf lane0).elem + 1 < min (32 * (((unitState 30 false []).laneOf lane0).elem / 32 + 1))
        (laneEnv (unitState 30 false []) (laneIx lane0)).prog.l)
    ∧ (((unitState 31 false []).laneOf lane0).busy = true
      ∧ min (32 * (((unitState 31 false []).laneOf lane0).elem / 32 + 1)) (laneEnv (unitState 31 false []) (laneIx lane0)).prog.l
        ≤ ((unitState 31 false []).laneOf lane0).elem + 1)
    ∧ ((unitState 31 true []).Inv ∧ CoresSound (unitState 31 true []) ∧ ((unitState 31 true []).laneOf lane0).busy = true ∧ ((unitState 31 true []).laneOf lane0).ended = true
      ∧ ((unitState 31 true []).core (coreIx lane0.core)).escaped = false
      ∧ ((unitState 31 true []).core (coreIx lane0.core)).laneRuns = [])
    ∧ (pairState.core (coreIx lane0.core)).escaped = true := by
  refine ⟨by decide, fun k => ?_, by decide, by decide, ⟨inv_of_ok rfl, fun _ h => (nomatch h), by decide⟩, by decide⟩
  cases k <;> decide

/-! ### Witnesses: streams -/

/-- A stream descriptor (R360): HEVC Main at 64 by 64, live, two short-term references, of a direction and a hub. -/
def streamBytes (dir : Nat) : List Byte :=
  toLE 2 1 ++ toLE 1 dir ++ toLE 1 0 ++ toLE 1 1 ++ toLE 1 30 ++ toLE 1 0 ++ toLE 1 8 ++ toLE 2 64 ++ toLE 2 64 ++ toLE 1 0 ++ toLE 1 0xFF ++ toLE 1 1
    ++ toLE 1 0 ++ toLE 4 1000 ++ toLE 1 0 ++ toLE 1 0 ++ toLE 1 0 ++ toLE 1 2 ++ toLE 4 1000 ++ toLE 4 0 ++ toLE 4 10000 ++ toLE 2 30 ++ toLE 2 0
    ++ toLE 2 51 ++ toLE 2 0 ++ toLE 2 4 ++ toLE 2 0xFFFF ++ toLE 8 0 ++ toLE 8 4096 ++ toLE 4 65536 ++ toLE 4 0 ++ toLE 8 8 ++ toLE 4 0 ++ toLE 8 0
    ++ toLE 36 0

theorem streamBytes_length : (streamBytes 0).length = 128 := by decide +kernel
theorem hostData_stream (s : State) : hostData (placed s (streamBytes 0)) hdr 0 128 = streamBytes 0 := by
  have := hostData_placed s (streamBytes 0)
  rwa [streamBytes_length] at this

/-- An open stream in index 0, of a direction; and 1,024 buffers taken, or an engine's load. -/
def openStream (dir : Nat) : Stream := { Stream.reset with
  opened := true
  desc := { parseStream (streamBytes dir) with signal := 0xFFFF }
  engine := some 0
  wK := [1]
  wI := [1] }
def streaming (v : Stream) : State := { enabled with
  ports := [(0, { Port.reset with busMaster := true })]
  streams := [(0, v)] }
def crowded : State := streaming { openStream 0 with desc := { parseStream (streamBytes 0) with buffers := 1021 } }
def loaded : State := { streaming { openStream 0 with desc := { parseStream (streamBytes 0) with rateKpix := 2000000 } } with
  engines := (List.range 15).map (fun e => (e + 1, { Engine.reset with sheeted := true })) }

theorem streaming_serves (v : Stream) : Serves (streaming v) false := serves_of rfl rfl rfl _

/-- What STREAM_OPEN needs of a state whose first free index is `i`, with its descriptor's engine `e`. -/
def opensB (s : State) (e i : Nat) : Bool :=
  let d := parseStream (streamBytes 0)
  streamOk (streamBytes 0) && rangeOk s d.rackBase (d.buffers * d.bufferBytes) && decide (d.rackBase + d.buffers * d.bufferBytes ≤ cellarEnd)
    && !rackRefused s d && decide (leastLoaded s (d.engines s) = some e) && decide (i < 256) && !(s.stream i).opened
    && (List.range i).all (fun j => (s.stream j).opened)

theorem witness_streamOpen :
    ((127 : Word).toNat ≠ 128 ∧ dmaStopped enabled hdr = false ∧ dmaStopped (placed enabled (streamBytes 0)) hdr = false)
    ∧ ((placed enabled (streamBytes 0)).Inv ∧ Serves (placed enabled (streamBytes 0)) false ∧ (128 : Word).toNat = 128
      ∧ hostData (placed enabled (streamBytes 0)) hdr (0 : Dword).toNat 128 = streamBytes 0 ∧ opensB (placed enabled (streamBytes 0)) 0 0 = true
      ∧ rackUsed (placed enabled (streamBytes 0)) + (parseStream (streamBytes 0)).buffers ≤ 1024
      ∧ engineLoad (placed enabled (streamBytes 0)) 0 + (parseStream (streamBytes 0)).rateKpix ≤ 2000000)
    ∧ (opensB (placed crowded (streamBytes 0)) 1 1 = true ∧ 1024 < rackUsed (placed crowded (streamBytes 0)) + (parseStream (streamBytes 0)).buffers)
    ∧ (opensB (placed loaded (streamBytes 0)) 0 1 = true ∧ (parseStream (streamBytes 0)).cls = 0
      ∧ 2000000 < engineLoad (placed loaded (streamBytes 0)) 0 + (parseStream (streamBytes 0)).rateKpix) :=
  ⟨by decide, ⟨placed_inv enabled_inv _, serves_of rfl rfl rfl _, by decide, hostData_stream _, by decide +kernel, by decide +kernel, by decide +kernel⟩,
    by decide +kernel, by decide +kernel⟩

/-- Submit blocks (R363, R364): the encode one has planes at 0x10000, 0x20000 and 0x30000. -/
def encodeBlock : List Byte :=
  toLE 2 1 ++ toLE 6 0 ++ toLE 8 0x10000 ++ toLE 8 0x20000 ++ toLE 8 0x30000 ++ toLE 4 128 ++ toLE 4 64 ++ toLE 24 0
def decodeBlock : List Byte := toLE 2 1 ++ toLE 2 0 ++ toLE 4 16 ++ toLE 8 4096 ++ toLE 48 0
/-- A submit of the stream. -/
def submit (frame : Word) : Submit := ⟨hdr, 0, 0, [0x10000, 0x20000, 0x30000], [128, 64, 64], 0, 0, 0, frame, false, none, false⟩
def fullQueue : Stream := { openStream 0 with queue := List.replicate 16 (submit 0) }
/-- The frame in flight. -/
def codedFrame (coding : Bool) : Frame := ⟨submit 0, 3, true, 0, coding, 0, 30, 1000, [], 0, 0, 0, 0, 0, 0, none⟩
def framed (coding : Bool) : Stream := { openStream 0 with frame := some (codedFrame coding) }

theorem encodeBlock_length : encodeBlock.length = 64 := by decide +kernel
theorem decodeBlock_length : decodeBlock.length = 64 := by decide +kernel
theorem hostData_encode (s : State) : hostData (placed s encodeBlock) hdr 0 64 = encodeBlock := by
  have := hostData_placed s encodeBlock
  rwa [encodeBlock_length] at this
theorem hostData_decode (s : State) : hostData (placed s decodeBlock) hdr 0 64 = decodeBlock := by
  have := hostData_placed s decodeBlock
  rwa [decodeBlock_length] at this

/-- A compressed tensor of a loaded plan, and a sealed region, that hold the planes. -/
def cratePlanes : State := { streaming (openStream 0) with
  slots := [(0, { Slot.reset with plan := some (planOf [{ tensorOf 8 0x10000 [512, 1, 1, 1, 1] with comp := 1 }] []) })] }
def sealedPlanes : State := { streaming (openStream 0) with
  regions := [(0, some ⟨0x10000, 65536, 4, 0⟩)]
  keys := [(0, some key0)] }

theorem witness_streamSubmit :
    (namesCrate cratePlanes ((planesOf (openStream 0).desc encodeBlock).map (fun x => (x.1, planeSpan x))) = true
      ∧ namesCrate sealedPlanes ((planesOf (openStream 0).desc encodeBlock).map (fun x => (x.1, planeSpan x))) = false
      ∧ planesSealedOk sealedPlanes (openStream 0).desc (planesOf (openStream 0).desc encodeBlock) = false
      ∧ namesCrate (streaming (openStream 0)) ((planesOf (openStream 0).desc encodeBlock).map (fun x => (x.1, planeSpan x))) = false)
    ∧ ((streaming fullQueue).Inv ∧ Serves (streaming fullQueue) false ∧ (64 : Word).toNat = 64
      ∧ ((streaming fullQueue).stream 0).opened = true ∧ ((streaming fullQueue).stream 0).closing = none
      ∧ streamId 0 ((streaming fullQueue).stream 0) = (0 : Word).toNat ∧ ((streaming fullQueue).stream 0).engine.isSome = true
      ∧ 16 ≤ ((streaming fullQueue).stream 0).queue.length)
    ∧ (hostData (placed (streaming (openStream 0)) encodeBlock) hdr (0 : Dword).toNat 64 = encodeBlock
      ∧ ((placed (streaming (openStream 0)) encodeBlock).stream 0).queue.length < 16 ∧ (openStream 0).desc.dir = 0 ∧ fieldLE encodeBlock 0 2 = 1
      ∧ fieldLE encodeBlock 2 1 ≤ 7 ∧ fieldLE encodeBlock 3 1 ≤ 7 ∧ allZero (slice encodeBlock 4 4) = true ∧ allZero (slice encodeBlock 48 16) = true
      ∧ (planesOf (openStream 0).desc encodeBlock).all planeOk = true
      ∧ (planesOf (openStream 0).desc encodeBlock).all
        (fun x => rangeOk (placed (streaming (openStream 0)) encodeBlock) x.1 (planeSpan x)) = true
      ∧ planesSealedOk (placed (streaming (openStream 0)) encodeBlock) (openStream 0).desc (planesOf (openStream 0).desc encodeBlock) = true)
    ∧ (hostData (placed (streaming (openStream 1)) decodeBlock) hdr (0 : Dword).toNat 64 = decodeBlock ∧ (openStream 1).desc.dir = 1
      ∧ ((placed (streaming (openStream 1)) decodeBlock).stream 0).queue.length < 16 ∧ fieldLE decodeBlock 0 2 = 1 ∧ fieldLE decodeBlock 2 1 ≤ 1
      ∧ fieldLE decodeBlock 3 1 = 0 ∧ allZero (slice decodeBlock 24 40) = true) :=
  ⟨by decide +kernel, ⟨inv_of_ok (by decide +kernel), streaming_serves _, by decide +kernel⟩, ⟨hostData_encode _, by decide +kernel⟩, ⟨hostData_decode _, by decide +kernel⟩⟩

/-- A record for the ring. -/
def outRec : OutRec := ⟨0, 0, 0, 0, 3, [1, 2, 3], 0, 0, 0⟩

theorem witness_streamCommands :
    ((streaming (openStream 0)).Inv ∧ Serves (streaming (openStream 0)) false ∧ ((streaming (openStream 0)).stream 0).opened = true
      ∧ ((streaming (openStream 0)).stream 0).closing = none ∧ streamId 0 ((streaming (openStream 0)).stream 0) = (0 : Word).toNat
      ∧ ((streaming (openStream 0)).stream 0).queue = [] ∧ (∀ x ∈ (streaming (openStream 0)).engines, 0 ∉ x.2.ready)
      ∧ ((streaming (openStream 0)).stream 0).frame = none ∧ ((streaming (openStream 0)).stream 0).out = [])
    ∧ ((streaming (framed true)).Inv ∧ ((streaming (framed true)).stream 0).queue = [] ∧ ((streaming (framed true)).stream 0).frame.isSome = true
      ∧ (streaming { openStream 0 with out := [outRec] }).Inv ∧ (openStream 0).desc.dir = 0
      ∧ ((streaming { openStream 0 with out := [outRec] }).stream 0).out ≠ [] ∧ (openStream 1).desc.dir ≠ 0 ∧ (streaming (openStream 1)).Inv)
    ∧ ((streaming (openStream 0)).stream 1).opened = false
    ∧ ((streaming { openStream 0 with closing := some hdr }).stream 0).closing.isSome = true
    ∧ streamId 0 ((streaming (openStream 0)).stream 0) ≠ (256 : Word).toNat
    ∧ (¬ qpRange (openStream 0).desc.codec (openStream 0).desc.bitDepth (signed 16 (52 : Half).toNat) = true
      ∧ qpRange (openStream 0).desc.codec (openStream 0).desc.bitDepth (signed 16 (0 : Half).toNat) = true
      ∧ qpRange (openStream 0).desc.codec (openStream 0).desc.bitDepth (signed 16 (51 : Half).toNat) = true
      ∧ signed 16 (0 : Half).toNat ≤ signed 16 (51 : Half).toNat)
    ∧ ((openStream 0).tier = 3 ∧ ((7 : Byte).toNat ≤ 7 ∧ (openStream 0).desc.cls ≠ 2) ∧ 1 ≤ (8 : Byte).toNat ∧ (8 : Byte).toNat ≤ 8)
    ∧ ((openStream 0).desc.buffers ≤ (4 : Half).toNat ∧ (3 : Half).toNat < (openStream 0).desc.buffers) :=
  ⟨⟨inv_of_ok (by decide +kernel), streaming_serves _, by decide +kernel⟩, ⟨inv_of_ok (by decide +kernel), by decide +kernel, by decide +kernel, inv_of_ok (by decide +kernel), by decide +kernel, by decide +kernel,
      by decide +kernel, inv_of_ok (by decide +kernel)⟩, by decide +kernel⟩

/-- A buffer's tags where none is free. -/
def noBuffer : Stream := { openStream 0 with
  queue := [submit 0]
  buffers := (List.range 4).map (fun b => (b, { Tags.none with hold := true })) }
def coding : State := { streaming (framed true) with engines := [(0, { Engine.reset with ready := [0] })] }

theorem witness_frames :
    ((streaming { openStream 0 with queue := [submit 0] }).Inv ∧ ({ openStream 0 with queue := [submit 0] } : Stream).opened = true
      ∧ (openStream 0).out = [] ∧ (openStream 0).engine = some 0 ∧ engineOpen (streaming { openStream 0 with queue := [submit 0] }) (0 : Fin 16).val = true
      ∧ (openStream 0).frame = none ∧ (openStream 0).desc.dir = 0 ∧ ({ openStream 0 with queue := [submit 0] } : Stream).freeBuffer = some 0
      ∧ (openStream 0).desc.bframes = 0 ∧ (({ openStream 0 with queue := [submit 0] } : Stream).takeCoded.map (·.1)) = some (submit 0)
      ∧ ({ openStream 0 with queue := [submit 0] } : Stream).startsKey (submit 0) = true)
    ∧ ((streaming noBuffer).Inv ∧ noBuffer.freeBuffer = none ∧ noBuffer.queue = submit 0 :: [])
    ∧ ((streaming { openStream 1 with queue := [submit 0] }).ecc = [] ∧ (openStream 1).desc.dir = 1 ∧ dmaStopped (streaming { openStream 1 with queue := [submit 0] }) (submit 0).hdr = false
      ∧ dmaStopped { streaming { openStream 1 with queue := [submit 0] } with ports := [(0, { Port.reset with d3hot := true })] } (submit 0).hdr = true
      ∧ bit (submit 0).flags 1 = false ∧ bit ({ submit 0 with flags := 2 } : Submit).flags 1 = true ∧ engineOpen (streaming { openStream 1 with queue := [submit 0] }) (0 : Fin 16).val = true)
    ∧ (coding.Inv ∧ engineOpen coding (0 : EngineId).val = true ∧ (coding.rail (srcEngine (0 : EngineId).val)).rail ≠ .gated
      ∧ pickRow coding (servable coding (0 : EngineId).val) = some 0 ∧ (coding.stream 0).frame = some (codedFrame true)
      ∧ (coding.stream 0).desc.dir = 0 ∧ (coding.stream 0).desc.unitEnds (codedFrame true).row = true ∧ flightTouches coding = [])
    ∧ ((streaming { openStream 0 with out := [outRec] }).Inv ∧ (openStream 0).closing = none ∧ outputRuns (streaming { openStream 0 with out := [outRec] }) (0 : PortId).val = true
      ∧ bit outRec.flags 4 = false ∧ skipBytes { openStream 0 with out := [outRec] } outRec = 0
      ∧ hasRoom { openStream 0 with out := [outRec] } outRec = true
      ∧ hasRoom { openStream 0 with out := [outRec], produced := 65536 } outRec = false
      ∧ skipBytes { openStream 0 with out := [outRec], produced := 65536 } outRec = 0)
    ∧ ((streaming (framed false)).Inv ∧ (framed false).opened = true ∧ (framed false).frame = some (codedFrame false) ∧ (codedFrame false).coding = false
      ∧ (∀ x ∈ (framed false).out, x.frame ≠ (codedFrame false).sub.frame) ∧ (framed false).desc.signal = 0xFFFF ∧ (framed false).closing = none
      ∧ Tab.wf Tags.none (framed false).buffers = true) :=
  ⟨⟨inv_of_ok (by decide +kernel), by decide +kernel⟩, ⟨inv_of_ok (by decide +kernel), by decide +kernel⟩, by decide +kernel,
    ⟨inv_of_ok (by decide +kernel), by decide +kernel⟩, ⟨inv_of_ok (by decide +kernel), by decide +kernel⟩,
    ⟨inv_of_ok (by decide +kernel), by decide +kernel⟩⟩

/-- A picture of two block rows: the first does not end the frame's one unit. -/
theorem witness_frames_unit : ({ parseStream (streamBytes 0) with height := 128 } : StreamDesc).unitEnds (codedFrame true).row = false := by
  decide +kernel

/-! ### Witnesses: links, members, twins -/

/-- A configuration block (R335): every lane, at least 4, retuning, no loopback. -/
def linkBlock (enable : Nat) : List Byte := toLE 2 1 ++ toLE 1 enable ++ toLE 1 0xFF ++ toLE 1 4 ++ toLE 1 1 ++ toLE 10 0
theorem hostData_link (s : State) (e : Nat) : hostData (placed s (linkBlock e)) hdr 0 16 = linkBlock e := by
  have := hostData_placed s (linkBlock e)
  rwa [show (linkBlock e).length = 16 from rfl] at this

/-- One link port with a content. -/
def linked (p : Nat) (l : Link) : State := { enabled with links := [(p, l)] }
/-- A port of a member, in each state. -/
def trainingLink : Link := { Link.reset with enable := true, state := .training }
def upLink : Link := { Link.reset with enable := true, state := .up }
def verifyLink : Link := { Link.reset with enable := true, state := .verify }
/-- This device in a domain of two groups of one. -/
def joined : State := { enabled with member := some pairDomain }

theorem linked_serves (p : Nat) (l : Link) : Serves (linked p l) false := serves_of rfl rfl rfl _

/-- A data flit with sequence number 0, its CRC right (R321). -/
def goodFlit : List Byte :=
  let b := List.replicate 252 (0 : Byte)
  b ++ toLE 4 (crc32 b)

theorem witness_linkPorts :
    (ServesHost enabled hdr false ∧ (0 : Word).toNat ≠ 16)
    ∧ ((placed enabled (linkBlock 1)).Inv ∧ ServesHost (placed enabled (linkBlock 1)) hdr false ∧ (15 : Byte).toNat ≤ 15 ∧ (16 : Word).toNat = 16
      ∧ hostData (placed enabled (linkBlock 1)) hdr (0 : Dword).toNat 16 = linkBlock 1 ∧ linkBlockOk (linkBlock 1) = true
      ∧ fieldLE (linkBlock 1) 2 1 = 1 ∧ fieldLE (linkBlock 1) 6 1 = 0 ∧ ((placed enabled (linkBlock 1)).link 15).enable = false
      ∧ ((placed enabled (linkBlock 1)).link 15).state = .disabled ∧ ((placed enabled (linkBlock 1)).link 15).sheeted = false)
    ∧ (linkBlockOk (linkBlock 0) = true ∧ fieldLE (linkBlock 0) 2 1 = 0 ∧ portUsed (placed enabled (linkBlock 0)) 15 = false
      ∧ portUsed (placed joined (linkBlock 0)) 15 = true ∧ hostData (placed joined (linkBlock 0)) hdr (0 : Dword).toNat 16 = linkBlock 0)
    ∧ ((linked 0 trainingLink).Inv ∧ clocked (linked 0 trainingLink) = true ∧ ((linked 0 trainingLink).link 0).enable = true
      ∧ ((linked 0 trainingLink).link 0).sheeted = false ∧ ((linked 0 trainingLink).link 0).state = .training
      ∧ (trainingLink.minLanes ≤ trainingLink.active.length ∧ trainingLink.active ≠ []
        ∧ ∀ i ∈ trainingLink.active, (0xFF : Byte).getLsbD i = true)
      ∧ (¬ ∀ i ∈ trainingLink.active, (0xFE : Byte).getLsbD i = true) ∧ (linked 0 trainingLink).paired = false)
    ∧ ((linked 0 upLink).Inv ∧ clocked (linked 0 upLink) = true ∧ upLink.enable = true ∧ upLink.laneMask.getLsbD (7 : Fin 8).val = true
      ∧ upLink.retired.getLsbD (7 : Fin 8).val = false
      ∧ ({ upLink with retired := 0x80 } : Link).retired.getLsbD (7 : Fin 8).val = true
      ∧ (upLink.state = .up ∧ upLink.retuning = none ∧ (7 : Fin 8).val ∈ upLink.active ∧ 2 ≤ upLink.active.length ∧ clocked (linked 0 upLink) = true
        ∧ upLink.retune = false ∧ ¬ (2 ^ 40 ≤ Tab.look 0 upLink.sinceRetune 7 ∨ 2 ^ 20 < Tab.look 0 upLink.corrected 7)
        ∧ 2 ^ 40 ≤ Tab.look 0 ({ upLink with sinceRetune := [(7, 2 ^ 40)] } : Link).sinceRetune 7
        ∧ 2 ^ 20 < Tab.look 0 ({ upLink with corrected := [(7, 2 ^ 20 + 1)] } : Link).corrected 7)
      ∧ ({ upLink with retuning := some 7 } : Link).retuning = some (7 : Fin 8))
    ∧ ((goodFlit.length = 256 ∧ fieldLE goodFlit 252 4 = crc32 (goodFlit.take 252)) ∧ bits (fieldLE goodFlit 2 1) 5 4 = 0
      ∧ fieldLE goodFlit 0 2 = upLink.rxSeq.toNat ∧ fieldLE goodFlit 0 2 ≠ ({ upLink with rxSeq := 1 } : Link).rxSeq.toNat
      ∧ ¬ (([] : List Byte).length = 256) ∧ upLink.loopback = false ∧ (∀ x ∈ (linked 0 upLink).colls, x.2.chunks = [])
      ∧ bits (fieldLE (toLE 2 0 ++ [0x20]) 2 1) 5 4 = 2
      ∧ ∀ i : Fin 8, thirdFault (Tab.look Health.reset (upLink.arrive (0 : Fin 16).val).laneHealth i.val) = false)
    ∧ (portUsed (placed enabled (linkBlock 1)) 15 = false ∧ upLink.enable = true ∧ upLink.state = .up
      ∧ (linked 0 trainingLink).twin.bound = false) :=
  ⟨⟨enabled_servesHost.2, by decide⟩, ⟨placed_inv enabled_inv _, ⟨serves_of rfl rfl rfl _, rfl⟩, by decide, by decide, hostData_link _ _, by decide⟩,
    ⟨by decide, by decide, by decide, by decide, hostData_link _ _⟩, ⟨inv_of_ok rfl, by decide⟩, ⟨inv_of_ok rfl, by decide⟩, by decide +kernel, by decide⟩

/-- Messages to this device (number 0xFFF) and to another, and one remote access that waits. -/
def toMe (n : Half) (data : List Byte) : Msg := { msgOf n data [] with dst := 0xFFF }
def awaiting (isRead : Bool) (i : Instr) : State := { enabled with xfers := [⟨5, .command i, 1, isRead, 0, 1, [], false, none, 0, 0, none, [], []⟩] }

theorem witness_remoteAccesses :
    (Awake enabled ∧ enabled.Inv ∧ forMe enabled (msgOf 1 [1] []) = false)
    ∧ (forMe enabled (toMe 1 [1]) = true ∧ (toMe 1 [1]).sealed = false ∧ enabled.ecc = [] ∧ accessRefused enabled (toMe 1 [1]) = none
      ∧ (toMe 1 [1]).again = false ∧ flightTouches enabled = [])
    ∧ (accessRefused enabled { toMe 1 [1] with addr := 0x1E00000000 } = some false
      ∧ accessRefused sealedAt0 (toMe 1 [1]) = some true
      ∧ rangeOk enabled ({ toMe 1 [1] with addr := 0x1E00000000 } : Msg).addr.toNat (1 : Half).toNat = false)
    ∧ (∀ x ∈ enabled.xfers, x.xid ≠ (toMe 1 [1]).xid)
    ∧ ((awaiting false (.writeMem hdr 0 0 1)).Inv ∧ forMe (awaiting false (.writeMem hdr 0 0 1)) (toMe 0 []) = true
      ∧ (awaiting false (.writeMem hdr 0 0 1)).xfers = [⟨5, .command (.writeMem hdr 0 0 1), 1, false, 0, 1, [], false, none, 0, 0, none, [], []⟩]
      ∧ (5 : Dword) = (toMe 0 []).xid ∧ 1 = (toMe 0 []).src.toNat)
    ∧ ((awaiting true (.readMem hdr 0 0 1)).Inv ∧ (0 : Nat) = localPart (0 : Dword).toNat ∧ hdr.partner = none ∧ (toMe 1 [1]).refused = false
      ∧ dmaStopped (awaiting true (.readMem hdr 0 0 1)) hdr = false ∧ (0 : Nat) = (toMe 1 [1]).addr.toNat
      ∧ (toMe 1 [1]).data.length = 1 ∧ (toMe 1 [1]).data ≠ []) :=
  ⟨⟨awake_of rfl, enabled_inv, by decide⟩, by decide, by decide, by decide, ⟨inv_of_ok rfl, by decide⟩, ⟨inv_of_ok rfl, by decide⟩⟩

/-- A domain table (R336): one group of one, and two groups of one. -/
def domainTable (groups : Nat) : List Byte :=
  toLE 2 1 ++ toLE 1 groups ++ toLE 1 1 ++ toLE 2 0 ++ toLE 2 0 ++ toLE 8 1 ++ toLE 48 0 ++ (List.range groups).flatMap (toLE 2)
theorem hostData_domain1 (s : State) : hostData (placed s (domainTable 1)) hdr 0 66 = domainTable 1 := by
  have := hostData_placed s (domainTable 1)
  rwa [show (domainTable 1).length = 66 from by decide +kernel] at this
theorem hostData_domain2 (s : State) : hostData (placed s (domainTable 2)) hdr 0 68 = domainTable 2 := by
  have := hostData_placed s (domainTable 2)
  rwa [show (domainTable 2).length = 68 from by decide +kernel] at this

theorem witness_domainMembership :
    ((placed enabled (domainTable 1)).Inv ∧ ServesHost (placed enabled (domainTable 1)) hdr false ∧ (66 : Word) ≠ 0 ∧ enabled.twin.bound = false
      ∧ enabled.twin.binding = none ∧ enabled.member = none ∧ enabled.joining = none
      ∧ hostData (placed enabled (domainTable 1)) hdr (0 : Dword).toNat (min (66 : Word).toNat 1088) = domainTable 1
      ∧ (parseDomain (domainTable 1) (66 : Word).toNat).any (fun d => d.ports.isEmpty) = true)
    ∧ (hostData (placed enabled (domainTable 2)) hdr (0 : Dword).toNat (min (68 : Word).toNat 1088) = domainTable 2
      ∧ (parseDomain (domainTable 2) (68 : Word).toNat).any (fun d => d.ports.any (fun p => !(placed enabled (domainTable 2)).up p)
        && d.ports.all (fun p => decide (((placed enabled (domainTable 2)).link p).state ≠ .verify))) = true)
    ∧ (ServesHost joined hdr false ∧ joined.twin.bound = false ∧ joined.member.isSome = true)
    ∧ (({ linked 7 verifyLink with member := some pairDomain } : State).Inv
      ∧ (({ linked 7 verifyLink with member := some pairDomain } : State).link (7 : LinkId).val).state = .verify
      ∧ (domainOf { linked 7 verifyLink with member := some pairDomain } = some pairDomain ∧ (7 : LinkId).val ∈ pairDomain.ports ∧ pairDomain.id = 1
        ∧ pairDomain.peer (7 : LinkId).val = ((1 : Byte).toNat, (0 : Byte).toNat)
        ∧ pairDomain.device (1 : Byte).toNat (0 : Byte).toNat = (1 : BitVec 12).toNat))
    ∧ ((linked 7 verifyLink).Inv ∧ ¬ (∃ d, domainOf (linked 7 verifyLink) = some d) ∧ (linked 7 verifyLink).joining = none) :=
  ⟨⟨placed_inv enabled_inv _, ⟨serves_of rfl rfl rfl _, rfl⟩, by decide, rfl, rfl, rfl, rfl, hostData_domain1 _, by decide +kernel⟩,
    ⟨hostData_domain2 _, by decide +kernel⟩, ⟨⟨serves_of rfl rfl rfl _, rfl⟩, rfl, rfl⟩, ⟨inv_of_ok rfl, by decide⟩,
    ⟨inv_of_ok rfl, fun ⟨_, h⟩ => (by cases h), rfl⟩⟩

/-- A pair; with a run; stepped out; with a reply of its own; and a bind that waits for port 7. -/
def twinState (t : Twin) (slots : Tab Slot) (links : Tab Link) : State := { enabled with twin := t, slots := slots, links := links }
def pairTwin : Twin := { Twin.reset with bound := true }
def bothUp : Tab Link := [(7, upLink), (15, upLink)]
def ownReply : Forwarded := ⟨hdr, 1, some (Reply.of stDone), none⟩

/-- A bind whose partner's mode is known, both ports UP; and a pair with part of a longer message. -/
def bindable : State := twinState { Twin.reset with partnerBind := some true } [] bothUp

theorem witness_twinPairs :
    (bindable.Inv ∧ Serves bindable false ∧ bindable.member = none ∧ bindable.twin.bound = false ∧ bindable.twin.binding = none
      ∧ bindable.joining = none ∧ bindable.slots = [] ∧ bindable.streams = [] ∧ (∀ p ∈ [7, 15], bindable.up p = true ∧ (bindable.link p).enable = true)
      ∧ bindable.twin.partnerBind = some true ∧ true = ((0 : Byte) == 0) ∧ true ≠ ((1 : Byte) == 0))
    ∧ (clocked enabled = true ∧ joined.member.isSome = true ∧ Serves joined false ∧ (twinState pairTwin [] bothUp).twin.part = []
      ∧ ((7 : LinkId).val = 7 ∨ (7 : LinkId).val = 15) ∧ (2 : Byte) ≠ 0
      ∧ Answerable (twinState pairTwin [] bothUp) hdr ∧ hdr.signal = false ∧ (twinState pairTwin [] bothUp).xfers = [])
    ∧ (enabled.Inv ∧ Serves enabled false ∧ (1 : Byte).toNat ≤ 1 ∧ enabled.member = none ∧ enabled.twin.bound = false ∧ enabled.twin.binding = none
      ∧ enabled.joining = none ∧ (∀ x ∈ enabled.slots, x.2.plan = none) ∧ (∀ x ∈ enabled.streams, x.2.opened = false)
      ∧ (enabled.up 7 && enabled.up 15) = false ∧ (∀ p ∈ [7, 15], (enabled.link p).state = .verify → (enabled.link p).enable = true))
    ∧ (Serves (twinState pairTwin [] []) false ∧ (twinState pairTwin [] []).twin.bound = true
      ∧ ∃ x ∈ (holding twoMoves).slots, x.2.plan.isSome = true)
    ∧ ((twinState { Twin.reset with binding := some (hdr, false) } [] [(7, verifyLink), (15, upLink)]).Inv
      ∧ ((twinState { Twin.reset with binding := some (hdr, false) } [] [(7, verifyLink), (15, upLink)]).link (7 : LinkId).val).state = .verify
      ∧ (twinState { Twin.reset with binding := some (hdr, false) } [] [(7, verifyLink), (15, upLink)]).up 15 = true
      ∧ (2 : Dword).toNat = 1 + b2n (!false))
    ∧ ((twinState pairTwin [(0, { Slot.reset with plan := some twoMoves, run := some (freshRun twoMoves) })] bothUp).Inv
      ∧ (twinState pairTwin [(0, { Slot.reset with plan := some twoMoves, run := some (freshRun twoMoves) })] bothUp).twin.steppedOut = false
      ∧ (∃ x ∈ (twinState pairTwin [(0, { Slot.reset with plan := some twoMoves, run := some (freshRun twoMoves) })] bothUp).slots, x.2.run.isSome = true)
      ∧ (twinState pairTwin [] bothUp).Inv ∧ (∀ x ∈ (twinState pairTwin [] bothUp).slots, x.2.run = none)
      ∧ (twinState pairTwin [] bothUp).firmware.recovery = false
      ∧ (twinState { pairTwin with steppedOut := true } [] bothUp).twin.steppedOut = true
      ∧ clocked (twinState pairTwin [] bothUp) = true ∧ (twinState pairTwin [] bothUp).paired = true
      ∧ (twinState { pairTwin with partnerOut := true } [] []).paired = false ∧ (twinState pairTwin [] bothUp).twin.releasing = none
      ∧ (twinState pairTwin [] bothUp).twin.partnerBusy = none ∧ pairTwin.writes = []
      ∧ (twinState { pairTwin with partnerBusy := some true } [] bothUp).paired = true
      ∧ ((twinState pairTwin [] bothUp).port 0).perst = false ∧ ((twinState pairTwin [] bothUp).port 1).perst = false)
    ∧ ((twinState { pairTwin with forwarded := [ownReply] } [] bothUp).power.rails = true
      ∧ (twinState { pairTwin with forwarded := [ownReply] } [] bothUp).twin.forwarded.find? (fun f => f.order == 1) = some ownReply
      ∧ ownReply.own = some (Reply.of stDone) ∧ (Reply.of stDone).status = (parseReply (replyBody (Reply.of stDone))).status)
    ∧ ((twinState pairTwin [] bothUp).twin.partnerOut = false ∧ (twinState pairTwin [] bothUp).twin.forwarded = []
      ∧ ∀ n, n < 16 → ((twinState pairTwin [] bothUp).slot n).run = none) :=
  ⟨⟨inv_of_ok rfl, serves_of rfl rfl rfl _, by decide⟩, ⟨rfl, rfl, serves_of rfl rfl rfl _, rfl, by decide, by decide, ⟨rfl, rfl, by decide, by decide⟩, rfl, rfl⟩,
    ⟨enabled_inv, enabled_serves.2, by decide⟩, ⟨⟨rfl, fun h => (by cases h), fun h => absurd h.2.1 (by decide)⟩, rfl, by decide⟩,
    ⟨inv_of_ok rfl, by decide⟩, ⟨inv_of_ok rfl, rfl, by decide, inv_of_ok rfl, by decide⟩, by decide, rfl, rfl, fun _ _ => rfl⟩

/-- A bound twin of mode B; with a forwarded PAUSE of chute 0 that has no number yet; and the message body of a PAUSE. -/
def twinB : State := twinState { pairTwin with mode := true } [] bothUp
def pauseAsked : Asking := ⟨0, { hdr with tag := 3 }, toLE 2 0x301 ++ toLE 2 1 ++ toLE 2 3 ++ toLE 2 0 ++ toLE 4 7 ++ toLE 52 0⟩
def twinBAsking : State := twinState { pairTwin with mode := true, asked := [pauseAsked] } [] bothUp
def pausePacket : List Byte := toLE 2 0x301 ++ toLE 2 1 ++ toLE 2 3 ++ toLE 2 0 ++ toLE 4 7 ++ toLE 36 0
def pauseMessage : List Byte := toLE 2 0 ++ pausePacket
theorem pauseMessage_packet : (splitBody pauseMessage).1 = pausePacket := by decide +kernel
theorem pauseMessage_chute : fieldLE pauseMessage 0 1 = 0 := by decide +kernel

theorem witness_twinMessages :
    (twinB.Inv ∧ clocked twinB = true ∧ twinB.twin.bound = true ∧ ((7 : LinkId).val = 7 ∨ (7 : LinkId).val = 15) ∧ twinB.twin.part = [] ∧ twinB.twin.releasing = none)
    ∧ (orderer twinB = false ∧ twinB.twin.steppedOut = false ∧ twinB.twin.waiting = [] ∧ twinB.twin.order = 0
      ∧ (partnerInstr 0 (fieldLE pauseMessage 0 1) (splitBody pauseMessage).1).isSome = true
      ∧ (partnerInstr 1 (fieldLE pauseMessage 0 1) (splitBody pauseMessage).1).isSome = true
      ∧ packetWait (splitBody pauseMessage).1 = none)
    ∧ (twinBAsking.Inv ∧ twinBAsking.twin.asked.find? (fun a => a.id == fieldLE (toLE 8 0) 0 8) = some pauseAsked ∧ twinBAsking.twin.waiting = []
      ∧ (twinBAsking.chute (chuteIx pauseAsked.hdr.port pauseAsked.hdr.chute)).epoch = pauseAsked.hdr.epoch
      ∧ (twinBAsking.chute (chuteIx pauseAsked.hdr.port pauseAsked.hdr.chute)).enable = true)
    ∧ (orderer (twinState pairTwin [] bothUp) = true ∧ (twinState pairTwin [] bothUp).twin.part = [])
    ∧ (parseWork (toLE 1 3 ++ toLE 1 5) = some (.mark 5) ∧ (7 : Dword) ≠ BitVec.allOnes 64 ∧ (7 : Dword) ≠ BitVec.allOnes 64 - 1 ∧ (7 : Dword) ≠ twinB.twin.order)
    ∧ (twinB.twin.partnerOut = false ∧ twinB.twin.forwarded = [])
    ∧ (clocked enabled = true ∧ enabled.twin.bound = false ∧ ((0 : LinkId).val ≠ 7 ∧ (0 : LinkId).val ≠ 15)) := by
  rw [pauseMessage_packet, pauseMessage_chute]
  exact ⟨⟨inv_of_ok rfl, rfl, rfl, by decide, rfl, rfl⟩, ⟨rfl, rfl, rfl, rfl, by decide +kernel, by decide +kernel, by decide +kernel⟩,
    ⟨inv_of_ok (by decide +kernel), by decide +kernel⟩, by decide +kernel, by decide +kernel, by decide +kernel, by decide +kernel⟩

/-! ### Witnesses: collectives, tables, firmware -/

/-- A SUM record over members, this device in domain `d`, with what is admitted and what the engines hold. -/
def sumPlan (n : Nat) (members : List Nat) : Plan :=
  { planOf [tensorOf 0 0 [n, 1, 1, 1, 1], tensorOf 6 4096 [3, 1, 1, 1, 1], tensorOf 0 8192 [n, 1, 1, 1, 1]]
      [{ recOf 10 true with a := 0, out := 2, aux0 := 1, aux1 := 1 }] with
    resource := ⟨1, 0, 0, 0, 0, 0, true⟩
    memberSets := [⟨1, members⟩] }
def sumRun (l : List Admitted) : Run := { freshRun (sumPlan 4 [0]) with inFlight := [0], collectives := l }
def sumState (n : Nat) (members : List Nat) (l : List Admitted) (c : Tab Coll) : State :=
  { running (sumPlan n members) (sumRun l) with
    member := some ⟨1, members.length, 1, 0, 0, members⟩
    links := [(7, upLink), (15, upLink)]
    colls := c }
def admitted : List Admitted := [⟨0, 0, 1, []⟩]
/-- The record's collective ID, and its chunk 0 on hub A with the words of some devices. -/
def sumId : Dword := BitVec.ofNat 64 (2 ^ 48)
def bin : ChunkState := ⟨sumId, 0, 0, 0, [], [], [], [], [], [], none, ⟨0, 0, 0⟩, false, false, false⟩
def binned : Tab Coll := [(0, { Coll.reset with chunks := [bin] })]
def words (src : BitVec 12) : SumMsg := ⟨sumId, 0, .exponents, 0, src, 0, 4, 0, false, .no, [1, 0, 0, 0], false, 0, [], 0, ⟨0, 0, 0⟩⟩
def grantOf (n : Word) : SumMsg := ⟨sumId, 0, .grant, 0, 1, 0, n, 0, false, .no, [], false, 0, [], 0, ⟨0, 0, 0⟩⟩
/-- Whether a message's words join the bin: its chunk is known, its sender gives them, and they are neither the last nor too late. -/
def joinsB (s : State) (m : SumMsg) (ring : Bool) : Bool :=
  let y := { bin with got := [(m.kind, m.src.toNat, m.first)] }
  decide (m.dst.toNat = deviceNumber s)
  && (collOf s 0 0 0).any (fun e => e.givers.contains m.src.toNat && !(e.ctx.plan.tensor e.ctx.r.sumTensor).sealed && !bin.returned e .agreed
    && (e.dw && e.ring.contains m.src.toNat) == ring && (!e.completes || !e.needs.all (y.has e .exponents)))
def barring : Tab Coll := [(0, { Coll.reset with barred := [(sumId, 1)] })]

theorem witness_collectives :
    ((sumState 4 [0, 1] [] []).Inv ∧ ((sumState 4 [0, 1] [] []).slot 0).plan = some (sumPlan 4 [0, 1])
      ∧ ((sumState 4 [0, 1] [] []).slot 0).run = some (sumRun []) ∧ collectiveReady (sumPlan 4 [0, 1]) (sumRun []) 0 = true
      ∧ lowerAdmitted (sumPlan 4 [0, 1]) (sumRun []) 0 = true ∧ (sumRun []).collectives.length < (sumPlan 4 [0, 1]).resource.peakSums
      ∧ (∀ d ∈ sumMembers (sumState 4 [0, 1] [] []) (sumPlan 4 [0, 1]) ((sumPlan 4 [0, 1]).record 0),
          d = deviceNumber (sumState 4 [0, 1] [] []) ∨ reachable (sumState 4 [0, 1] [] []) d = true)
      ∧ onDumbwaiter (sumPlan 4 [0, 1]) ((sumPlan 4 [0, 1]).record 0) = true
      ∧ onDumbwaiter (sumPlan 20000 [0, 1]) ((sumPlan 20000 [0, 1]).record 0) = false)
    ∧ ((sumPlan 4 [0, 1]).resource.peakSums ≤ (sumRun admitted).collectives.length
      ∧ lowerAdmitted { sumPlan 4 [0, 1] with records := [recOf 10 false, recOf 10 true] } (sumRun []) 1 = false)
    ∧ ((sumState 20000 [0, 1] admitted []).Inv ∧ (sumRun admitted).collectives.find? (fun a => a.record == 0) = some ⟨0, 0, 1, []⟩
      ∧ (0 < sumChunks (sumPlan 20000 [0, 1]) ((sumPlan 20000 [0, 1]).record 0))
      ∧ (∀ x ∈ ((sumState 20000 [0, 1] admitted []).coll 0).chunks,
          x.id ≠ collectiveId (sumState 20000 [0, 1] admitted []) 0 (sumPlan 20000 [0, 1]) 0)
      ∧ (collOf (sumState 20000 [0, 1] admitted []) 0 0 0).any (fun e => !e.completes && !(e.ctx.plan.tensor e.ctx.r.sumTensor).sealed
        && e.givers.all (fun d => !barredPeer (sumState 20000 [0, 1] admitted []) (sumId) d)) = true
      ∧ ((sumState 20000 [0, 1] admitted []).coll 0).grants = [])
    ∧ ((sumState 20000 [0, 1] admitted binned).Inv ∧ chunkHub (words 1).chunk = 0
      ∧ ((sumState 20000 [0, 1] admitted binned).coll 0).chunks.find? (fun x => x.id == (words 1).id && x.chunk == (words 1).chunk) = some bin
      ∧ joinsB (sumState 20000 [0, 1] admitted binned) (words 1) false = true)
    ∧ ((sumState 4 [0, 1, 2] admitted binned).Inv ∧ joinsB (sumState 4 [0, 1, 2] admitted binned) (words 2) true = true)
    ∧ ((grantOf 4).dst.toNat ≠ deviceNumber enabled ∧ takesSum enabled (grantOf 4) = false ∧ binned.all (fun x => x.2.grants.isEmpty) = true)
    ∧ (enabled.Inv ∧ Awake enabled ∧ collectiveOf enabled (grantOf 4).id = none)
    ∧ ((sumState 4 [0, 1] admitted []).Inv ∧ collectiveOf (sumState 4 [0, 1] admitted []) (grantOf 5).id = some (0, sumPlan 4 [0, 1], 0)
      ∧ (5 : Word).toNat ≠ sumCount (sumPlan 4 [0, 1]) ((sumPlan 4 [0, 1]).record 0)
      ∧ barredPeer (sumState 4 [0, 1] admitted []) (grantOf 5).id (grantOf 5).src.toNat = false
      ∧ collectiveOf (sumState 4 [0, 1] admitted barring) (grantOf 5).id = some (0, sumPlan 4 [0, 1], 0)
      ∧ barredPeer (sumState 4 [0, 1] admitted barring) (grantOf 5).id (grantOf 5).src.toNat = true) :=
  ⟨⟨inv_of_ok rfl, by decide⟩, by decide, ⟨inv_of_ok rfl, by decide +kernel⟩, ⟨inv_of_ok rfl, by decide +kernel⟩,
    ⟨inv_of_ok rfl, by decide +kernel⟩, by decide, ⟨enabled_inv, awake_of (by decide), by decide⟩, ⟨inv_of_ok rfl, by decide +kernel⟩⟩

/-- A switch that has been started, and one whose banks are written. -/
def switching (writing : Option TableSet) : State := { enabled with tables := { Tables.reset with writing := writing, command := some hdr } }

theorem witness_tableSwitching :
    (ServesHost enabled hdr false ∧ Serves enabled false ∧ (3584 : Word).toNat = 3584 ∧ (1 : Byte).toNat ≤ 1 ∧ enabled.tables.command = none ∧ 1 < (2 : Byte).toNat)
    ∧ (ServesHost (switching none) hdr false ∧ (switching none).tables.command.isSome = true)
    ∧ (enabled.tables.writing = none ∧ (switching (some .c12)).tables.writing = some .c12)
    ∧ ((switching (some .c12)).tables.command = some hdr ∧ (switching (some .c12)).tables.writing.isSome = true)
    ∧ ((switching none).tables.writing = none
      ∧ ∀ x ∈ (switching none).slots, ∀ q, x.2.run = some q → q.gen = (switching none).tables.generation ∧ q.landings.waiting = none)
    ∧ (∃ x ∈ (running twoMoves { freshRun twoMoves with gen := 1 }).slots, ∃ q, x.2.run = some q
      ∧ q.gen ≠ (running twoMoves { freshRun twoMoves with gen := 1 }).tables.generation) :=
  ⟨⟨enabled_servesHost.2, enabled_serves.2, by decide⟩, ⟨⟨serves_of rfl rfl rfl _, rfl⟩, rfl⟩, ⟨rfl, rfl⟩, ⟨rfl, rfl⟩, ⟨rfl, fun _ h => nomatch h⟩,
    ⟨_, List.mem_cons_self .., _, rfl, by decide⟩⟩

/-- A staging session of a port. -/
def staged (p : PortId) : State := { enabled with stage := some ⟨p, [1]⟩ }

theorem witness_firmwareUpdates :
    (ServesHost (staged 1) hdr true ∧ (1 : Word) ≠ 0 ∧ (staged 1).stage = some ⟨1, [1]⟩ ∧ (1 : PortId) ≠ hdr.port)
    ∧ (ServesHost (staged 0) hdr true ∧ (∀ x, (staged 0).stage = some x → x.port = hdr.port)
      ∧ (2 : Word).toNat ≠ (if (2 : Word) = 0 then [] else ((staged 0).stage.map (·.bytes)).getD []).length
      ∧ (1 : Word).toNat = (if (1 : Word) = 0 then [] else ((staged 0).stage.map (·.bytes)).getD []).length
      ∧ (2 ^ 20 : Word).toNat ≤ 2 ^ 20 ∧ (1 : Word).toNat + (2 ^ 20 : Word).toNat ≤ 28 * 2 ^ 20
      ∧ 2 ^ 20 < (2 ^ 20 + 1 : Word).toNat ∧ (1 : Word) ≠ 0)
    ∧ (Serves enabled true ∧ enabled.stage = none) :=
  ⟨⟨⟨serves_of rfl rfl rfl _, rfl⟩, by decide⟩, ⟨⟨serves_of rfl rfl rfl _, rfl⟩, fun _ h => (by cases h; rfl), by decide⟩, enabled_serves.1, rfl⟩

/-! ### Witnesses: resets, registers, intake -/

/-- A reset of a function in progress. -/
def resetting (fid : Half) (commands : List Hdr) (ports : List PortId) : State := { enabled with resets := [⟨fid, commands, ports⟩] }
def resetBusy : State := { enabled with ports := [(0, { Port.reset with resetBusy := true })] }
def twinBound : State := { enabled with twin := pairTwin }

theorem witness_resets :
    (enabled.Inv ∧ Serves enabled false ∧ unitOk enabled (0x9000 : Half).toNat = false ∧ unitOk enabled (0x5000 : Half).toNat = true
      ∧ (hdr.partner = none ∧ (0x5000 : Half).toNat = srcChute (chuteIx hdr.port hdr.chute)))
    ∧ (unitOk enabled (0x507F : Half).toNat = true ∧ (0x507F : Half).toNat ≠ srcChute (chuteIx hdr.port hdr.chute)
      ∧ inReset enabled (0x507F : Half).toNat = false ∧ (0x507F : Half).toNat / 4096 = 5
      ∧ unitOk enabled (0x600F : Half).toNat = true ∧ (0x600F : Half).toNat / 4096 = 6)
    ∧ ((resetting 0x100C [] []).Inv ∧ Serves (resetting 0x100C [] []) false ∧ unitOk (resetting 0x100C [] []) (0x100C : Half).toNat = true
      ∧ inReset (resetting 0x100C [] []) (0x100C : Half).toNat = true)
    ∧ ((∀ r ∈ enabled.resets, r.fid ≠ (0x100C : Half)) ∧ (0x100C : Half).toNat / 4096 ≠ 8
      ∧ (resetting 0x100C [hdr] []).resets = [⟨0x100C, [hdr], []⟩] ∧ (resetting 0x100C [] [0]).resets = [⟨0x100C, [], [0]⟩])
    ∧ (barOpen enabled (0 : PortId).val = true ∧ enabled.twin.bound = false ∧ (enabled.port (0 : PortId).val).resetBusy = false
      ∧ (enabled.port (0 : PortId).val).flrActive = false)
    ∧ (resetBusy.Inv ∧ barOpen resetBusy (0 : PortId).val = true ∧ (resetBusy.port (0 : PortId).val).resetBusy = true)
    ∧ (Serves enabled true ∧ (0 : Word) ≠ 0x0D200D20) :=
  ⟨⟨enabled_inv, enabled_serves.2, by decide⟩, by decide, ⟨inv_of_ok rfl, serves_of rfl rfl rfl _, by decide⟩, by decide, by decide,
    ⟨inv_of_ok rfl, by decide⟩, enabled_serves.1, by decide⟩

theorem witness_chuteRegisters :
    (enabled.Inv ∧ barOpen enabled (0 : PortId).val = true ∧ (0x10000 : BitVec 24).toNat = 0x10000 + 4096 * (0 : Fin 64).val)
    ∧ ((enabled.chute (chuteIx 0 1)).enable = false
      ∧ (4 ≤ ((0x1004 : Dword).extractLsb' 0 5).toNat ∧ ((0x1004 : Dword).extractLsb' 0 5).toNat ≤ 16
        ∧ 4 ≤ ((0x1004 : Dword).extractLsb' 8 5).toNat ∧ ((0x1004 : Dword).extractLsb' 8 5).toNat ≤ 16)
      ∧ ¬ 4 ≤ ((0x1003 : Dword).extractLsb' 0 5).toNat ∧ ¬ ((0x1104 : Dword).extractLsb' 8 5).toNat ≤ 16)
    ∧ (inReset enabled (srcChute (chuteIx 0 1)) = false ∧ inReset (resetting 0x5001 [] []) (srcChute (chuteIx 0 1)) = true
      ∧ (resetting 0x5001 [] []).Inv)
    ∧ ((enabled.chute (chuteIx 0 0)).enable = true ∧ inReset enabled (srcChute (chuteIx 0 0)) = false)
    ∧ (enabled.twin.bound = false ∧ (enabled.hook (63 : BitVec 12).toNat).waiters = [] ∧ (enabled.hook (64 : BitVec 12).toNat).waiters = []) :=
  ⟨⟨enabled_inv, by decide⟩, by decide, ⟨by decide, by decide, inv_of_ok rfl⟩, by decide⟩

/-- A port with a window of 64 KiB, its mailbox busy, an MSI-X vector pending. -/
def windowed : State := { enabled with ports := [(0, { Port.reset with
  window := some (0, 65536)
  mailbox := { Mailbox.reset with busy := true }
  msixPending := 1 })] }

theorem witness_portRegisters :
    (enabled.Inv ∧ barOpen enabled (0 : PortId).val = true ∧ (enabled.port 0).window = none ∧ enabled.ecc = [] ∧ enabled.twin.bound = false
      ∧ (enabled.port 0).mailbox.busy = false ∧ (enabled.port 0).mailbox.reqLength.toNat ≤ 1024 ∧ enabled.mgmt.queue = [] ∧ readsEvent [0] = false
      ∧ readsSensor [0] = none ∧ readsSensor [1, 0x80, 2, 0x11, 1, 0, 0] = some 1 ∧ messageOk [1, 0x80, 2, 0x11, 1, 0, 0] = true)
    ∧ (windowed.Inv ∧ barOpen windowed (0 : PortId).val = true ∧ (windowed.port 0).window = some (0, 65536) ∧ 65536 ≤ 65536 ∧ 65535 < 65536
      ∧ 65535 + 1 ≤ 65536 ∧ (windowed.port 0).mailbox.busy = true ∧ (windowed.port 0).msixMask.getLsbD (0 : Fin 64).val = true
      ∧ (windowed.port 0).msixPending.getLsbD (0 : Fin 64).val = true)
    ∧ (Awake enabled ∧ Awake windowed ∧ rangeOk windowed 65535 1 = true ∧ runRaces windowed (touchRange true 65535 1) = []
      ∧ runRaces windowed (touchRange false 65535 1) = [] ∧ rangeOk windowed 0x1E00000000 1 = false)
    ∧ ((2 : BitVec 24).toNat % 4 ≠ 0 ∧ (4 : BitVec 24).toNat % 8 ≠ 0 ∧ 2 ≠ 4 ∧ 2 ≠ 8) :=
  ⟨⟨enabled_inv, by decide⟩, ⟨inv_of_ok (by decide), by decide⟩, ⟨awake_of rfl, awake_of rfl, by decide⟩, by decide⟩

/-- A packet of one entry at the head of chute 0: a NOP, and one of an opcode that is none. -/
def nopBytes : List Byte := toLE 2 0 ++ toLE 2 1 ++ toLE 2 2 ++ toLE 2 0 ++ toLE 4 7 ++ toLE 52 0
def orderedBytes : List Byte := toLE 2 0 ++ toLE 2 0x801 ++ toLE 2 2 ++ toLE 2 0 ++ toLE 4 7 ++ toLE 52 0
def pauseBytes : List Byte := toLE 2 0x301 ++ toLE 2 1 ++ toLE 2 3 ++ toLE 2 0 ++ toLE 4 7 ++ toLE 52 0
def badBytes : List Byte := toLE 2 0xFFFF ++ toLE 62 1
def offering (b : List Byte) : State := { placed enabled b with chutes := [(0, { chute0 with tail := 1, ringBase := 0, owed := 0 })] }

/-- An ORDERED packet behind a reply that is owed; a PAUSE of a plan slot in reset. -/
def heldBack : State := { offering orderedBytes with chutes := [(0, { chute0 with tail := 1, ringBase := 0 })] }
def slotReset : State := { offering pauseBytes with resets := [⟨0x6000, [], []⟩] }

theorem witness_packetIntake :
    ((offering nopBytes).Inv ∧ (offering nopBytes).power.rails = true ∧ (offering nopBytes).status.ready = true ∧ (offering nopBytes).twin = Twin.reset
      ∧ (∀ j, ∀ w ∈ ((offering nopBytes).hook j).waiters.head?, ((offering nopBytes).hook j).count < w.amount)
      ∧ openChutes (offering nopBytes) = [0] ∧ headPacket (offering nopBytes) 0 = some (1, nopBytes) ∧ ((offering nopBytes).chute 0).hasRoom = true
      ∧ packetRefused (offering nopBytes) nopBytes = none ∧ packetWait nopBytes = none
      ∧ orderHolds ((offering nopBytes).chute 0) nopBytes = false ∧ waitsReset (offering nopBytes) (.command (.nop { hdr with tag := 0 })) = false
      ∧ ownPacket (offering nopBytes) 0 nopBytes = .command (.nop { hdr with tag := 0 }))
    ∧ ((offering badBytes).Inv ∧ openChutes (offering badBytes) = [0] ∧ headPacket (offering badBytes) 0 = some (1, badBytes)
      ∧ ((offering badBytes).chute 0).hasRoom = true ∧ packetRefused (offering badBytes) badBytes = some (Reply.of stBadOpcode))
    ∧ (headPacket heldBack 0 = some (1, orderedBytes) ∧ packetRefused heldBack orderedBytes = none ∧ packetWait orderedBytes = none
      ∧ (heldBack.chute 0).hasRoom = true ∧ orderHolds (heldBack.chute 0) orderedBytes = true)
    ∧ (headPacket slotReset 0 = some (1, pauseBytes) ∧ packetRefused slotReset pauseBytes = none ∧ packetWait pauseBytes = none
      ∧ waitsReset slotReset (ownPacket slotReset 0 pauseBytes) = true)
    ∧ (State.reset.status.ready = false ∧ ready.twin = Twin.reset ∧ openChutes ready = [])
    ∧ (((offering nopBytes).chute (chuteIx 0 0)).enable = true ∧ canFetch (offering nopBytes) (0 : PortId).val = true
      ∧ inReset (offering nopBytes) (srcChute (chuteIx 0 0)) = false ∧ ((offering nopBytes).chute (chuteIx 0 0)).fetched = []
      ∧ 0 < ((offering nopBytes).chute (chuteIx 0 0)).available
      ∧ 0 = 64 * ((offering nopBytes).chute (chuteIx 0 0)).ringBase.toNat + 64 * ((((offering nopBytes).chute (chuteIx 0 0)).head.toNat + 0)
        % 2 ^ ((offering nopBytes).chute (chuteIx 0 0)).log2N.toNat)
      ∧ 0 ≤ (63 : Dword).toNat ∧ (63 : Dword).toNat < 0 + 64 ∧ (offering nopBytes).hooks = []
      ∧ ((offering nopBytes).chute (chuteIx 0 0)).granted = none) := by
  refine ⟨⟨inv_of_ok (by decide +kernel), rfl, rfl, rfl, fun j w h => ?_, by decide +kernel⟩, ⟨inv_of_ok (by decide +kernel), by decide +kernel⟩,
    by decide +kernel, by decide +kernel, by decide +kernel, by decide +kernel⟩
  have : (offering nopBytes).hook j = Hook.reset := rfl
  simp [this, Hook.reset] at h

/-- Twin B with a PAUSE at the head of chute 0. -/
def forwarding : State := { offering pauseBytes with twin := { Twin.reset with bound := true, mode := true } }

theorem witness_packetForwarded :
    forwarding.Inv ∧ forwarding.power.rails = true ∧ forwarding.status.ready = true
    ∧ (∀ j, ∀ w ∈ (forwarding.hook j).waiters.head?, (forwarding.hook j).count < w.amount) ∧ openChutes forwarding = [0]
    ∧ headPacket forwarding 0 = some (1, pauseBytes) ∧ (forwarding.chute 0).hasRoom = true ∧ packetRefused forwarding pauseBytes = none
    ∧ orderHolds (forwarding.chute 0) pauseBytes = false
    ∧ (∃ c, ownPacket forwarding 0 pauseBytes = .command c ∧ sharedInstr c = true ∧ waitsReset forwarding (.command c) = false) := by
  refine ⟨inv_of_ok (by decide +kernel), rfl, rfl, fun j w h => ?_, by decide +kernel, by decide +kernel, by decide +kernel, by decide +kernel,
    by decide +kernel, .pause { hdr with tag := 0 } 0, by decide +kernel⟩
  have : (forwarding.hook j) = Hook.reset := rfl
  simp [this, Hook.reset] at h

/-- A command started whose host data cannot be read. -/
def started (i : Instr) : State := { enabled with started := [i] }

theorem witness_hostDataReadFailed :
    startedOf enabled hdr = none
    ∧ (startedOf (started (.writeMem hdr 0xFFF0000000000 0 64)) hdr = some (.writeMem hdr 0xFFF0000000000 0 64)
      ∧ target (started (.writeMem hdr 0xFFF0000000000 0 64)) 32 0xFFF0000000000 (64 : Dword).toNat = .here 0 ∧ enabled.ecc = [] ∧ Awake enabled
      ∧ (0 : Dword).toNat ≤ (63 : Dword).toNat ∧ (63 : Dword).toNat < (0 : Dword).toNat + (64 : Dword).toNat
      ∧ dataMoved (started (.writeMem hdr 0xFFF0000000000 0 64)) hdr = false)
    ∧ (startedOf (started (.tableLoad hdr 0 3584)) hdr = some (.tableLoad hdr 0 3584) ∧ hostReads (.tableLoad hdr 0 3584) = some (0, 3584)
      ∧ (∀ g d b l, Instr.tableLoad hdr 0 3584 ≠ .writeMem g d b l) ∧ 0 ≤ (3583 : Dword).toNat ∧ (3583 : Dword).toNat < 0 + 3584
      ∧ dataMoved (started (.tableLoad hdr 0 3584)) hdr = false)
    ∧ (startedOf (started (.flush hdr 0)) hdr = some (.flush hdr 0) ∧ readsBlock (.flush hdr 0) = true ∧ queuedRead (started (.flush hdr 0)) hdr = none)
    ∧ (
      let s := { streaming { openStream 1 with queue := [{ submit 0 with length := 16 }] } with started := [.streamSubmit hdr 0 64 0] }
      startedOf s hdr = some (.streamSubmit hdr 0 64 0) ∧ queuedRead s hdr = some (0, 0, 16) ∧ 0 ≤ (15 : Dword).toNat ∧ (15 : Dword).toNat < 0 + 16) :=
  ⟨by decide, ⟨by decide, rfl, by decide, awake_of (by decide), by decide⟩, ⟨by decide, by decide, fun _ _ _ _ h => (by cases h), by decide⟩,
    by decide, by decide +kernel⟩

/-! ### Witnesses: rails, rotation, probes, power -/

/-- Core 0's domain in a state; 32 domains that ramp; LIVE work on core 0; a tile that rotates. -/
def railed0 (r : RailState) : State := { enabled with rails := [(railIx (.core ⟨0, 0⟩), r)] }
def liveWork : State := { holding livePlan with cores := [(0, { Core.reset with busy := [(0, 0)] })] }
def ramped : State := { liveWork with rails := (List.range 32).map (fun i => (i + 100, ⟨.vlo, true⟩)) }
def rotating (exchange : Option (Fin 13 × Fin 13)) : State := { enabled with
  tiles := (0, { Tile.reset 0 with rotationDue := true, exchange := exchange }) :: List.drop 1 Tile.shipped
  cores := (List.range 12).map (fun c => (c, { Core.reset with wear := 100 - c })) }
def probing : State := { enabled with cores := [(0, { Core.reset with probe := true })] }

theorem witness_railsRotationProbes :
    (liveWork.Inv ∧ enabled.power.rails = true ∧ domainLive liveWork (.core ⟨0, 0⟩) = true ∧ (liveWork.rail (railIx (.core ⟨0, 0⟩))).rail = .vlo
      ∧ (liveWork.rail (railIx (.core ⟨0, 0⟩))).ramping = false ∧ ramping liveWork < 32 ∧ liveWork.ramps = [] ∧ 32 ≤ ramping ramped ∧ ramped.Inv
      ∧ domainLive ramped (.core ⟨0, 0⟩) = true ∧ (ramped.rail (railIx (.core ⟨0, 0⟩))).rail = .vlo ∧ railIx (.core ⟨0, 0⟩) ∉ ramped.ramps
      ∧ (domainLive enabled (.core ⟨0, 0⟩) = false ∧ backlogged enabled (.core ⟨0, 0⟩) = false)
      ∧ (railed0 ⟨.vlo, true⟩).Inv ∧ ((railed0 ⟨.vlo, true⟩).rail (railIx (.core ⟨0, 0⟩))).ramping = true ∧ (railed0 ⟨.vlo, true⟩).ramps = []
      ∧ (∀ y ∈ (railed0 ⟨.vlo, true⟩).rails, y.1 ≠ railIx (.core ⟨0, 0⟩) → y.2.ramping = false)
      ∧ ((railed0 ⟨.vhi, false⟩).rail (railIx (.core ⟨0, 0⟩))).rail = .vhi ∧ domainLive (railed0 ⟨.vhi, false⟩) (.core ⟨0, 0⟩) = false
      ∧ backlogged (railed0 ⟨.vhi, false⟩) (.core ⟨0, 0⟩) = false ∧ backlogged (streaming noBuffer) (.codec 0) = true
      ∧ domainWork enabled (.core ⟨0, 0⟩) = false ∧ domainWork liveWork (.core ⟨0, 0⟩) = true
      ∧ ((railed0 ⟨.gated, false⟩).rail (railIx (.core ⟨0, 0⟩))).rail = .gated)
    ∧ ((enabled.tile (0 : TileId).val).rotationDue = false
      ∧ ((rotating none).Inv ∧ ((rotating none).tile (0 : TileId).val).rotationDue = true ∧ ((rotating none).tile (0 : TileId).val).spare.isSome = true
        ∧ ((rotating none).tile (0 : TileId).val).exchange = none
        ∧ mostWorn (rotating none) (0 : TileId).val (activeIn (rotating none) (0 : TileId).val) = [(0 : Fin 13).val]
        ∧ leastWorn (rotating none) (0 : TileId).val ((goodIn (rotating none) (0 : TileId).val).filter (· != (0 : Fin 13).val)) = [(12 : Fin 13).val]
        ∧ mayExchange (rotating none) (16 * (0 : TileId).val + (0 : Fin 13).val) (16 * (0 : TileId).val + (12 : Fin 13).val) = true)
      ∧ ((rotating (some (0, 12))).Inv ∧ ((rotating (some (0, 12))).tile (0 : TileId).val).exchange = some (0, 12)
        ∧ ((rotating (some (0, 12))).tile (0 : TileId).val).spare = some 12))
    ∧ (goodCore enabled (coreIx ⟨0, 0⟩) = true ∧ coreWork enabled (coreIx ⟨0, 0⟩) = false ∧ inReset enabled (srcCore (coreIx ⟨0, 0⟩)) = false
      ∧ (∀ x ∈ waitingRecords enabled, coreIx ⟨0, 0⟩ ∉ x.2.2.2) ∧ (∃ x ∈ waitingRecords (running productPlan (freshRun productPlan)), coreIx ⟨0, 0⟩ ∈ x.2.2.2)
      ∧ coreWork liveWork (coreIx ⟨0, 0⟩) = true ∧ probing.Inv ∧ (probing.core (coreIx ⟨0, 0⟩)).probe = true ∧ goodCore probing (coreIx ⟨0, 0⟩) = true
      ∧ (∀ x ∈ probing.cores, x.2.condemned = false ∧ x.2.failed = false)
      ∧ (enabled.core (coreIx ⟨0, 0⟩)).probe = false) :=
  ⟨⟨inv_of_ok rfl, by decide, by decide, by decide, by decide, by decide +kernel, by decide, by decide +kernel, inv_of_ok (by decide +kernel),
    by decide, by decide, by decide, by decide, inv_of_ok (by decide), by decide⟩,
    ⟨by decide, ⟨inv_of_ok (by decide +kernel), by decide +kernel⟩, ⟨inv_of_ok (by decide +kernel), by decide +kernel⟩⟩,
    by decide, by decide, by decide, by decide, by decide +kernel, by decide, inv_of_ok (by decide +kernel), by decide⟩

/-- Power states. -/
def powered (p : Power) : State := { State.reset with power := p }
def unpowered : Power := { Power.reset with rails := false }
def clockless : State := { enabled with ports := [(1, { Port.reset with refclk := false })] }
def held (perst d3hot : Bool) : State := { enabled with ports := [(0, { Port.reset with perst := perst, d3hot := d3hot })] }
/-- A port held in PERST_N with its link down; and no reference clock at either. -/
def stopped : State := { enabled with ports := [(0, { Port.reset with perst := true, dlUp := false })] }
def lost : State := { enabled with ports := [(0, { Port.reset with refclk := false, dlUp := false }), (1, { Port.reset with refclk := false, dlUp := false })] }

theorem witness_powerAndPins :
    ((powered unpowered).Inv ∧ unpowered.rails = false ∧ unpowered.needLow = false ∧ unpowered.tripped = false ∧ unpowered.afterTrip = false)
    ∧ (ready.power.rails = true ∧ ready.status.ready = true ∧ State.reset.status.ready = false ∧ State.reset.power.bootFailed = false
      ∧ ({ unpowered with needLow := true } : Power).needLow = true ∧ ({ unpowered with tripped := true } : Power).tripped = true)
    ∧ (({ unpowered with tripped := true, pwrEn := false } : Power).tripped = true ∧ ({ unpowered with tripped := true, pwrEn := false } : Power).pwrEn = false)
    ∧ (enabled.Inv ∧ 84 ≤ (0x60 : Byte).toNat ∧ (83 : Byte).toNat < 84 ∧ (109999 : Word).toInt < 110000 ∧ 110000 ≤ (110000 : Word).toInt
      ∧ (83 : Byte).toNat ∈ (powered { Power.reset with hot := [83] }).power.hot ∧ (powered { Power.reset with hot := [83] }).Inv)
    ∧ (barOpen enabled (0 : PortId).val = true ∧ (enabled.port 0).perst = false
      ∧ (held false true).Inv ∧ barOpen (held false true) (0 : PortId).val = true ∧ ((held false true).port 0).d3hot = true
      ∧ (held true false).Inv ∧ ((held true false).port 0).perst = true ∧ clockless.Inv ∧ (clockless.port (1 - (0 : PortId).val)).refclk = false
      ∧ (stopped.Inv ∧ (stopped.port 0).perst = true ∧ (stopped.port 0).dlUp = false ∧ ((stopped.port 0).refclk || (stopped.port 1).refclk) = true)
      ∧ (lost.Inv ∧ ((lost.port 0).refclk || (lost.port 1).refclk) = false ∧ (lost.port 0).perst = false ∧ (lost.port 0).dlUp = false
        ∧ (enabled.port 0).dlUp = true)) :=
  ⟨⟨inv_of_ok (by decide), by decide⟩, by decide, by decide,
    ⟨enabled_inv, by decide, by decide, by decide, by decide, by decide, inv_of_ok (by decide)⟩,
    by decide, by decide, inv_of_ok (by decide), by decide, by decide, inv_of_ok (by decide), by decide, inv_of_ok (by decide), by decide, ⟨inv_of_ok (by decide), by decide⟩, inv_of_ok (by decide), by decide⟩

end Sys2Proof.Tests
end

section
/-! What completions keep: hook releases, replies and messages to other devices write the state effect by effect, and a property that each
such effect keeps holds after all of them. -/
namespace Sys2Proof.Machine

/-! ### What activities keep -/

/-- An activity keeps a property of states. -/
def Act.Keeps (P : State → Prop) (a : Act) : Prop := ∀ s, P s → P (applyAll (a s) s)

section
variable {P : State → Prop} {a b : Act}

theorem Act.Keeps.none : Act.Keeps P Act.none := fun _ hs => hs

theorem Act.Keeps.seq (ha : Act.Keeps P a) (hb : Act.Keeps P b) : Act.Keeps P (Act.seq a b) := fun s hs => by
  rw [applyAll_seq]
  exact hb _ (ha s hs)

theorem Act.Keeps.each {α : Type} {f : α → Act} (h : ∀ x, Act.Keeps P (f x)) (l : List α) : Act.Keeps P (Act.each f l) := by
  induction l with
  | nil => exact Act.Keeps.none
  | cons x l ih => exact (h x).seq ih
end

/-! ### Effects of completions -/

/-- The writes by which completions reach everything but chutes. -/
inductive Eff.Completes : Eff → Prop where
  | started (l : List Instr) : Completes (.started l)
  | port (p : Nat) (v : Port) : Completes (.port p v)
  | host (p a : Nat) (bs : List Byte) : Completes (.host p a bs)
  | hook (k : Nat) (v : Hook) : Completes (.hook k v)
  | ready (l : List (Nat × Nat)) : Completes (.ready l)
  | slot (n : Nat) (v : Slot) : Completes (.slot n v)
  | link (p : Nat) (v : Link) : Completes (.link p v)
  | twin (v : Twin) : Completes (.twin v)
  | outbox (l : List Sent) : Completes (.outbox l)
  | held (l : List Routed) : Completes (.held l)
  | ledger (e src : Nat) (d : List Byte) : Completes (.ledger e src d)
  | count (id n : Nat) : Completes (.count id n)

theorem Eff.Completes.chutes_eq {e : Eff} (h : e.Completes) (s : State) : (applyEff s e).chutes = s.chutes := by
  cases h with
  | hook k v => simp only [applyEff_hook]; split <;> rfl
  | count id n =>
    simp only [applyEff_count, State.bump]
    split
    · rfl
    · split <;> rfl
  | _ => rfl

theorem Eff.Completes.chute_eq {e : Eff} (h : e.Completes) (s : State) (i : Nat) : (applyEff s e).chute i = s.chute i :=
  congrArg (fun t => Tab.look Chute.reset t i) (h.chutes_eq s)

theorem Eff.Completes.beyondReplies_eq {e : Eff} (h : e.Completes) (s : State) : (applyEff s e).beyondReplies = s.beyondReplies := by
  cases h with
  | hook k v => simp only [applyEff_hook]; split <;> rfl
  | count id n =>
    simp only [applyEff_count, State.bump]
    split
    · rfl
    · split <;> rfl
  | _ => rfl

/-- What completions never touch in a chute: all but the replies it owes and its head packet's wait for a hook. -/
def Chute.beyondReplies (c : Chute) : Chute :=
  { c with
    blocked := false
    replyIndex := 0
    owed := 0
    granted := none }

/-- A property that no write of a completion ends. -/
structure CompletionInvariant (P : State → Prop) : Prop where
  eff : ∀ {s e}, Eff.Completes e → P s → P (applyEff s e)
  chute : ∀ {s i v}, v.beyondReplies = (s.chute i).beyondReplies → P s → P (applyEff s (.chute i v))

/-! ### Messages to other devices -/

/-- An activity that writes as completions do, in whatever state. -/
def Act.Completes (a : Act) : Prop := ∀ s, ∀ e ∈ a s, e.Completes

theorem Act.Completes.seq {a b : Act} (ha : a.Completes) (hb : b.Completes) : (Act.seq a b).Completes := fun s e he =>
  (List.mem_append.1 he).elim (ha s e) (hb _ e)

theorem Act.Completes.each {α : Type} {f : α → Act} (h : ∀ x, (f x).Completes) (l : List α) : (Act.each f l).Completes := by
  induction l with
  | nil => intro s e he; cases he
  | cons x l ih => exact (h x).seq ih

theorem pumpPort_completes (p : Nat) (owed : Bool) : (pumpPort p owed).Completes := by
  intro s e he
  unfold pumpPort at he
  extract_lets l at he
  split at he
  · cases he
  · rcases List.mem_cons.1 he with rfl | he
    · exact .link ..
    · split at he
      · cases he
      · exact List.mem_singleton.1 he ▸ .count ..

theorem pushPort_completes (p : Nat) (m : LinkMsg) : (pushPort p m).Completes := fun s =>
  Act.Completes.seq (fun _ _ he => List.mem_singleton.1 he ▸ .link ..) (pumpPort_completes p false) s

theorem route_completes (r : Routed) : (route r).Completes := by
  intro s e he
  unfold route at he
  extract_lets ps at he
  split at he
  · exact List.mem_singleton.1 he ▸ .held ..
  · exact pushPort_completes _ _ s e he

theorem sendTwin_completes (kind value : Nat) (body : List Byte) : (sendTwin kind value body).Completes :=
  Act.Completes.each (fun _ s e he => (List.mem_cons.1 he).elim (fun h => h ▸ .outbox ..) (route_completes _ s e)) _

/-! ### Replies and hooks -/

section
variable {P : State → Prop} (hP : CompletionInvariant P)
include hP

/-- Writes of completions worked out in one state and carried out in another. -/
theorem CompletionInvariant.effs {es : List Eff} (h : ∀ e ∈ es, e.Completes) {s : State} (hs : P s) : P (applyAll es s) :=
  applyAll_keeps_of es (fun e he _ => hP.eff (h e he)) s hs

theorem CompletionInvariant.completes {a : Act} (h : a.Completes) : a.Keeps P := fun s hs => hP.effs (h s) hs

/-- The same with a chute's write behind them. -/
theorem CompletionInvariant.effs_chute {es : List Eff} (h : ∀ e ∈ es, e.Completes) {s : State} {i : Nat} {v : Chute}
    (hv : v.beyondReplies = (s.chute i).beyondReplies) (hs : P s) : P (applyAll (es ++ [.chute i v]) s) := by
  have hchute : (applyAll es s).chute i = s.chute i :=
    applyAll_keeps_of (P := fun t => t.chute i = s.chute i) es (fun e he t ht => ((h e he).chute_eq t i).trans ht) s rfl
  rw [applyAll_append]
  exact hP.chute (hchute ▸ hv) (hP.effs h hs)

theorem CompletionInvariant.replyEffs (h : Hdr) (r : Reply) : (replyEffs h r).Keeps P := by
  intro s hs
  unfold Machine.replyEffs
  extract_lets i c gone
  have hgone : ∀ e ∈ [gone], e.Completes := fun _ he => List.mem_singleton.1 he ▸ .started _
  split
  · exact hs
  · split
    · exact hP.eff (.count ..) (hP.eff (.ledger ..) (hP.eff (.started _) hs))
    · split
      · exact hP.effs_chute hgone (v := { c with owed := c.owed - 1 }) rfl hs
      · rw [applyAll_append]
        refine hP.effs (fun e he => ?_) (hP.effs_chute (List.forall_mem_cons.2 ⟨.host .., hgone⟩)
          (v := { c with owed := c.owed - 1, replyIndex := c.replyIndex + 1 }) rfl hs)
        split at he
        · exact List.mem_singleton.1 he ▸ .port ..
        · cases he

theorem CompletionInvariant.deliver (h : Hdr) (r : Reply) : (deliver h r).Keeps P := by
  intro s hs
  unfold Machine.deliver
  split
  · refine Act.Keeps.seq (fun t ht => ?_) (hP.completes (sendTwin_completes _ _ _)) s hs
    exact hP.eff (.twin _) (hP.eff (.started _) ht)
  · split
    · exact hP.replyEffs h r s hs
    · split
      · split
        · exact hP.eff (.twin _) (hP.eff (.started _) hs)
        · refine Act.Keeps.seq (fun t ht => ?_) (hP.replyEffs h r) s hs
          exact hP.eff (.twin _) ht
      · refine Act.Keeps.seq (fun t ht => ?_) (hP.replyEffs h _) s hs
        simp only [Act.of_apply, List.singleton_append, applyAll_cons]
        split
        · exact hP.eff (.twin _) ht
        · exact hP.eff (.ledger ..) (hP.eff (.twin _) ht)

/-- The waiter's part of a grant, worked out in a state whose chutes are those of the state it is carried out in. -/
theorem CompletionInvariant.grant (k : Nat) (after : Word) (w : Waiter) {s t : State} (hst : ∀ i, t.chute i = s.chute i) (ht : P t) :
    P (applyAll (grant k after w s).1 t) := by
  cases w with
  | packet p c amount => exact hP.chute (hst _ ▸ rfl) ht
  | command h v => exact ht
  | partner c v => exact hP.eff (.twin _) ht
  | record n r =>
    simp only [Machine.grant]
    split
    · exact ht
    · exact hP.eff (.ready _) (hP.eff (.slot ..) ht)

theorem CompletionInvariant.jobStep (j : Job) : Act.Keeps P (fun s => (jobStep s j).1) := by
  intro s hs
  cases j with
  | release k inc src rec =>
    simp only [Machine.jobStep, List.singleton_append, applyAll_cons]
    split
    · exact hP.eff (.ledger ..) (hP.eff (.hook ..) hs)
    · exact hP.eff (.hook ..) hs
  | serve k =>
    simp only [Machine.jobStep]
    split
    · exact hs
    · split
      · exact hP.grant _ _ _ ((Eff.Completes.hook ..).chute_eq s) (hP.eff (.hook ..) hs)
      · exact hs
  | record k inc src => exact hP.eff (.ledger ..) hs
  | complete h r => exact hs
  | reply h r => exact hP.deliver h r s hs

theorem CompletionInvariant.runJobs (n : Nat) (l : List Job) : (runJobs n l).Keeps P := by
  induction n generalizing l with
  | zero => exact Act.Keeps.none
  | succ n ih =>
    cases l with
    | nil => exact Act.Keeps.none
    | cons j l => exact fun s hs => Act.Keeps.seq (fun _ ht => hP.jobStep j _ ht) (ih _) s hs

theorem CompletionInvariant.jobs (l : List Job) : (jobs l).Keeps P := fun s => hP.runJobs _ l s

theorem CompletionInvariant.releaseHook (k inc src : Nat) (recorded : Bool) : (releaseHook k inc src recorded).Keeps P := hP.jobs _

theorem CompletionInvariant.dropWaiters (p : Waiter → Bool) : (dropWaiters p).Keeps P := fun s hs =>
  Act.Keeps.seq (fun _ ht => hP.effs (fun e he => by obtain ⟨x, _, rfl⟩ := List.mem_map.1 he; exact .hook ..) ht) (hP.jobs _) s hs

end

end Sys2Proof.Machine
end

section
/-! The reset of a chute (R300, R303), and STOPPED (R285): what they leave of the other parts of the state. -/
namespace Sys2Proof.Machine

/-! ### Tables and chutes -/

/-- An entry written back as it stands changes nothing. -/
theorem Tab.put_look {α : Type} [DecidableEq α] (d : α) (t : Tab α) (k : Nat) (h : Tab.wf d t = true) : Tab.put d t k (Tab.look d t k) = t := by
  induction t with
  | nil => simp [Tab.put, Tab.look, Tab.drop]
  | cons x t ih =>
    obtain ⟨i, v⟩ := x
    obtain ⟨hv, _, ht⟩ := (Tab.wf_cons d i v t).1 h
    rcases Nat.lt_trichotomy k i with hlt | rfl | hgt
    · simp [Tab.put, Tab.look, Tab.drop, hlt, Nat.ne_of_lt hlt]
    · simp [Tab.put, Tab.look, Tab.ins, hv]
    · have hput := ih ht
      have hne : k ≠ i := Nat.ne_of_gt hgt
      have hge : ¬ k < i := Nat.lt_asymm hgt
      unfold Tab.put at hput ⊢
      simp only [Tab.look, Tab.drop, Tab.ins, hne, hge, if_false]
      split
      next hd => rw [if_pos hd] at hput; rw [hput]
      next hd => rw [if_neg hd] at hput; rw [hput]

theorem State.withChute_chute (s : State) (i : Nat) (h : Tab.wf Chute.reset s.chutes = true) : s.withChute i (s.chute i) = s := by
  unfold State.withChute State.chute
  rw [Tab.put_look Chute.reset s.chutes i h]

theorem markStopped_chute (s : State) (h : Tab.wf Chute.reset s.chutes = true) (j : Nat) :
    (applyAll (markStopped s) s).chute j = { s.chute j with stopped := ((applyAll (markStopped s) s).chute j).stopped } := by
  refine (applyAll_keeps_of (P := fun t => Tab.wf Chute.reset t.chutes = true ∧ t.chute j = { s.chute j with stopped := (t.chute j).stopped })
    (markStopped s) (fun e he t ht => ?_) s ⟨h, rfl⟩).2
  obtain ⟨i, _, rfl⟩ := List.mem_map.1 he
  obtain ⟨hcanonical, hchute⟩ := ht
  refine ⟨Tab.wf_put _ _ _ _ hcanonical, ?_⟩
  rw [chute_after_chute t i j _ hcanonical]
  split
  next hji => rw [hji]
  next => exact hchute

/-! ### Resets of chutes -/

/-- What the reset of a chute ends before it disables the chute (R300, R303). -/
def endWork (i : Nat) : Act := Act.all [giveBack i, endWaits i, endShared i, withdraw i]

/-- A chute as its reset leaves it: its settings, and one more enabling. -/
def Chute.afterReset (c : Chute) : Chute :=
  { c with
    enable := false
    blocked := false
    stopped := false
    head := 0
    replyIndex := 0
    replyHead := 0
    tail := 0
    owed := 0
    granted := none
    passes := 0
    promoted := 0
    fetched := []
    epoch := c.epoch + 1 }

/-- A state whose chute is disabled with its work ended. -/
def State.closedChute (s : State) (i : Nat) : State :=
  { s.withChute i (s.chute i).afterReset with intake := s.intake.filter (· != i) }

/-- The reset of a chute ends its work, then disables it. -/
theorem applyAll_resetChute (i : Nat) (s : State) : applyAll (resetChute i s) s = (applyAll (endWork i s) s).closedChute i := by
  unfold resetChute endWork
  simp only [Act.all_cons, Act.all_nil, applyAll_seq, Act.none_apply, applyAll_nil]
  generalize applyAll (withdraw i _) _ = t
  rfl

section
variable {P : State → Prop} (hP : CompletionInvariant P)
include hP

theorem CompletionInvariant.giveBack (i : Nat) : (giveBack i).Keeps P := by
  intro s hs
  unfold Machine.giveBack
  split
  · exact hs
  · rw [applyAll_seq]
    exact hP.releaseHook _ _ _ _ _ (hP.chute rfl hs)

theorem CompletionInvariant.endWaits (hjoin : ∀ s v, P s → P (applyEff s (.joining v))) (i : Nat) : (endWaits i).Keeps P := by
  intro s hs
  unfold Machine.endWaits
  refine Act.Keeps.seq (fun t ht => ?_) (hP.dropWaiters _) s hs
  have hstarted : ∀ l, P (applyEff t (.started l)) := fun l => hP.eff (.started l) ht
  simp only [Act.of_apply, applyAll_cons]
  split
  · exact hjoin _ _ (hstarted _)
  · exact hstarted _

theorem CompletionInvariant.unwait (n : Dword) : (unwait n).Keeps P := by
  intro s hs
  simp only [Machine.unwait]
  split
  · exact hs
  · refine Act.Keeps.seq (fun t ht => ?_) (hP.dropWaiters _) s hs
    exact hP.eff (.twin _) (hP.eff (.started _) ht)

theorem CompletionInvariant.giveNumber (w : TwinWork) : (giveNumber w).Keeps P := by
  intro s hs
  unfold Machine.giveNumber
  split
  · exact hs
  · refine Act.Keeps.seq (fun t ht => ?_) (hP.completes (sendTwin_completes _ _ _)) s hs
    exact hP.eff (.twin _) ht

theorem CompletionInvariant.endShared (i : Nat) : (endShared i).Keeps P := by
  intro s hs
  refine Act.Keeps.each (fun n => ?_) (sharedWaits s i) s hs
  split
  · exact (hP.giveNumber _).seq (hP.unwait n)
  · exact hP.completes (sendTwin_completes _ _ _)

theorem CompletionInvariant.withdraw (i : Nat) : (withdraw i).Keeps P := fun s =>
  Act.Keeps.each (fun _ => hP.completes (sendTwin_completes _ _ _)) _ s

theorem CompletionInvariant.endWork (hjoin : ∀ s v, P s → P (applyEff s (.joining v))) (i : Nat) : (endWork i).Keeps P :=
  (hP.giveBack i).seq ((hP.endWaits hjoin i).seq ((hP.endShared i).seq ((hP.withdraw i).seq Act.Keeps.none)))

end

/-- What the end of a chute's work leaves of a state: all but what completions reach and a DOMAIN_JOIN that waits. -/
def State.beyondChuteReset (s : State) : State := { s.beyondReplies with joining := none }

/-- A state that work of chutes may have left of `s₀` by its end. -/
structure WorkEnded (s₀ s : State) : Prop where
  rest : s.beyondChuteReset = s₀.beyondChuteReset
  canonical : Tab.wf Chute.reset s.chutes = true
  chute : ∀ i, (s.chute i).beyondReplies = (s₀.chute i).beyondReplies

theorem WorkEnded.completionInvariant (s₀ : State) : CompletionInvariant (WorkEnded s₀) where
  eff {s e} he hs :=
    { rest := (congrArg (fun t : State => { t with joining := none }) (he.beyondReplies_eq s)).trans hs.rest
      canonical := he.chutes_eq s ▸ hs.canonical
      chute := fun i => he.chute_eq s i ▸ hs.chute i }
  chute {s i v} hv hs :=
    { rest := hs.rest
      canonical := Tab.wf_put _ _ _ _ hs.canonical
      chute := fun j => by
        rw [chute_after_chute s i j v hs.canonical]
        split
        next hji => rw [hv, hji, hs.chute]
        next => exact hs.chute j }

theorem endWork_workEnded (i : Nat) (s : State) (h : Tab.wf Chute.reset s.chutes = true) : WorkEnded s (applyAll (endWork i s) s) :=
  (WorkEnded.completionInvariant s).endWork (fun _ _ hs => ⟨hs.rest, hs.canonical, hs.chute⟩) i s ⟨rfl, h, fun _ => rfl⟩

end Sys2Proof.Machine
end

section
/-! Registers of chutes and of hooks (R405 to R407), and the state after reset. -/
namespace Sys2Proof.Machine

theorem chuteIx_lt (p : PortId) (k : Fin 64) : chuteIx p k < 128 := by
  unfold chuteIx
  omega

/-! ### Chute registers -/

/-- A chute with the fields that a write of its control word gives it. -/
def Chute.configured (c : Chute) (v : Dword) : Chute :=
  { c with
    log2N := v.extractLsb' 0 5
    log2Replies := v.extractLsb' 8 5
    cls := v.extractLsb' 16 2
    vector := v.extractLsb' 24 6 }

/-- The bits of a word as a field. -/
theorem ofNat_bits (w : Dword) {l n hi : Nat} (h : hi + 1 = l + n) : BitVec.ofNat n (bits w.toNat hi l) = w.extractLsb' l n := by
  apply BitVec.eq_of_toNat_eq
  rw [bits, h, Nat.add_sub_cancel_left, BitVec.toNat_ofNat, Nat.mod_mod, BitVec.extractLsb'_toNat, Nat.shiftRight_eq_div_pow]

/-- A control word with ENABLE = 1. -/
def withEnable (v : Dword) : Dword := v ||| BitVec.ofNat 64 (2 ^ 32)

theorem getLsbD_withEnable (v : Dword) (i : Nat) : (withEnable v).getLsbD i = (v.getLsbD i || decide (i = 32)) := by
  rw [withEnable, BitVec.getLsbD_or, BitVec.getLsbD_ofNat, Nat.testBit_two_pow]
  congr 1
  grind

/-- A field below bit 32 of a control word is as written. -/
theorem extractLsb'_withEnable (v : Dword) {l n : Nat} (h : l + n ≤ 32) : (withEnable v).extractLsb' l n = v.extractLsb' l n := by
  ext i hi
  have hne : l + i ≠ 32 := by omega
  simp [getLsbD_withEnable, hne]

theorem bit_withEnable (v : Dword) : bit (withEnable v).toNat 32 = true := by
  have h : (withEnable v).getLsbD 32 = true := by simp [getLsbD_withEnable]
  rw [BitVec.getLsbD, Nat.testBit_eq_decide_div_mod_eq] at h
  simpa [bit] using h

/-- ENABLE = 1 at a disabled chute. -/
theorem writeChuteControl_enable (i : Nat) (v : Dword) (s : State) (h : (s.chute i).enable = false) :
    writeChuteControl i ⟨true, true, (withEnable v).toNat⟩ s =
      [.chute i (if inReset s (srcChute i) then (s.chute i).configured v else ((s.chute i).configured v).enabled)] := by
  have hone : RegWrite.one ⟨true, true, (withEnable v).toNat⟩ 32 = true := bit_withEnable v
  have hfield {l n hi : Nat} (hhi : hi + 1 = l + n) (hlow : l + n ≤ 32) :
      BitVec.ofNat n (bits (withEnable v).toNat hi l) = v.extractLsb' l n :=
    (ofNat_bits _ hhi).trans (extractLsb'_withEnable v hlow)
  unfold writeChuteControl
  extract_lets c c1
  have hc1 : c1 = c.configured v := by
    simp only [c1, if_true, Chute.configured, hfield (l := 0) (n := 5) (hi := 4), hfield (l := 8) (n := 5) (hi := 12),
      hfield (l := 16) (n := 2) (hi := 17), hfield (l := 24) (n := 6) (hi := 29), Nat.reduceAdd, Nat.reduceLeDiff]
  rw [if_neg (by simp [c, h]), hone, hc1]
  cases inReset s (srcChute i) <;> rfl

theorem Chute.ok_iff (c : Chute) :
    c.ok = true ↔ 4 ≤ c.log2N.toNat ∧ c.log2N.toNat ≤ 16 ∧ 4 ≤ c.log2Replies.toNat ∧ c.log2Replies.toNat ≤ 16 := by
  simp [Chute.ok, and_assoc]

theorem Chute.enabled_of_ok (c : Chute)
    (h : 4 ≤ c.log2N.toNat ∧ c.log2N.toNat ≤ 16 ∧ 4 ≤ c.log2Replies.toNat ∧ c.log2Replies.toNat ≤ 16) :
    c.enabled = { c with
      enable := true
      cfgBad := false
      blocked := false
      stopped := false
      head := 0
      tail := 0
      replyIndex := 0
      replyHead := 0
      owed := 0
      granted := none
      passes := 0
      promoted := 0
      fetched := [] } := if_pos (c.ok_iff.2 h)

theorem Chute.enabled_of_not_ok (c : Chute)
    (h : ¬ (4 ≤ c.log2N.toNat ∧ c.log2N.toNat ≤ 16 ∧ 4 ≤ c.log2Replies.toNat ∧ c.log2Replies.toNat ≤ 16)) :
    c.enabled = { c with cfgBad := true } := if_neg (mt c.ok_iff.1 h)

/-- A write that covers the upper half with ENABLE = 0. -/
theorem writeChuteControl_disabled (i : Nat) (s : State) (h : (s.chute i).enable = false) :
    writeChuteControl i ⟨false, true, 0⟩ s = [.chute i (s.chute i)] := by
  simp [writeChuteControl, h, RegWrite.one, bit]

theorem writeChuteControl_disable (i : Nat) (s : State) (h : (s.chute i).enable = true) :
    writeChuteControl i ⟨false, true, 0⟩ s = beginReset (BitVec.ofNat 16 (srcChute i)) [] [] s := by
  simp [writeChuteControl, h, bit]

/-! ### Function IDs of chutes -/

theorem toNat_srcChute {i : Nat} (hi : i < 128) : (BitVec.ofNat 16 (srcChute i)).toNat = srcChute i := by
  rw [BitVec.toNat_ofNat, srcChute]
  omega

theorem resetEffect_srcChute {i : Nat} (hi : i < 128) : resetEffect (BitVec.ofNat 16 (srcChute i)) = resetChute i := by
  have hclass : srcChute i / 4096 = 5 := by unfold srcChute; omega
  have hindex : srcChute i % 4096 = i := by unfold srcChute; omega
  simp only [resetEffect, toNat_srcChute hi, hclass, hindex]

/-- A state with the reset of a chute in progress, which no command waits for. -/
def State.listingReset (s : State) (i : Nat) : State := { s with resets := s.resets ++ [⟨BitVec.ofNat 16 (srcChute i), [], []⟩] }

/-- The reset of a chute, when none runs: it is listed, then the chute's work ends. -/
theorem applyAll_beginReset_chute {i : Nat} (hi : i < 128) (s : State) (h : inReset s (srcChute i) = false) :
    applyAll (beginReset (BitVec.ofNat 16 (srcChute i)) [] [] s) s =
      (applyAll (endWork i (s.listingReset i)) (s.listingReset i)).closedChute i := by
  simp only [beginReset, toNat_srcChute hi, h, resetEffect_srcChute hi]
  exact (applyAll_seq _ _ s).trans (applyAll_resetChute i _)

/-- What the reset of a chute leaves. -/
theorem WorkEnded.closedChute {s₀ t : State} (h : WorkEnded s₀ t) (i : Nat) :
    (t.closedChute i).resets = s₀.resets ∧ (t.closedChute i).mem = s₀.mem ∧ (t.closedChute i).chute i = (t.chute i).afterReset
      ∧ (t.chute i).ringBase = (s₀.chute i).ringBase := by
  have hresets := congrArg (fun r : State => r.resets) h.rest
  have hmem := congrArg (fun r : State => r.mem) h.rest
  have hbase := congrArg (fun c : Chute => c.ringBase) (h.chute i)
  exact ⟨hresets, hmem, Tab.look_put_self _ _ _ _ h.canonical, hbase⟩

/-! ### Hooks by register -/

theorem hook_releasedHook (s : State) (k inc src : Nat) (hw : Tab.wf Hook.reset s.hooks = true) :
    (s.releasedHook k inc src).hook k = { s.hook k with count := releasedCount (s.hook k).count inc } := by
  have hhooks : (s.releasedHook k inc src).hooks =
      Tab.put Hook.reset s.hooks k { s.hook k with count := releasedCount (s.hook k).count inc } := by
    simp only [State.releasedHook]
    split <;> rfl
  rw [State.hook, hhooks, Tab.look_put_self _ _ _ _ hw]

/-- A release on a hook that no one waits on. -/
theorem applyAll_releaseHook {k : Nat} (hk : 64 ≤ k ∧ k < 4096) (inc src : Nat) (s : State) (hw : Tab.wf Hook.reset s.hooks = true)
    (hnone : (s.hook k).waiters = []) : applyAll (releaseHook k inc src false s) s = s.releasedHook k inc src := by
  obtain ⟨n, hfuel⟩ : ∃ n, jobFuel s 1 = n + 3 := ⟨jobFuel s 1 - 3, by unfold jobFuel; omega⟩
  have hrelease : applyAll (jobStep s (.release k inc src false)).1 s = s.releasedHook k inc src := by
    simp only [jobStep, State.releasedHook, List.singleton_append, applyAll_cons, applyEff_hook, hk, and_self, if_true]
    split <;> rfl
  have hwaiters : ((s.releasedHook k inc src).hook k).waiters = [] := by rw [hook_releasedHook s k inc src hw, hnone]
  simp only [releaseHook, jobs, List.length_singleton, hfuel, runJobs, applyAll_seq, Act.of_apply, hrelease]
  simp [jobStep, runJobs, hwaiters]

theorem pairedWrite_alone (own : Option PortId) (w : TwinWork) (now : Act) (s : State) (h : s.twin.bound = false) :
    pairedWrite own w now s = now s := by
  simp [pairedWrite, h]

/-! ### Register writes as the host makes them -/

theorem regWrite_low {o : Nat} (h : o % 8 = 0) (v : Nat) : regWrite o false v = ⟨true, false, v % 2 ^ 32⟩ := by
  simp [regWrite, h]

section
variable {p : PortId} {s : State} (hopen : barOpen s p.val = true)
include hopen

theorem exec_tail (k : Fin 64) (v : Word) : exec (.tail p k v) s = .next (applyAll (writeTail (chuteIx p k) v s) s) := by
  simp only [exec, execTail, Act.run_eq, hopen, if_true]

theorem exec_replyHead (k : Fin 64) (v : Word) :
    exec (.replyHead p k v) s = .next (applyAll (writeReplyHead (chuteIx p k) v s) s) := by
  simp only [exec, execReplyHead, Act.run_eq, hopen, if_true]

theorem exec_chuteEnable (k : Fin 64) (v : Dword) :
    exec (.chuteEnable p k v) s = .next (applyAll (writeChuteControl (chuteIx p k) ⟨true, true, (withEnable v).toNat⟩ s) s) := by
  simp only [exec, execChuteEnable, Act.run_eq, hopen, if_true, withEnable]

theorem exec_chuteDisable (k : Fin 64) :
    exec (.chuteDisable p k) s = .next (applyAll (writeChuteControl (chuteIx p k) ⟨false, true, 0⟩ s) s) := by
  simp only [exec, execChuteDisable, Act.run_eq, hopen, if_true]

theorem exec_hookRegisterWrite (n : BitVec 12) (v : Word) :
    exec (.hookRegisterWrite p n v) s = .next (applyAll (writeHook p.val n.toNat v.toNat s) s) := by
  simp only [exec, execHookRegisterWrite, Act.run_eq, hopen, if_true]

/-- A 4-byte write at the TAIL of a doorbell page. -/
theorem exec_registerWrite_tail (k : Fin 64) (v : Dword) (o : BitVec 24) (ho : o.toNat = 0x10000 + 4096 * k.val) :
    exec (.registerWrite p o 4 v) s = exec (.tail p k (v.setWidth 32)) s := by
  rw [exec_tail hopen]
  have haligned : o.toNat % 4 = 0 := by omega
  have h8 : o.toNat % 8 = 0 := by omega
  have hblock : o.toNat / 8 * 8 = 0x10000 + 4096 * k.val := by omega
  have hk : k.val < 64 := k.isLt
  have hbell : bar0Write p o.toNat (regWrite o.toNat false v.toNat) = writeTail (chuteIx p k) (v.setWidth 32) := by
    have hpage : (0x10000 + 4096 * k.val - 0x10000) / 4096 = k.val := by omega
    have hoffset : (0x10000 + 4096 * k.val) % 4096 = 0 := by omega
    have hvalue : BitVec.ofNat 32 (v.toNat % 2 ^ 32) = v.setWidth 32 := by
      apply BitVec.eq_of_toNat_eq
      simp
    simp only [bar0Write, hblock, regWrite_low h8]
    rw [if_neg (by omega), if_neg (by omega), if_pos (by omega), hpage, hoffset]
    exact congrArg (writeTail (chuteIx p k)) hvalue
  simp [exec, execRegisterWrite, hopen, haligned, hbell]
end

/-- A state as a write of a chute leaves it. -/
theorem applyAll_chute (s : State) (i : Nat) (v : Chute) : applyAll [.chute i v] s = s.withChute i v := rfl

/-- ENABLE = 0 at an enabled chute starts the chute's reset (R303, R405). -/
theorem writeChuteControl_disable_resets {i : Nat} (hi : i < 128) (s : State) (hw : Tab.wf Chute.reset s.chutes = true)
    (henable : (s.chute i).enable = true) (hreset : inReset s (srcChute i) = false) :
    let t := applyAll (writeChuteControl i ⟨false, true, 0⟩ s) s
    t.resets = s.resets ++ [⟨BitVec.ofNat 16 (srcChute i), [], []⟩]
      ∧ (t.chute i).enable = false ∧ (t.chute i).tail = 0 ∧ (t.chute i).ringBase = (s.chute i).ringBase ∧ t.mem = s.mem := by
  rw [writeChuteControl_disable i s henable, applyAll_beginReset_chute hi s hreset]
  obtain ⟨hresets, hmem, hchute, hbase⟩ := (endWork_workEnded i (s.listingReset i) hw).closedChute i
  simp only [hchute]
  exact ⟨hresets, rfl, rfl, hbase, hmem⟩

/-- REPLY_HEAD of an enabled chute moves within the replies written, and what a stop has held may go on (R285, R406). -/
theorem applyAll_writeReplyHead (i : Nat) (v : Word) (s : State) :
    applyAll (writeReplyHead i v s) s =
      let c := s.chute i
      if c.enable = false then s
      else if c.replyIndex - c.replyHead < v - c.replyHead then s.log 0x0304 (srcChute i) (toLE 4 v.toNat)
      else applyAll (markStopped (s.withChute i { c with replyHead := v })) (s.withChute i { c with replyHead := v }) := by
  simp only [writeReplyHead, Bool.not_eq_true']
  split
  · rfl
  · split
    · rfl
    · exact applyAll_seq _ _ s

/-- A write of a hook's COUNT on a device that no twin shares. -/
theorem applyAll_writeHook (p : Nat) (n : BitVec 12) (v : Word) (s : State) (hw : Tab.wf Hook.reset s.hooks = true)
    (halone : s.twin.bound = false) (hnone : (s.hook n.toNat).waiters = []) :
    applyAll (writeHook p n.toNat v.toNat s) s = if n.toNat < 64 then s.log 0x0303 (srcPort p) (toLE 2 n.toNat)
      else if v = 0 then s else s.releasedHook n.toNat v.toNat (srcPort p) := by
  have hzero : v.toNat = 0 ↔ v = 0 := by rw [← BitVec.toNat_inj]; rfl
  unfold writeHook
  split
  · rfl
  next hn =>
    simp only [hzero]
    split
    · rfl
    · rw [pairedWrite_alone _ _ _ s halone, applyAll_releaseHook ⟨by omega, n.isLt⟩ _ _ s hw hnone]

/-- Settles O56. The reset that ENABLE = 0 starts ends the chute's work by completions, which keep memory, the resets in progress and
every chute's settings (`endWork_workEnded`). -/
theorem chuteRegisters : Obligations.ChuteRegisters := by
  unfold Obligations.ChuteRegisters
  intro p k s hinv hopen i c
  have hw : Tab.wf Chute.reset s.chutes = true := hinv.canonical.chutes
  refine ⟨fun v => ?tail, exec_registerWrite_tail hopen k, fun v => ?replyHead, ⟨_, rfl, markStopped_chute s hw⟩, fun v hc => ?enable,
    fun hc => ?disabled, fun hc hreset => ?disable, fun n v halone hnone => ?hook⟩
  case tail =>
    rw [exec_tail hopen, writeTail]
    split <;> rfl
  case replyHead =>
    rw [exec_replyHead hopen, applyAll_writeReplyHead]
  case enable =>
    intro c1
    have hc1 : (s.chute i).configured v = c1 := rfl
    rw [exec_chuteEnable hopen, writeChuteControl_enable i v s hc, applyAll_chute, hc1]
    refine ⟨fun hok hreset => ?_, fun hbad hreset => ?_, fun hreset => ?_⟩
    · rw [hreset, if_neg Bool.false_ne_true, Chute.enabled_of_ok c1 hok]
    · rw [hreset, if_neg Bool.false_ne_true, Chute.enabled_of_not_ok c1 hbad]
    · rw [hreset, if_pos rfl]
  case disabled =>
    rw [exec_chuteDisable hopen, writeChuteControl_disabled i s hc, applyAll_chute, State.withChute_chute s i hw]
  case disable =>
    exact ⟨_, exec_chuteDisable hopen k, writeChuteControl_disable_resets (chuteIx_lt p k) s hw hc hreset⟩
  case hook => rw [exec_hookRegisterWrite hopen, applyAll_writeHook p.val n v s hinv.canonical.hooks halone hnone]

/-! ### The state after reset -/

/-- Settles O5: each table of which it speaks is empty at reset, so that every index of it reads as the part's own reset value. -/
theorem resetState : Obligations.ResetState := by
  unfold Obligations.ResetState
  refine ⟨fun _ => rfl, fun _ => rfl, fun _ => ⟨rfl, rfl, rfl, rfl, rfl, rfl, rfl⟩, fun _ => ⟨rfl, rfl⟩, fun _ => rfl, fun _ => rfl,
    fun _ => rfl, rfl, rfl, rfl, rfl, fun _ => ⟨rfl, rfl⟩, rfl, rfl, rfl, rfl, rfl, rfl, fun _ => rfl, fun _ => rfl, fun _ => rfl,
    fun _ => ⟨rfl, rfl, rfl, rfl, rfl, rfl, rfl, rfl, rfl, rfl, rfl⟩⟩

end Sys2Proof.Machine
end

section
/-! Exact sums (R54, R57, R115): accumulation in any order and in any parts. -/
namespace Sys2Proof.Machine

/-! ### Products on the exact path -/

/-- Two products may be added in either order. -/
theorem Acc.exact_right_comm (w : Int) (a : Acc) (p q : FV) : (a.exact w p).exact w q = (a.exact w q).exact w p := by
  have hsum (x y z : BitVec 96) : x + y + z = x + z + y := by rw [BitVec.add_assoc, BitVec.add_comm y, ← BitVec.add_assoc]
  cases p with
  | nan => rcases q with _ | (_ | _) | _ <;> rfl
  | inf s => cases s <;> rcases q with _ | (_ | _) | _ <;> rfl
  | fin =>
    rcases q with _ | (_ | _) | _
    case fin => exact congrArg (fun i => { a with int := i }) (hsum _ _ _)
    all_goals rfl

theorem Acc.exact_fp (w : Int) (a : Acc) (p : FV) : (a.exact w p).fp = a.fp := by
  rcases p with _ | (_ | _) | _ <;> rfl

theorem Acc.foldl_exact_fp (w : Int) (l : List FV) (a : Acc) : (l.foldl (Acc.exact w) a).fp = a.fp := by
  induction l generalizing a with
  | nil => rfl
  | cons p l ih => exact (ih _).trans (a.exact_fp w p)

/-! ### Partial sums -/

theorem Acc.join_assoc (a b c : Acc) : (a.join b).join c = a.join (b.join c) := by
  simp [Acc.join, BitVec.add_assoc, Bool.or_assoc]

theorem Acc.join_zero (a : Acc) (h : a.fp = none) : a.join Acc.zero = a := by
  cases a
  simp_all [Acc.join, Acc.zero]

/-- A product added is the partial sum of that product alone joined. -/
theorem Acc.exact_eq_join (w : Int) (a : Acc) (p : FV) (h : a.fp = none) : a.exact w p = a.join (Acc.zero.exact w p) := by
  rcases p with _ | (_ | _) | _ <;> simp [Acc.exact, Acc.join, Acc.zero, h]

/-- Products added one by one are their own partial sum joined. -/
theorem Acc.foldl_exact_eq_join (w : Int) (l : List FV) (a : Acc) (h : a.fp = none) :
    l.foldl (Acc.exact w) a = a.join (l.foldl (Acc.exact w) Acc.zero) := by
  induction l generalizing a with
  | nil => exact (a.join_zero h).symm
  | cons p l ih =>
    have hzero : (Acc.zero.exact w p).fp = none := Acc.exact_fp w _ p
    calc (p :: l).foldl (Acc.exact w) a
        = (a.exact w p).join (l.foldl (Acc.exact w) Acc.zero) := ih _ ((a.exact_fp w p).trans h)
      _ = a.join ((Acc.zero.exact w p).join (l.foldl (Acc.exact w) Acc.zero)) := by rw [a.exact_eq_join w p h, Acc.join_assoc]
      _ = a.join ((p :: l).foldl (Acc.exact w) Acc.zero) := by rw [← ih _ hzero]; rfl

/-- Partial sums joined to a sum go on with the products of all of them. -/
theorem Acc.foldl_join_sums (w : Int) (ls : List (List FV)) (a : Acc) (h : a.fp = none) :
    (ls.map (fun l => l.foldl (Acc.exact w) Acc.zero)).foldl Acc.join a = ls.flatten.foldl (Acc.exact w) a := by
  induction ls generalizing a with
  | nil => rfl
  | cons l ls ih =>
    rw [List.flatten_cons, List.foldl_append, ← ih _ ((Acc.foldl_exact_fp w l a).trans h), Acc.foldl_exact_eq_join w l a h]
    rfl

/-! ### Ranges of K -/

/-- Of two adjoining ranges of positions below `k`, the second starts where the first ends, if it is not empty. -/
theorem Prod.accumulate_accumulate (p : Prod) (home g m n : Nat) (w : Int) {k0 k1 k2 : Nat} (a : Acc) (h01 : k0 ≤ k1) (h12 : k1 ≤ k2) :
    p.accumulate home g m n w k1 k2 (p.accumulate home g m n w k0 k1 a) = p.accumulate home g m n w k0 k2 a := by
  unfold Prod.accumulate
  rcases Nat.le_total p.k k1 with hk | hk
  · have hnone : min k2 p.k - k1 = 0 := by omega
    have hall : min k1 p.k - k0 = min k2 p.k - k0 := by omega
    rw [hnone, hall]
    rfl
  · have hstart (i : Nat) : k0 + (min k1 p.k - k0 + i) = k1 + i := by omega
    have hlen : min k2 p.k - k0 = (min k1 p.k - k0) + (min k2 p.k - k1) := by omega
    rw [hlen, List.range_add, List.foldl_append, List.foldl_map]
    simp only [hstart]

/-- Settles O40. On the exact path a product added is a partial sum joined (`Acc.foldl_exact_eq_join`), and joining is associative. -/
theorem exactSums : Obligations.ExactSums := by
  unfold Obligations.ExactSums
  refine ⟨⟨fun w l m a hperm => ?_, fun w ls => ?_⟩, fun p home g m n w k0 k1 k2 a h01 h12 => ?_⟩
  · exact hperm.foldl_eq' (fun p _ q _ a => a.exact_right_comm w p q) a
  · exact Acc.foldl_join_sums w ls Acc.zero rfl
  · exact p.accumulate_accumulate home g m n w a h01 h12

end Sys2Proof.Machine
end

section
/-! Every command is an activity carried out: what each effect keeps, each command keeps. -/
namespace Sys2Proof.Machine

/-- The meaning of every row of the table is an activity run in the state: none stops with a fault, none is refused. -/
theorem exec_effects (c : Instr) (s : State) : ∃ es, exec c s = .next (applyAll es s) := by
  cases c <;> exact ⟨_, rfl⟩

/-- A state that effects may have left of `s`, as far as they concern the queue and the free values: none reaches the queue, and none
gives a free value back. -/
structure QueueKept (s t : State) : Prop where
  pending : t.pending = s.pending
  free : s.free ≤ t.free

theorem applyEff_queueKept (s : State) (e : Eff) : QueueKept s (applyEff s e) := by
  cases e with
  | hook k v =>
    rw [applyEff_hook]
    split <;> exact ⟨rfl, Nat.le_refl _⟩
  | count id n =>
    rw [applyEff_count, State.bump]
    split
    · exact ⟨rfl, Nat.le_refl _⟩
    · split <;> exact ⟨rfl, Nat.le_refl _⟩
  | fresh => exact ⟨rfl, Nat.le_succ _⟩
  | _ => exact ⟨rfl, Nat.le_refl _⟩

theorem applyAll_queueKept (es : List Eff) (s : State) : QueueKept s (applyAll es s) := by
  refine applyAll_keeps (P := QueueKept s) (fun t e ht => ?_) es s ⟨rfl, Nat.le_refl _⟩
  have he := applyEff_queueKept t e
  exact ⟨he.pending.trans ht.pending, Nat.le_trans ht.free he.free⟩

/-- Settles O2. Every command is a list of effects (`exec_effects`), each of which keeps the queue (`applyEff_queueKept`). -/
theorem commandsCompleteAndKeepQueue : Obligations.CommandsCompleteAndKeepQueue := by
  unfold Obligations.CommandsCompleteAndKeepQueue
  intro c s
  obtain ⟨es, hexec⟩ := exec_effects c s
  have hkept := applyAll_queueKept es s
  exact ⟨_, hexec, hkept.pending, hkept.free⟩

end Sys2Proof.Machine
end

section
/-! A margin probe's failure (R317, R376): sheeting the core discards work, and giving back an array that a LIVE record had taken reads what
was parked, so that a fault of a bank may add another sheeted unit. -/
namespace Sys2Proof.Machine

/-! ### A bank's third fault -/

/-- A bank that becomes permanently faulty is one more sheeted unit (R77, R376, R377, R379). -/
theorem retireBank_sheetedInService {k : Nat} (reason : Nat) {s : State} (hplace : (s.bank k).inPlace = false)
    (hcopy : (s.bank k).copy = none) :
    (applyAll (retireBank k reason s) s).flash.sheetedInService = s.flash.sheetedInService + 1 := by
  simp only [retireBank, hplace, hcopy, Option.any_none, Bool.false_eq_true, or_self, if_false]
  split
  · unfold bankGrown
    split <;> rfl
  · unfold sheetInPlace
    split <;> rfl

theorem bankFault_sheetedInService {k : Nat} {s : State} (hw : Tab.wf Bank.reset s.banks = true)
    (hthird : thirdFault (s.bank k).health = true) (hplace : (s.bank k).inPlace = false) (hcopy : (s.bank k).copy = none) :
    (applyAll (bankFault k s) s).flash.sheetedInService = s.flash.sheetedInService + 1 := by
  have hbank (v : Bank) : (applyAll [.bank k v] s).bank k = v := Tab.look_put_self _ _ _ _ hw
  simp only [bankFault, applyAll_seq, Act.of_apply, hthird, if_true]
  refine (retireBank_sheetedInService 1 ?_ ?_).trans rfl <;> rw [hbank] <;> assumption

/-- The bank of a word whose reading fails once, and whose retry passes, is sheeted if that fault is its third (R74, R75, R375). -/
theorem meetWord_sheetedInService {w k : Nat} {s : State} (hw : Tab.wf Bank.reset s.banks = true)
    (hecc : Tab.look none s.ecc w = some .transient) (hkey : bankKey (8 * w) = some k)
    (hthird : thirdFault (bankOps s (s.bank k)).health = true) (hplace : (s.bank k).inPlace = false) (hcopy : (s.bank k).copy = none) :
    (applyAll (meetWord w s) s).flash.sheetedInService = s.flash.sheetedInService + 1 := by
  have hbank {t : State} (ht : t.banks = Tab.put Bank.reset s.banks k (bankOps s (s.bank k))) : t.bank k = bankOps s (s.bank k) := by
    rw [State.bank, ht, Tab.look_put_self _ _ _ _ hw]
  simp only [meetWord, hecc, Act.all_cons, Act.all_nil, applyAll_seq, Act.of_apply, eccRecord, bankCatchUp, eccFault, hkey, Act.none_apply,
    applyAll_nil]
  refine (bankFault_sheetedInService (Tab.wf_put _ _ _ _ hw) ?_ ?_ ?_).trans rfl
  · rw [hbank rfl]
    exact hthird
  · rw [hbank rfl]
    exact hplace
  · rw [hbank rfl]
    exact hcopy

/-! ### What a job's stop leaves of the flash -/

/-- Effects that write no part of the flash. -/
theorem applyAll_flash {es : List Eff} (h : ∀ e ∈ es, ∀ s, (applyEff s e).flash = s.flash) (s : State) : (applyAll es s).flash = s.flash :=
  applyAll_keeps_of (P := fun t => t.flash = s.flash) es (fun e he t ht => (h e he t).trans ht) s rfl

theorem setRun_flash (n : Nat) (f : Run → Run) (s : State) : (applyAll (setRun n f s) s).flash = s.flash := by
  unfold setRun
  split <;> rfl

theorem clearXfers_flash (n : Nat) (s : State) : (applyAll (clearXfers n s) s).flash = s.flash := rfl

theorem clearArrays_flash (n r : Nat) (s : State) : (applyAll (clearArrays n r s) s).flash = s.flash :=
  applyAll_flash (List.forall_mem_map.2 fun _ _ _ => rfl) s

theorem clearSlotArrays_flash (n : Nat) (s : State) : (applyAll (clearSlotArrays n s) s).flash = s.flash := by
  unfold clearSlotArrays
  split
  · rfl
  · refine Act.Keeps.each (P := fun t => t.flash = s.flash) (fun r t ht => ?_) _ s rfl
    exact (clearArrays_flash n r t).trans ht

/-- Cores whose array a LIVE record of slot `n` has taken. -/
def takenFor (n : Nat) (s : State) : List Nat := (s.cores.filter (fun x => x.2.live.any (fun b => b.1 == n))).map (·.1)

/-- Of what leaves the cores, only what was parked there reaches the flash. -/
theorem clearCores_flash (n : Nat) (s : State) :
    (applyAll (clearCores n s) s).flash = (applyAll (Act.each unparkCore (takenFor n s) s) s).flash := by
  rw [clearCores, applyAll_seq]
  refine applyAll_flash (List.forall_mem_append.2 ⟨?_, ?_⟩) _ <;> exact List.forall_mem_map.2 fun _ _ _ => rfl

theorem unparkCore_flash (k : Nat) (s : State) :
    (applyAll (unparkCore k s) s).flash =
      (applyAll (Act.each (fun x => meetRange (x.addr.getD 0) x.size) (s.core k).array.parked s) s).flash := by
  rw [unparkCore, applyAll_seq]
  rfl

/-- A state whose slot `n` has no collectives and no waiting record any more. -/
def State.withoutWaits (n : Nat) (s : State) : State :=
  let t := applyAll (endCollectives n s) s
  applyAll (dropWaiters (fun w => match w with
    | .record m _ => m.val == n
    | _ => false) t) t

theorem stopJob_flash (fid : Half) (n : Nat) (s : State) :
    (applyAll (stopJob fid n s) s).flash =
      (applyAll (Act.each unparkCore (takenFor n (s.withoutWaits n)) (s.withoutWaits n)) (s.withoutWaits n)).flash := by
  simp only [stopJob, discardWork, Act.all_cons, Act.all_nil, applyAll_seq, Act.none_apply, applyAll_nil, setRun_flash, clearXfers_flash,
    clearSlotArrays_flash, clearCores_flash]
  rfl

/-- A state with a core under its dust sheet and the areas of its homes on other cores. -/
def State.resheeted (c reason : Nat) (s : State) : State :=
  let t := applyAll (sheetCore c reason s) s
  applyAll (reseat s t) t

/-- A core whose retirement abandons an exchange that concerns one job, and that no lane split waits on (R33, R376). -/
theorem applyAll_retireCore {c n : Nat} (reason : Nat) {s : State} (hgood : goodCore s c = true) (hlanes : (s.core c).laneRuns = [])
    (hruns : exchangeRuns s c = [n]) :
    applyAll (retireCore c reason s) s =
      applyAll (stopJob (BitVec.ofNat 16 (srcCore c)) n (s.resheeted c reason)) (s.resheeted c reason) := by
  simp only [retireCore, moveSplits, hgood, hlanes, hruns, if_true, Act.all_cons, Act.all_nil, Act.each_cons, Act.each_nil, applyAll_seq,
    Act.none_apply, applyAll_nil]
  rfl

/-! ### A probe's failure that sheets a bank as well -/

/-- A plan of one home, without records. -/
def onePlan : Plan where
  cls := 2
  imageLength := 512
  seed := 0
  homes := 1
  tensors := []
  records := []
  programs := []
  landing := ⟨0, 0, 0, 0, [], true⟩
  resource := ⟨0, 0, 0, 0, 0, 0, true⟩
  pageSets := []
  memberSets := []
  digest := List.replicate 64 0
  rsvOk := true

/-- Slot 0 with a run of `onePlan`. -/
def runningSlot : Slot := { Slot.reset with
  plan := some onePlan
  run := some (newRun State.reset ⟨0, 0, 0, 0, false, false, false, false, 0, 0, 0, none⟩ 0 none) }

/-- A carry of record 0 of slot 0, parked at the start of hub A's SRAM. -/
def strayCarry : Parked := ⟨.carry0, ⟨0, 0, 0, 0, 0, false⟩, some hubBase, [Acc.zero], none⟩

/-- Core 0 is probed during an exchange with core 12 that concerns slot 0. A LIVE record of that slot has the array of core 1, and
what it parked lies in hub A's SRAM, which no clause of the invariant rules out: in a word with a stored error, of a bank whose next fault
is its third. -/
def parkedInHub : State := { State.reset with
  slots := [(0, runningSlot)]
  cores := [(0, { Core.reset with probe := true }), (1, { Core.reset with
    live := some (0, 0)
    array := { MatArray.reset with parked := [strayCarry] } })]
  tiles := (0, { Tile.reset 0 with exchange := some (0, 12) }) :: List.drop 1 Tile.shipped
  ecc := [(hubBase / 8, some .transient)]
  banks := [(5120, { Bank.reset with health := ⟨0, [Config.free 0, 0]⟩ })] }

/-- The probe has ended. -/
def probeEnded : State := parkedInHub.withCore 0 { parkedInHub.core 0 with probe := false }

/-- The core is sheeted, and what the job waited for is discarded: the array of core 1 is about to go back. -/
def beforeReturn : State := (probeEnded.resheeted 0 2).withoutWaits 0

theorem parkedInHub_inv : parkedInHub.Inv where
  canonical := by constructor <;> rfl
  patient := ⟨by decide, by decide⟩
  counted := fun _ hx => nomatch hx
  recorded := ⟨Nat.zero_le _, fun _ _ hr => nomatch hr⟩
  steward := fun _ hx => nomatch hx

theorem probeEnded_exchangeRuns : exchangeRuns probeEnded 0 = [0] := by decide +kernel
theorem beforeReturn_takenFor : takenFor 0 beforeReturn = [1] := by decide +kernel
theorem beforeReturn_parked : (beforeReturn.core 1).array.parked = [strayCarry] := by decide +kernel
theorem beforeReturn_rails : beforeReturn.rails = [] := by decide +kernel
theorem beforeReturn_eccIn : eccIn beforeReturn hubBase 12 = [(hubBase, hubBase / 8, .transient)] := by decide +kernel
theorem beforeReturn_sheetedInService : beforeReturn.flash.sheetedInService = 1 := by decide +kernel

/-- The error's reading is the third fault of its bank, whatever number of operations the foreground has given the bank. -/
theorem beforeReturn_meetWord : (applyAll (meetWord (hubBase / 8) beforeReturn) beforeReturn).flash.sheetedInService = 2 := by
  have hbanks : beforeReturn.banks = parkedInHub.banks := rfl
  have hbank : beforeReturn.bank 5120 = { Bank.reset with health := ⟨0, [Config.free 0, 0]⟩ } := by
    rw [State.bank, hbanks]
    rfl
  have hfree : beforeReturn.free = 0 := by decide +kernel
  have hthird : thirdFault (bankOps beforeReturn (beforeReturn.bank 5120)).health = true := by
    simp [hbank, bankOps, hfree, thirdFault]
  have hecc : Tab.look none beforeReturn.ecc (hubBase / 8) = some .transient := by decide +kernel
  have hwf : Tab.wf Bank.reset beforeReturn.banks = true := by
    rw [hbanks]
    rfl
  rw [meetWord_sheetedInService hwf hecc (by decide) hthird (by rw [hbank]; rfl) (by rw [hbank]; rfl), beforeReturn_sheetedInService]

theorem probeEnded_retireCore : (applyAll (retireCore 0 2 probeEnded) probeEnded).flash.sheetedInService = 2 := by
  have hwake : wakeRange hubBase 12 beforeReturn = [] := by rw [wakeRange, beforeReturn_rails]; rfl
  have haddr : strayCarry.addr = some hubBase := rfl
  have hsize : strayCarry.size = 12 := rfl
  have hgood : goodCore probeEnded 0 = true := by decide +kernel
  rw [applyAll_retireCore 2 hgood rfl probeEnded_exchangeRuns, stopJob_flash]
  change (applyAll (Act.each unparkCore (takenFor 0 beforeReturn) beforeReturn) beforeReturn).flash.sheetedInService = 2
  simp only [beforeReturn_takenFor, beforeReturn_parked, Act.each_cons, Act.each_nil, applyAll_seq, Act.none_apply, applyAll_nil,
    unparkCore_flash, haddr, Option.getD_some, hsize, meetRange, hwake, beforeReturn_eccIn, beforeReturn_meetWord]

/-- Refutes O59: the failed probe of `parkedInHub` sheets the core, and giving the array back sheets a bank, so that the flash counts two
units. -/
theorem not_railsRotationProbes : ¬ Obligations.RailsRotationProbes := by
  unfold Obligations.RailsRotationProbes
  rintro ⟨-, -, hprobes⟩
  obtain ⟨-, -, -, hfails, -⟩ := hprobes ⟨0, 0⟩ parkedInHub parkedInHub_inv
  have hsound : CoresSound parkedInHub := by simp [CoresSound, parkedInHub, Core.reset]
  obtain ⟨t, hexec, -, -, hcount⟩ := hfails rfl (by decide +kernel) hsound
  have ht : applyAll (retireCore 0 2 probeEnded) probeEnded = t := Host.Outcome.next.inj hexec
  rw [← ht, probeEnded_retireCore] at hcount
  exact absurd hcount (by decide +kernel)

end Sys2Proof.Machine
end

section
/-! POWER_UP while something keeps the rails off (R446, R449). -/
namespace Sys2Proof.Machine

/-- A rise of PWR_EN that a trip, or a cause that asks for PWR_EN low, holds off: the rails stay down, and the pin's level is noted. -/
theorem exec_powerUp_heldOff (hubFails : Bool) (failed : List CoreId) {s : State} (hrails : s.power.rails = false)
    (hheld : s.power.needLow = true ∨ s.power.tripped = true) :
    exec (.powerUp hubFails failed) s = .next { s with power := { s.power with pwrEn := true } } := by
  simp only [exec, execPowerUp, Act.run_eq, hrails, Bool.false_eq_true, if_false, Bool.or_eq_true, hheld, if_true, applyAll_cons, applyAll_nil,
    applyEff_power]

/-- What is left after a trip at sensor 0, and what its PWR_EN low leaves of that. -/
def thermallyTripped : State := { State.reset with
  sensors := [(0, ⟨110000, 2⟩)]
  power := { Power.reset with
    rails := false
    fault := true
    needLow := true
    tripped := true
    hot := [0]
    afterTrip := true } }
def thermallyTrippedLow : State := { thermallyTripped with power := { thermallyTripped.power with
  pwrEn := false
  needLow := false } }

/-- `thermallyTrippedLow` is reached from reset: two samples of 110 °C trip, and the carrier lowers PWR_EN. -/
theorem exec_sensorSample_trips : exec (.sensorSample ⟨[(0, 110000), (0, 110000)], []⟩) State.reset = .next thermallyTripped := rfl
theorem exec_pwrEnFall_thermallyTripped : exec .pwrEnFall thermallyTripped = .next thermallyTrippedLow := rfl

/-- Refutes O60: a POWER_UP that a trip holds off does not leave `thermallyTrippedLow` as it is, since PWR_EN then reads high. -/
theorem not_powerAndPins : ¬ Obligations.PowerAndPins := by
  unfold Obligations.PowerAndPins
  rintro ⟨-, hpowerUp, -⟩
  obtain ⟨-, hheld, -⟩ := hpowerUp [] false thermallyTrippedLow
  have hsame := hheld rfl (.inr rfl)
  rw [exec_powerUp_heldOff false [] rfl (.inr rfl)] at hsame
  have hpin : true = false := congrArg (fun s : State => s.power.pwrEn) (Host.Outcome.next.inj hsame)
  exact Bool.noConfusion hpin

end Sys2Proof.Machine
end

section
/-! The commands of codec streams: STREAM_OPEN, STREAM_SUBMIT, STREAM_CONTROL, RACK_MARK and STREAM_CLOSE (R359 to R365, R369, R371). -/
namespace Sys2Proof.Machine

/-! ### Commands that are served -/

theorem command_of_serves {s : State} {inRecovery : Bool} (hs : Serves s inRecovery) (h : Hdr) (a : Act) : command h inRecovery a s = a s := by
  obtain ⟨hclock, hfirmware, htwin⟩ := hs
  have hrecovery : (s.firmware.recovery && !inRecovery) = false := by
    cases hr : s.firmware.recovery
    · rfl
    · simp [hfirmware hr]
  have hdegraded : (s.twin.bound && s.twin.steppedOut && s.twin.linkLost) = false := by simpa using htwin
  simp [command, hclock, hrecovery, hdegraded]

theorem hostCommand_of_servesHost {s : State} {h : Hdr} {inRecovery : Bool} (hs : ServesHost s h inRecovery) (a : Act) :
    hostCommand h inRecovery a s = a s := by
  rw [hostCommand, hs.dma, if_neg Bool.false_ne_true, command_of_serves hs.serves]

@[simp] theorem applyAll_complete (h : Hdr) (r : Reply) (s : State) : applyAll (complete h r s) s = afterReply h r s := rfl
@[simp] theorem applyAll_finish (h : Hdr) (status : Nat) (s : State) : applyAll (finish h status s) s = afterReply h (Reply.of status) s := rfl
@[simp] theorem applyAll_badField (h : Hdr) (off : Nat) (s : State) : applyAll (badField h off s) s = afterReply h (Reply.badField off) s := rfl
@[simp] theorem applyAll_done3 (h : Hdr) (w0 w1 w2 : Nat) (s : State) :
    applyAll (done3 h w0 w1 w2 s) s = afterReply h (Reply.done w0 w1 w2) s := rfl

/-! ### Streams in the state -/

theorem Tab.ins_ins {α : Type} (t : Tab α) (k : Nat) (v w : α) : Tab.ins (Tab.ins t k v) k w = Tab.ins t k w := by
  fun_induction Tab.ins t k v with
  | case1 | case2 | case3 => simp_all [Tab.ins]
  | case4 i x t k v hne hlt ih => simp [Tab.ins, hne, hlt, ih]

theorem Tab.drop_ins {α : Type} (t : Tab α) (k : Nat) (v : α) : Tab.drop (Tab.ins t k v) k = Tab.drop t k := by
  fun_induction Tab.ins t k v with
  | case1 | case2 | case3 => simp_all [Tab.drop]
  | case4 i x t k v hne hlt ih => simp [Tab.drop, hne, hlt, ih]

/-- Of two writes at one index the second stands alone, where the first left an entry. -/
theorem Tab.put_put {α : Type} [DecidableEq α] {d v : α} (hv : v ≠ d) (t : Tab α) (k : Nat) (w : α) :
    Tab.put d (Tab.put d t k v) k w = Tab.put d t k w := by
  rw [show Tab.put d t k v = Tab.ins t k v from if_neg hv, Tab.put, Tab.put, Tab.drop_ins, Tab.ins_ins]

theorem State.withStream_withStream (s : State) (i : Nat) {v : Stream} (hv : v ≠ Stream.reset) (w : Stream) :
    (s.withStream i v).withStream i w = s.withStream i w :=
  congrArg (fun t => { s with streams := t }) (Tab.put_put hv s.streams i w)

theorem State.stream_withStream {s : State} (hw : Tab.wf Stream.reset s.streams = true) (i : Nat) (v : Stream) :
    (s.withStream i v).stream i = v := Tab.look_put_self _ _ _ _ hw

@[simp] theorem applyAll_setStream (i : Nat) (f : Stream → Stream) (s : State) :
    applyAll (setStream i f s) s = s.withStream i (f (s.stream i)) := rfl

/-- The common shape of the controls (R371): a field of the stream is written, and the command answers. -/
theorem applyAll_setStream_finish (h : Hdr) (status i : Nat) (f : Stream → Stream) (s : State) :
    applyAll (Act.seq (setStream i f) (finish h status) s) s = afterReply h (Reply.of status) (s.withStream i (f (s.stream i))) := by
  simp

/-! ### The stream that a command names (R360, R362) -/

/-- `sid` names an open stream that is not closing, by index and generation. -/
structure NamesStream (s : State) (sid : Word) : Prop where
  opened : (s.stream (sid.toNat % 256)).opened = true
  closing : (s.stream (sid.toNat % 256)).closing = none
  id : streamId (sid.toNat % 256) (s.stream (sid.toNat % 256)) = sid.toNat

theorem streamCommand_of_names {s : State} {sid : Word} (hn : NamesStream s sid) (h : Hdr) (f : Nat → Stream → Act) :
    streamCommand h sid f s = f (sid.toNat % 256) (s.stream (sid.toNat % 256)) s := by
  simp [streamCommand, hn.opened, hn.closing, hn.id]

theorem streamCommand_of_wrong {s : State} {sid : Word} (h : Hdr) (f : Nat → Stream → Act)
    (hwrong : (s.stream (sid.toNat % 256)).opened = false ∨ (s.stream (sid.toNat % 256)).closing.isSome = true
      ∨ streamId (sid.toNat % 256) (s.stream (sid.toNat % 256)) ≠ sid.toNat) : streamCommand h sid f s = badField h 32 s := by
  rw [streamCommand, if_pos]
  simpa [or_assoc] using hwrong

section
variable {h : Hdr} {sid : Word} {s : State} (hs : Serves s false)
include hs

theorem run_streamCommand (hn : NamesStream s sid) (f : Nat → Stream → Act) :
    (command h false (streamCommand h sid f)).run s = .next (applyAll (f (sid.toNat % 256) (s.stream (sid.toNat % 256)) s) s) := by
  rw [Act.run_eq, command_of_serves hs, streamCommand_of_names hn]

theorem run_streamCommand_wrong (f : Nat → Stream → Act)
    (hwrong : (s.stream (sid.toNat % 256)).opened = false ∨ (s.stream (sid.toNat % 256)).closing.isSome = true
      ∨ streamId (sid.toNat % 256) (s.stream (sid.toNat % 256)) ≠ sid.toNat) :
    (command h false (streamCommand h sid f)).run s = .next (afterReply h (Reply.badField 32) s) := by
  rw [Act.run_eq, command_of_serves hs, streamCommand_of_wrong h f hwrong, applyAll_badField]

/-! ### RACK_MARK (R359) -/

theorem run_rackMark (hn : NamesStream s sid) {buffer : Half} {f : Stream → Tags → Option Tags} {t : Tags}
    (hb : buffer.toNat < (s.stream (sid.toNat % 256)).desc.buffers)
    (hf : f (s.stream (sid.toNat % 256)) ((s.stream (sid.toNat % 256)).tags buffer.toNat) = some t) :
    (command h false (rackMark h sid buffer f)).run s = .next (afterReply h (Reply.done (tagWord t) 0 0)
      (s.withStream (sid.toNat % 256) ((s.stream (sid.toNat % 256)).setTags buffer.toNat t))) := by
  rw [rackMark, run_streamCommand hs hn, if_neg (Nat.not_le.2 hb), hf]
  simp

theorem run_rackMark_refused (hn : NamesStream s sid) {buffer : Half} {f : Stream → Tags → Option Tags}
    (hf : (s.stream (sid.toNat % 256)).desc.buffers ≤ buffer.toNat
      ∨ f (s.stream (sid.toNat % 256)) ((s.stream (sid.toNat % 256)).tags buffer.toNat) = none) :
    (command h false (rackMark h sid buffer f)).run s = .next (afterReply h (Reply.of stBadParameter) s) := by
  rw [rackMark, run_streamCommand hs hn]
  split
  · rfl
  next hb => rw [hf.resolve_left hb]; rfl

end

/-! ### Announcements (R364) -/

theorem nextHeld_of_ne_nil {v : Stream} (hv : v.held ≠ []) : ∃ x ∈ v.held, nextHeld v = some x := by
  unfold nextHeld
  split
  · contradiction
  next x l hl =>
    refine ⟨_, hl ▸ List.foldlRecOn (motive := (· ∈ x :: l)) l _ List.mem_cons_self fun a ha y hy => ?_, rfl⟩
    split
    · exact List.mem_cons_of_mem _ hy
    · exact ha

/-- Announcing every held picture empties the held ones and appends a record for each (R364, R366). -/
theorem announceAll_held (n : Nat) (v : Stream) (hn : v.held.length = n) :
    ∃ l p, l.length = n ∧ announceAll n v = { v with
      held := []
      out := v.out ++ l
      nextPicture := p } := by
  induction n generalizing v with
  | zero => exact ⟨[], v.nextPicture, rfl, by rw [announceAll, List.append_nil, ← List.length_eq_zero_iff.1 hn]⟩
  | succ n ih =>
    obtain ⟨x, hx, hnext⟩ := nextHeld_of_ne_nil (v := v) (List.ne_nil_of_length_eq_add_one hn)
    have hlength : (v.announce x).held.length = n := by simp [Stream.announce, List.length_erase_of_mem hx, hn]
    obtain ⟨l, p, hl, hall⟩ := ih (v.announce x) hlength
    refine ⟨⟨x.submit, v.nextPicture, 0, 16 + 4 * b2n x.late, v.tier, [], x.pts, x.buffer, x.period⟩ :: l, p,
      by rw [List.length_cons, hl], ?_⟩
    rw [announceAll, hnext]
    simpa [Stream.announce] using hall

/-- After FLUSH of an encode stream the last submit that waits carries END (R363, R371). -/
theorem Stream.endQueue_last (v : Stream) (hv : v.queue ≠ []) : (v.endQueue.queue.getLast?).any (fun x => bit x.flags 2) = true := by
  rw [Stream.endQueue, List.getLast?_mapIdx, List.getLast?_eq_some_getLast hv]
  have hlast : v.queue.length - 1 + 1 = v.queue.length := Nat.sub_add_cancel (List.length_pos_iff.2 hv)
  simp only [hlast, true_and, Option.map_some, Option.any_some]
  split
  next hend => simp only [bit, beq_eq_false_iff_ne, beq_iff_eq] at hend ⊢; omega
  next hend => exact Bool.of_not_eq_false hend

/-! ### STREAM_OPEN (R360, R361) -/

theorem leastLoaded_mem {s : State} {l : List Nat} {e : Nat} (h : leastLoaded s l = some e) : e ∈ l := by
  induction l generalizing e with
  | nil => simp [leastLoaded] at h
  | cons x l ih =>
    rw [leastLoaded] at h
    split at h
    · simp_all
    next f hf =>
      split at h
      · exact Option.some.inj h ▸ List.mem_cons_of_mem _ (ih hf)
      · exact Option.some.inj h ▸ List.mem_cons_self

theorem engines_lt {s : State} {d : StreamDesc} {e : Nat} (h : e ∈ d.engines s) : e < 16 :=
  List.mem_range.1 (List.mem_filter.1 h).1

/-- Descriptor `b` passes every check of STREAM_OPEN that no other stream bears on: its fields, and the place of its rack (R360, R374). -/
structure Openable (s : State) (b : List Byte) : Prop where
  fields : streamOk b = true
  mapped : rangeOk s (parseStream b).rackBase ((parseStream b).buffers * (parseStream b).bufferBytes) = true
  cellar : (parseStream b).rackBase + (parseStream b).buffers * (parseStream b).bufferBytes ≤ cellarEnd ∨ isInter (parseStream b).rackBase = true
  unsealed : rackRefused s (parseStream b) = false

/-- The place of a new stream: the free index of the lowest number, on the least loaded engine (R360, R361). -/
structure Places (s : State) (b : List Byte) (e i : Nat) : Prop where
  engine : leastLoaded s ((parseStream b).engines s) = some e
  bound : i < 256
  free : (s.stream i).opened = false
  lowest : ∀ j, j < i → (s.stream j).opened = true

theorem Places.find {s : State} {b : List Byte} {e i : Nat} (hp : Places s b e i) :
    (List.range 256).find? (fun i => !(s.stream i).opened) = some i := by
  rw [List.find?_range_eq_some]
  exact ⟨by simp [hp.free], List.mem_range.2 hp.bound, fun j hj => by simp [hp.lowest j hj]⟩

/-- STREAM_OPEN once the descriptor and the place are found good: the limits of the rack and of the engine decide (R357, R361). -/
theorem openStream_of_places {s : State} {b : List Byte} {e i : Nat} (ho : Openable s b) (hp : Places s b e i) (h : Hdr) :
    openStream h b s =
      if 1024 < rackUsed s + (parseStream b).buffers ∨ ((parseStream b).cls = 0 ∧ 2000000 < engineLoad s e + (parseStream b).rateKpix) then
        finish h stBusy s
      else Act.all [Act.of [.stream i (newStream s i h b e)], logPlaced i 0, fun s => done3 h (streamId i (s.stream i)) 0 0 s] s := by
  have hcellar : (!(decide ((parseStream b).rackBase + (parseStream b).buffers * (parseStream b).bufferBytes ≤ cellarEnd)
      || isInter (parseStream b).rackBase)) = false := by
    simpa only [Bool.not_eq_false', Bool.or_eq_true, decide_eq_true_eq] using ho.cellar
  simp only [openStream, ho.fields, ho.mapped, hcellar, ho.unsealed, hp.engine, hp.find, Bool.not_true, Bool.false_eq_true, if_false]

/-- The new stream is written, STREAM_PLACED recorded with its engine as source, and its ID answered. -/
theorem applyAll_placeStream {s : State} (hw : Tab.wf Stream.reset s.streams = true) {e : Nat} (he : e < 16) (h : Hdr) (b : List Byte) (i : Nat) :
    applyAll (Act.all [Act.of [.stream i (newStream s i h b e)], logPlaced i 0, fun s => done3 h (streamId i (s.stream i)) 0 0 s] s) s =
      afterReply h (Reply.done (i + 256 * (s.stream i).gen.toNat) 0 0)
        ((s.withStream i (newStream s i h b e)).log 0x0500 (srcEngine e) (toLE 4 (i + 256 * (s.stream i).gen.toNat) ++ [0])) := by
  have hread := State.stream_withStream hw i (newStream s i h b e)
  have hid : streamId i (newStream s i h b e) = i + 256 * (s.stream i).gen.toNat := rfl
  have hsource : (newStream s i h b e).source = srcEngine e := congrArg srcEngine (Nat.mod_eq_of_lt he)
  have hlog : applyAll (logPlaced i 0 (s.withStream i (newStream s i h b e))) (s.withStream i (newStream s i h b e)) =
      (s.withStream i (newStream s i h b e)).log 0x0500 (srcEngine e) (toLE 4 (i + 256 * (s.stream i).gen.toNat) ++ [0]) := by
    rw [logPlaced, hread, hid, hsource]; rfl
  rw [Act.all_cons, applyAll_seq, Act.of_apply, show applyAll [.stream i (newStream s i h b e)] s = s.withStream i (newStream s i h b e) from rfl,
    Act.all_cons, applyAll_seq, hlog]
  simp only [Act.all_cons, Act.all_nil, applyAll_seq, Act.none_apply, applyAll_nil, applyAll_done3]
  rw [show ((s.withStream i (newStream s i h b e)).log 0x0500 (srcEngine e) (toLE 4 (i + 256 * (s.stream i).gen.toNat) ++ [0])).stream i
    = (s.withStream i (newStream s i h b e)).stream i from rfl, hread, hid]

/-! ### STREAM_SUBMIT (R363 to R365, R374) -/

theorem applyAll_enqueue (i : Nat) (x : Submit) (s : State) : applyAll (enqueue i x s) s = s.withStream i { s.stream i with
    queue := (s.stream i).queue ++ [{ x with frame := (s.stream i).nextFrame }]
    nextFrame := (s.stream i).nextFrame + 1 } := rfl

/-- STREAM_SUBMIT of a block to a stream that has an engine: BUSY where 16 submits wait (R363). -/
theorem exec_streamSubmit_of_names {h : Hdr} {sid len : Word} {host : Dword} {s : State} (hs : ServesHost s h false) (hlen : len.toNat = 64)
    (hn : NamesStream s sid) (he : (s.stream (sid.toNat % 256)).engine.isSome = true) :
    exec (.streamSubmit h sid len host) s = .next (applyAll (
      let i := sid.toNat % 256
      let v := s.stream i
      let b := hostData s h host.toNat 64
      if 16 ≤ v.queue.length then finish h stBusy s
      else if v.desc.dir = 0 then submitEncode h i v.desc b s
      else submitDecode h i v.desc b s) s) := by
  have hlen0 : len ≠ 0 := by rintro rfl; simp at hlen
  have hengine := Option.isSome_iff_ne_none.1 he
  rw [exec, execStreamSubmit, Act.run_eq, hostCommand_of_servesHost hs, if_neg hlen0, streamCommand_of_names hn]
  simp [hlen, hengine]

/-- The frame that an encode block submits. -/
def encodeSubmit (h : Hdr) (d : StreamDesc) (b : List Byte) : Submit :=
  ⟨h, fieldLE b 2 1, fieldLE b 3 1, (planesOf d b).map (·.1), [fieldLE b 32 4, fieldLE b 36 4], 0, 0, BitVec.ofNat 64 (fieldLE b 40 8), 0,
    false, none, false⟩

/-- The data that a decode block submits. -/
def decodeSubmit (h : Hdr) (b : List Byte) : Submit :=
  ⟨h, fieldLE b 2 1, 0, [], [], fieldLE b 8 8, fieldLE b 4 4, BitVec.ofNat 64 (fieldLE b 16 8), 0, false, none, false⟩

/-- An encode block whose fields and planes lie in their ranges (R356, R363). -/
structure EncodeBlock (s : State) (d : StreamDesc) (b : List Byte) : Prop where
  version : fieldLE b 0 2 = 1
  flags : fieldLE b 2 1 ≤ 7
  ltSlot : fieldLE b 3 1 ≤ 7
  reserved : allZero (slice b 4 4) = true
  tail : allZero (slice b 48 16) = true
  planes : (planesOf d b).all planeOk = true
  mapped : (planesOf d b).all (fun x => rangeOk s x.1 (planeSpan x)) = true

/-- Of such a block crates and seals alone decide (R90, R374). -/
theorem submitEncode_of_block {s : State} {d : StreamDesc} {b : List Byte} (hb : EncodeBlock s d b) (h : Hdr) (i : Nat) :
    submitEncode h i d b s =
      if namesCrate s ((planesOf d b).map (fun x => (x.1, planeSpan x))) then finish h stBadParameter s
      else if !planesSealedOk s d (planesOf d b) then finish h stSealed s
      else enqueue i (encodeSubmit h d b) s := by
  have hfields : ¬ (fieldLE b 0 2 ≠ 1 ∨ 7 < fieldLE b 2 1 ∨ 7 < fieldLE b 3 1 ∨ allZero (slice b 4 4) = false
      ∨ allZero (slice b 48 16) = false ∨ (planesOf d b).all planeOk = false) := by
    simp [hb.version, hb.flags, hb.ltSlot, hb.reserved, hb.tail, hb.planes]
  rw [submitEncode, if_neg hfields, hb.mapped]
  rfl

/-- A decode block whose data come from the host (R364). -/
theorem submitDecode_of_host {b : List Byte} (hversion : fieldLE b 0 2 = 1) (hflags : fieldLE b 2 1 ≤ 1) (hzero : fieldLE b 3 1 = 0)
    (hreserved : allZero (slice b 24 40) = true) (h : Hdr) (i : Nat) (d : StreamDesc) (s : State) :
    submitDecode h i d b s = enqueue i (decodeSubmit h b) s := by
  have hhost : bit (fieldLE b 2 1) 1 = false := by simp only [bit, beq_eq_false_iff_ne]; omega
  have hflags3 : ¬ 3 < fieldLE b 2 1 := by omega
  simp [submitDecode, hversion, hflags3, hzero, hreserved, hhost, decodeSubmit]

/-! ### STREAM_CLOSE (R362) -/

theorem unready_of_not_ready {s : State} {i : Nat} (h : ∀ x ∈ s.engines, i ∉ x.2.ready) : unready i s = [] := by
  simpa [unready] using h

/-- A closing stream with nothing in flight frees its index. -/
theorem applyAll_finishClose {s : State} {i : Nat} {h : Hdr} (hclosing : (s.stream i).closing = some h) (hframe : (s.stream i).frame = none)
    (hout : (s.stream i).out = []) (hready : ∀ x ∈ s.engines, i ∉ x.2.ready) :
    applyAll (finishClose i s) s = afterReply h (Reply.of stDone) (s.withStream i { Stream.reset with gen := (s.stream i).gen + 1 }) := by
  simp [finishClose, hclosing, hframe, hout, unready_of_not_ready hready, State.withStream]

theorem finishClose_of_busy {s : State} {i : Nat} (h : (s.stream i).frame.isSome = true ∨ (s.stream i).out ≠ []) : finishClose i s = [] := by
  have hbusy : ((s.stream i).frame.isSome || !(s.stream i).out.isEmpty) = true := by simpa using h
  cases hc : (s.stream i).closing <;> simp only [finishClose, hc, hbusy, if_true]

/-- A stream as STREAM_CLOSE leaves it where no submit waits. -/
def Stream.closingFor (v : Stream) (h : Hdr) : Stream :=
  { v with
    closing := some h
    held := []
    out := if v.desc.dir = 0 then v.out else [] }

theorem Stream.closingFor_ne_reset (v : Stream) (h : Hdr) : v.closingFor h ≠ Stream.reset := fun he =>
  nomatch (congrArg Stream.closing he : some h = none)

section
variable {h : Hdr} {sid : Word} {s : State} (hs : Serves s false) (hn : NamesStream s sid)
  (hqueue : (s.stream (sid.toNat % 256)).queue = [])
include hs hn hqueue

theorem exec_streamClose_of_names {t : State} (ht : t = s.withStream (sid.toNat % 256) ((s.stream (sid.toNat % 256)).closingFor h)) :
    exec (.streamClose h sid) s = .next (applyAll (finishClose (sid.toNat % 256) t) t) := by
  rw [exec, execStreamClose, run_streamCommand hs hn, hqueue, ht]
  simp [Stream.closingFor, hqueue]

variable (hw : Tab.wf Stream.reset s.streams = true)
include hw

/-- A stream with nothing in flight is closed at once: its index is free, with one generation more. -/
theorem exec_streamClose_frees (hready : ∀ x ∈ s.engines, sid.toNat % 256 ∉ x.2.ready) (hframe : (s.stream (sid.toNat % 256)).frame = none)
    (hout : (s.stream (sid.toNat % 256)).desc.dir = 0 → (s.stream (sid.toNat % 256)).out = []) :
    exec (.streamClose h sid) s = .next (afterReply h (Reply.of stDone)
      (s.withStream (sid.toNat % 256) { Stream.reset with gen := (s.stream (sid.toNat % 256)).gen + 1 })) := by
  obtain ⟨t, ht⟩ : ∃ t, t = s.withStream (sid.toNat % 256) ((s.stream (sid.toNat % 256)).closingFor h) := ⟨_, rfl⟩
  have hread : t.stream (sid.toNat % 256) = (s.stream (sid.toNat % 256)).closingFor h := ht ▸ State.stream_withStream hw _ _
  have hnone : (t.stream (sid.toNat % 256)).out = [] := by rw [hread]; simpa [Stream.closingFor] using hout
  rw [exec_streamClose_of_names hs hn hqueue ht,
    applyAll_finishClose (by rw [hread]; rfl) (by rw [hread]; exact hframe) hnone (by rw [ht]; exact hready), hread, ht,
    State.withStream_withStream _ _ (Stream.closingFor_ne_reset _ h)]
  rfl

/-- A frame in flight, or a record that waits for the ring, leaves the stream closing, without an answer. -/
theorem exec_streamClose_waits (hbusy : (s.stream (sid.toNat % 256)).frame.isSome = true
      ∨ ((s.stream (sid.toNat % 256)).desc.dir = 0 ∧ (s.stream (sid.toNat % 256)).out ≠ [])) :
    exec (.streamClose h sid) s = .next (s.withStream (sid.toNat % 256) ((s.stream (sid.toNat % 256)).closingFor h)) := by
  rw [exec_streamClose_of_names hs hn hqueue rfl, finishClose_of_busy, applyAll_nil]
  rw [State.stream_withStream hw]
  simpa [Stream.closingFor] using hbusy

end

/-! ### STREAM_CONTROL and the marks, command by command (R359, R369, R371) -/

section
variable {h : Hdr} {sid : Word} {s : State} (hs : Serves s false) (hn : NamesStream s sid)
include hs hn

theorem exec_ringHead_of_names (x : Dword) :
    let i := sid.toNat % 256
    let v := s.stream i
    exec (.ringHead h sid x) s = .next (if (v.produced - v.consumed).toNat < (x - v.consumed).toNat then
      afterReply h (Reply.of stBadParameter) s else afterReply h (Reply.of stDone) (s.withStream i { v with consumed := x })) := by
  intro i v
  rw [exec, execRingHead, run_streamCommand hs hn]
  split
  · rfl
  · rw [applyAll_setStream_finish]

theorem exec_rate_of_names (bpf cap vbv : Word) (qmin qmax : Half) :
    let i := sid.toNat % 256
    let v := s.stream i
    let lo := signed 16 qmin.toNat
    let hi := signed 16 qmax.toNat
    exec (.rate h sid bpf cap vbv qmin qmax) s = .next (if qpRange v.desc.codec v.desc.bitDepth lo = true
        ∧ qpRange v.desc.codec v.desc.bitDepth hi = true ∧ lo ≤ hi then
      afterReply h (Reply.of stDone) (s.withStream i { v with newRate := some ⟨bpf.toNat, cap.toNat, vbv.toNat, lo, hi⟩ })
      else afterReply h (Reply.of stBadParameter) s) := by
  intro i v lo hi
  have hok : (qpRange v.desc.codec v.desc.bitDepth lo && qpRange v.desc.codec v.desc.bitDepth hi && decide (lo ≤ hi)) = false
      ↔ ¬ (qpRange v.desc.codec v.desc.bitDepth lo = true ∧ qpRange v.desc.codec v.desc.bitDepth hi = true ∧ lo ≤ hi) := by
    rw [← Bool.not_eq_true, Bool.and_eq_true, Bool.and_eq_true, decide_eq_true_eq, and_assoc]
  rw [exec, execRate, run_streamCommand hs hn]
  split
  next hbad => rw [if_neg (hok.1 hbad)]; rfl
  next hgood => rw [if_pos (Decidable.not_not.1 (mt hok.2 hgood)), applyAll_setStream_finish]

theorem exec_forceKey_of_names :
    exec (.forceKey h sid) s = .next (afterReply h (Reply.of stDone)
      (s.withStream (sid.toNat % 256) { s.stream (sid.toNat % 256) with forceKey := true })) := by
  rw [exec, execForceKey, run_streamCommand hs hn, applyAll_setStream_finish]

theorem exec_flush_encode (hdir : (s.stream (sid.toNat % 256)).desc.dir = 0) :
    exec (.flush h sid) s = .next (afterReply h (Reply.of stDone)
      (s.withStream (sid.toNat % 256) (s.stream (sid.toNat % 256)).endQueue)) := by
  rw [exec, execFlush, run_streamCommand hs hn, if_pos hdir, applyAll_setStream_finish]

theorem exec_flush_decode (hdir : (s.stream (sid.toNat % 256)).desc.dir ≠ 0) :
    let v := s.stream (sid.toNat % 256)
    exec (.flush h sid) s = .next (afterReply h (Reply.of stDone) (s.withStream (sid.toNat % 256) (announceAll v.held.length v))) := by
  rw [exec, execFlush, run_streamCommand hs hn, if_neg hdir, flushStream, applyAll_setStream_finish]

/-- A REBIND that leaves the tier where it starts writes no ledger record (R312, R369). -/
theorem exec_rebind_of_names (hw : Tab.wf Stream.reset s.streams = true) {m n : Byte} (htier : (s.stream (sid.toNat % 256)).tier = 3)
    (hm : m.toNat ≤ 7 ∧ (s.stream (sid.toNat % 256)).desc.cls ≠ 2 ∨ m.toNat = 0xFF) (hlo : 1 ≤ n.toNat) (hhi : n.toNat ≤ 8) :
    exec (.rebind h sid m n) s = .next (afterReply h (Reply.of stDone) (s.withStream (sid.toNat % 256) { s.stream (sid.toNat % 256) with
      onTime := 0
      regained := true
      rebind := some (m.toNat, n.toNat) })) := by
  have hok : ¬ ((7 < m.toNat ∧ m.toNat ≠ 0xFF) ∨ ((s.stream (sid.toNat % 256)).desc.cls = 2 ∧ m.toNat ≠ 0xFF)
      ∨ n.toNat = 0 ∨ 8 < n.toNat) := by omega
  rw [exec, execRebind, run_streamCommand hs hn, if_neg hok]
  simp [streamTier, State.stream_withStream hw, Stream.retier, htier]

/-- Every mark of a buffer that the rack does not have is refused (R359). -/
theorem exec_rackMark_outside {a : Half} (ha : (s.stream (sid.toNat % 256)).desc.buffers ≤ a.toNat) (m : Byte) :
    ∀ c ∈ [Instr.hold h sid a, .unhold h sid a, .releaseOut h sid a, .setLong h sid a m, .clearLong h sid a m],
      exec c s = .next (afterReply h (Reply.of stBadParameter) s) := by
  simp only [List.forall_mem_cons]
  exact ⟨run_rackMark_refused hs hn (.inl ha), run_rackMark_refused hs hn (.inl ha), run_rackMark_refused hs hn (.inl ha),
    run_rackMark_refused hs hn (.inl ha), run_rackMark_refused hs hn (.inl ha), List.forall_mem_nil _⟩

/-- A mark under a condition: the buffer is marked where it holds, and BAD_PARAMETER answers elsewhere. -/
theorem run_rackMark_ite {a : Half} (ha : a.toNat < (s.stream (sid.toNat % 256)).desc.buffers) {f : Stream → Tags → Option Tags} {t : Tags}
    {p : Prop} [Decidable p]
    (hf : f (s.stream (sid.toNat % 256)) ((s.stream (sid.toNat % 256)).tags a.toNat) = if p then some t else none) :
    (command h false (rackMark h sid a f)).run s = .next (if p then afterReply h (Reply.done (tagWord t) 0 0)
      (s.withStream (sid.toNat % 256) ((s.stream (sid.toNat % 256)).setTags a.toNat t)) else afterReply h (Reply.of stBadParameter) s) := by
  split
  next hp => exact run_rackMark hs hn ha (hf.trans (if_pos hp))
  next hp => exact run_rackMark_refused hs hn (.inr (hf.trans (if_neg hp)))

theorem exec_setLong_of_names {a : Half} (ha : a.toNat < (s.stream (sid.toNat % 256)).desc.buffers) (m : Byte) :
    let v := s.stream (sid.toNat % 256)
    let t := v.tags a.toNat
    let t' := { t with long := t.long ||| BitVec.ofNat 8 (2 ^ m.toNat) }
    exec (.setLong h sid a m) s = .next (if v.desc.dir = 0 ∧ t.filled = true ∧ m.toNat ≤ 7 then
      afterReply h (Reply.done (tagWord t') 0 0) (s.withStream (sid.toNat % 256) (v.setTags a.toNat t'))
      else afterReply h (Reply.of stBadParameter) s) := by
  refine run_rackMark_ite hs hn ha ?_
  rw [← ite_not]
  exact ite_cond_congr (by rw [not_or, not_or, Decidable.not_not, Bool.not_eq_false, Nat.not_lt])

theorem exec_clearLong_of_names {a : Half} (ha : a.toNat < (s.stream (sid.toNat % 256)).desc.buffers) (m : Byte) :
    let v := s.stream (sid.toNat % 256)
    let t := v.tags a.toNat
    let t' := { t with long := t.long &&& ~~~ BitVec.ofNat 8 (2 ^ m.toNat) }
    exec (.clearLong h sid a m) s = .next (if v.desc.dir = 0 ∧ m.toNat ≤ 7 then
      afterReply h (Reply.done (tagWord t') 0 0) (s.withStream (sid.toNat % 256) (v.setTags a.toNat t'))
      else afterReply h (Reply.of stBadParameter) s) := by
  refine run_rackMark_ite hs hn ha ?_
  rw [← ite_not]
  exact ite_cond_congr (by rw [not_or, Decidable.not_not, Nat.not_lt])

end

/-! ### The statement -/

/-- STREAM_OPEN of a good descriptor places the stream, or is BUSY where the rack or the engine is full (R357, R361). -/
theorem exec_streamOpen_of_places {h : Hdr} {host : Dword} {len : Word} {s : State} {e i : Nat} (hw : Tab.wf Stream.reset s.streams = true)
    (hs : ServesHost s h false) (hlen : len.toNat = 128) (ho : Openable s (hostData s h host.toNat 128))
    (hp : Places s (hostData s h host.toNat 128) e i) :
    let b := hostData s h host.toNat 128
    let d := parseStream b
    exec (.streamOpen h host len) s = .next (
      if 1024 < rackUsed s + d.buffers ∨ (d.cls = 0 ∧ 2000000 < engineLoad s e + d.rateKpix) then afterReply h (Reply.of stBusy) s
      else afterReply h (Reply.done (i + 256 * (s.stream i).gen.toNat) 0 0)
        ((s.withStream i (newStream s i h b e)).log 0x0500 (srcEngine e) (toLE 4 (i + 256 * (s.stream i).gen.toNat) ++ [0]))) := by
  intro b d
  rw [exec, execStreamOpen, Act.run_eq, hostCommand_of_servesHost hs, if_neg (Decidable.not_not.2 hlen), openStream_of_places ho hp]
  split
  · rfl
  · rw [applyAll_placeStream hw (engines_lt (leastLoaded_mem hp.engine))]

/-- A control, mark or close of a stream that is not open under its ID is BAD_PARAMETER of the stream field (R360, R362). -/
theorem exec_streamCommand_wrong {h : Hdr} {sid : Word} {s : State} (hs : Serves s false)
    (hwrong : (s.stream (sid.toNat % 256)).opened = false ∨ (s.stream (sid.toNat % 256)).closing.isSome = true
      ∨ streamId (sid.toNat % 256) (s.stream (sid.toNat % 256)) ≠ sid.toNat) (x : Dword) (w : Word) (a b : Half) (m n : Byte) :
    ∀ c ∈ [Instr.ringHead h sid x, .rate h sid w w w a b, .forceKey h sid, .flush h sid, .rebind h sid m n, .streamClose h sid,
      .hold h sid a, .unhold h sid a, .releaseOut h sid a, .setLong h sid a m, .clearLong h sid a m],
      exec c s = .next (afterReply h (Reply.badField 32) s) := by
  have hrun := fun f => run_streamCommand_wrong (h := h) hs f hwrong
  simp only [List.forall_mem_cons]
  exact ⟨hrun _, hrun _, hrun _, hrun _, hrun _, hrun _, hrun _, hrun _, hrun _, hrun _, hrun _, List.forall_mem_nil _⟩

/-- Settles O46. A command that names an open stream runs its activity on that stream (`run_streamCommand`), whose checks leave one write
of the stream and a reply; FLUSH of a decode stream announces the held pictures by induction on their number (`announceAll_held`). -/
theorem streams : Obligations.Streams := by
  unfold Obligations.Streams
  refine ⟨⟨?badLength, ?openGood, ?submit, ?close⟩,
    fun h sid s hinv hs => ⟨fun hwrong x w a b m n => ?wrong, fun hopen hclosing hid => ?controls⟩⟩
  case badLength =>
    intro h host len s _ hs hlen
    rw [exec, execStreamOpen, Act.run_eq, hostCommand_of_servesHost hs, if_pos hlen, applyAll_badField]
  case openGood =>
    intro h host len e i s hinv hs hlen b d n hfields hmapped hcellar hunsealed hengine hbound hfree hlowest
    rw [exec_streamOpen_of_places hinv.canonical.streams hs hlen ⟨hfields, hmapped, hcellar, hunsealed⟩ ⟨hengine, hbound, hfree, hlowest⟩]
    refine ⟨fun hrack hload => ?_, fun hfull => by rw [if_pos hfull]⟩
    rw [if_neg]
    rintro (hr | ⟨hcls, hl⟩)
    · exact Nat.not_lt.2 hrack hr
    · exact Nat.not_lt.2 (hload hcls) hl
  case submit =>
    intro h sid len host s _ hs hlen i v b hopen hclosing hid hengine
    rw [exec_streamSubmit_of_names hs hlen ⟨hopen, hclosing, hid⟩ hengine]
    refine ⟨fun hfull => ?_, fun hroom hdir hversion hflags hlt hreserved htail hplanes hmapped => ?_,
      fun hroom hdir hversion hflags hzero hreserved => ?_⟩
    · rw [if_pos hfull, applyAll_finish]
    · have hblock : EncodeBlock s v.desc b := ⟨hversion, hflags, hlt, hreserved, htail, hplanes, hmapped⟩
      rw [if_neg (Nat.not_le.2 hroom), if_pos hdir, submitEncode_of_block hblock]
      refine ⟨fun hcrate => ?_, fun hcrate hsealed => ?_, fun hcrate hsealed => ?_⟩
      · rw [if_pos hcrate, applyAll_finish]
      · simp [hcrate, hsealed]
      · rw [if_neg (ne_true_of_eq_false hcrate), hsealed, Bool.not_true, if_neg Bool.false_ne_true, applyAll_enqueue]
        exact ⟨_, rfl, rfl, rfl, rfl, rfl, rfl, rfl, rfl⟩
    · have hdir0 : v.desc.dir ≠ 0 := by omega
      rw [if_neg (Nat.not_le.2 hroom), if_neg hdir0, submitDecode_of_host hversion hflags hzero hreserved, applyAll_enqueue]
      exact ⟨_, rfl, rfl, rfl, rfl, rfl, rfl, rfl⟩
  case close =>
    intro h sid s hinv hs i v hopen hclosing hid hqueue hready
    have hn : NamesStream s sid := ⟨hopen, hclosing, hid⟩
    exact ⟨exec_streamClose_frees hs hn hqueue hinv.canonical.streams hready, exec_streamClose_waits hs hn hqueue hinv.canonical.streams⟩
  case wrong => exact exec_streamCommand_wrong hs hwrong x w a b m n
  case controls =>
    have hn : NamesStream s sid := ⟨hopen, hclosing, hid⟩
    refine ⟨exec_ringHead_of_names hs hn, exec_rate_of_names hs hn, exec_forceKey_of_names hs hn,
      fun hdir => ⟨exec_flush_encode hs hn hdir, Stream.endQueue_last _⟩, fun hdir => ?_,
      fun m n htier hm hlo hhi => exec_rebind_of_names hs hn hinv.canonical.streams htier hm hlo hhi,
      fun a m ha => exec_rackMark_outside hs hn ha m,
      fun a m ha => ⟨run_rackMark hs hn ha rfl, run_rackMark hs hn ha rfl, run_rackMark hs hn ha rfl, exec_setLong_of_names hs hn ha m,
        exec_clearLong_of_names hs hn ha m⟩⟩
    obtain ⟨l, p, hlength, hall⟩ := announceAll_held _ (s.stream (sid.toNat % 256)) rfl
    refine ⟨_, exec_flush_decode hs hn hdir, ?_⟩
    rw [hall]
    exact ⟨rfl, by simp [hlength], by simp, rfl⟩

end Sys2Proof.Machine
end

section
/-! Array instructions (R112, R115, R122, R123, R127, R130, R131): what each of their ends leaves of the core and of the rest of the state. -/
namespace Sys2Proof.Machine

/-! ### Cores in the state -/

theorem State.core_withCore {s : State} (hw : Tab.wf Core.reset s.cores = true) (i : Nat) (k : Core) : (s.withCore i k).core i = k :=
  Tab.look_put_self _ _ _ _ hw

theorem State.withCore_wf {s : State} (hw : Tab.wf Core.reset s.cores = true) (i : Nat) (k : Core) :
    Tab.wf Core.reset (s.withCore i k).cores = true := Tab.wf_put _ _ _ _ hw

@[simp] theorem State.withCore_mem (s : State) (i : Nat) (k : Core) : (s.withCore i k).mem = s.mem := rfl
@[simp] theorem State.withCore_slots (s : State) (i : Nat) (k : Core) : (s.withCore i k).slots = s.slots := rfl
@[simp] theorem State.withCore_ledger (s : State) (i : Nat) (k : Core) : (s.withCore i k).ledger = s.ledger := rfl
@[simp] theorem State.withCore_counters (s : State) (i : Nat) (k : Core) : (s.withCore i k).counters = s.counters := rfl

theorem State.withCore_withCore (s : State) (i : Nat) {k : Core} (hk : k ≠ Core.reset) (k' : Core) :
    (s.withCore i k).withCore i k' = s.withCore i k' :=
  congrArg (fun t => { s with cores := t }) (Tab.put_put hk s.cores i k')

/-- A core whose array has completed an instruction is not as at reset. -/
theorem Core.ne_reset_of_issued {k : Core} (h : k.array.issued ≠ []) : k ≠ Core.reset := by
  rintro rfl
  exact h rfl

/-- What a count leaves: its counter changed, and a record where the counter comes to stick at its largest value (R439). -/
theorem State.bump_cases (s : State) (id n : Nat) :
    ∃ c, s.bump id n = { s with counters := c } ∨ ∃ e src d, s.bump id n = { s with counters := c }.log e src d := by
  simp only [State.bump]
  split
  · exact ⟨_, .inl rfl⟩
  · split
    · exact ⟨_, .inl rfl⟩
    · exact ⟨_, .inr ⟨_, _, _, rfl⟩⟩

@[simp] theorem State.bump_cores (s : State) (id n : Nat) : (s.bump id n).cores = s.cores := by
  obtain ⟨c, h | ⟨e, src, d, h⟩⟩ := s.bump_cases id n <;> exact h ▸ rfl

@[simp] theorem State.bump_core (s : State) (id n i : Nat) : (s.bump id n).core i = s.core i :=
  congrArg (fun t => Tab.look Core.reset t i) (s.bump_cores id n)

/-- A core and a counter are written in either order. -/
theorem State.bump_withCore (s : State) (i : Nat) (k : Core) (id n : Nat) : (s.withCore i k).bump id n = (s.bump id n).withCore i k := by
  simp only [State.bump]
  rw [show (s.withCore i k).counter id = s.counter id from rfl]
  split
  · rfl
  · split <;> rfl

/-! ### Writes of cores and counts only -/

/-- The writes of an array instruction that passes in the end: cores and counts. -/
def Eff.tallies : Eff → Bool
  | .core .. | .count .. => true
  | _ => false

/-- A record among the newest `n` of the ledger. -/
def State.Shows (s : State) (y : LedgerRec) (n : Nat) : Prop := ∃ i < n, s.ledger[i]? = some y

/-- A record stays in the ledger while fewer than 16,384 follow it (R433). -/
theorem State.Shows.log {s : State} {y : LedgerRec} {n : Nat} (h : s.Shows y n) (hn : n < 16384) (e src : Nat) (d : List Byte) :
    (s.log e src d).Shows y (n + 1) := by
  obtain ⟨i, hi, hy⟩ := h
  exact ⟨i + 1, by omega, by rw [State.log, List.getElem?_take_of_lt (by omega), List.getElem?_cons_succ, hy]⟩

theorem State.Shows.mono {s : State} {y : LedgerRec} {n m : Nat} (h : s.Shows y n) (hnm : n ≤ m) : s.Shows y m := by
  obtain ⟨i, hi, hy⟩ := h
  exact ⟨i, Nat.lt_of_lt_of_le hi hnm, hy⟩

theorem State.Shows.mem {s : State} {y : LedgerRec} {n : Nat} (h : s.Shows y n) : y ∈ s.ledger := by
  obtain ⟨i, _, hy⟩ := h
  exact List.mem_of_getElem? hy

/-- What writes of cores and counts keep of a state: memory, slots, and a record that was among the newest `n`, which is among the newest
`m` now. -/
structure Tallied (y : LedgerRec) (n : Nat) (s : State) (m : Nat) (t : State) : Prop where
  mem : t.mem = s.mem
  slots : t.slots = s.slots
  shows : s.Shows y n → t.Shows y m

theorem Tallied.eff {y : LedgerRec} {n : Nat} {e : Eff} (he : e.tallies = true) (hn : n < 16384) (s : State) :
    Tallied y n s (n + 1) (applyEff s e) := by
  cases e with
  | core c v => exact ⟨rfl, rfl, fun h => State.Shows.mono h (Nat.le_succ n)⟩
  | count id k =>
    rw [applyEff_count]
    obtain ⟨c, h | ⟨e, src, d, h⟩⟩ := s.bump_cases id k
    · exact h ▸ ⟨rfl, rfl, fun hs => State.Shows.mono hs (Nat.le_succ n)⟩
    · exact h ▸ ⟨rfl, rfl, fun hs => State.Shows.log hs hn e src d⟩
  | _ => cases he

theorem Tallied.effs {y : LedgerRec} {n : Nat} {es : List Eff} (hes : es.all Eff.tallies = true) (hn : n + es.length ≤ 16384) (s : State) :
    Tallied y n s (n + es.length) (applyAll es s) := by
  induction es generalizing n s with
  | nil => exact ⟨rfl, rfl, id⟩
  | cons e es ih =>
    obtain ⟨he, hes⟩ := Bool.and_eq_true_iff.1 hes
    rw [List.length_cons] at hn
    have h1 := Tallied.eff (y := y) he (show n < 16384 by omega) s
    have h2 := ih (n := n + 1) hes (by omega) (applyEff s e)
    rw [Nat.add_right_comm] at h2
    exact ⟨h2.mem.trans h1.mem, h2.slots.trans h1.slots, fun h => h2.shows (h1.shows h)⟩

/-! ### The release of a block, and a core's operations -/

theorem convCounts_tallies (n r sat nan0 : Nat) (s : State) :
    (convCounts n r sat nan0 s).all Eff.tallies = true ∧ (convCounts n r sat nan0 s).length ≤ 4 := by
  rw [convCounts, Act.of_apply]
  split <;> split <;> exact ⟨rfl, by simp only [List.length_append, List.length_cons, List.length_nil]; omega⟩

theorem convCounts_cores (n r sat nan0 : Nat) (s : State) : (applyAll (convCounts n r sat nan0 s) s).cores = s.cores := by
  rw [convCounts, Act.of_apply]
  split <;> split <;> simp only [List.nil_append, List.append_nil, List.cons_append, applyAll_cons, applyAll_nil, applyEff_count, State.bump_cores]

/-- What follows a finished block: one core's array takes it, or nothing happens. -/
theorem Ctx.releaseBlock_cases (c : Ctx) (id : BlockId) (q : Nat) (sums : List Acc) :
    c.releaseBlock id q sums = Act.none
    ∨ ∃ k, ∃ f : MatArray → MatArray, c.releaseBlock id q sums = fun s => [.core k { s.core k with array := f (s.core k).array }] := by
  unfold Ctx.releaseBlock
  split
  · exact .inl rfl
  · split
    · exact .inl rfl
    · exact .inr ⟨_, fun a =>
        c.enterBlock _ id.second id.mblock id.nblock { a with parts := a.parts ++ [({ id with kchunk := q }, sums)] }, rfl⟩

theorem Ctx.release_tallies (c : Ctx) (v : View) (id : BlockId) (sums : List Acc) (s : State) :
    (c.release v id sums s).all Eff.tallies = true ∧ (c.release v id sums s).length ≤ 4 := by
  unfold Ctx.release
  split
  · exact convCounts_tallies ..
  · split
    · obtain h | ⟨k, f, h⟩ := c.releaseBlock_cases id v.x.q sums <;> rw [h]
      · exact ⟨rfl, Nat.zero_le 4⟩
      · exact ⟨rfl, Nat.le_of_ble_eq_true rfl⟩
    · exact ⟨rfl, Nat.zero_le 4⟩

/-- An ATTEND record's page, and a block that goes on, leave every core as it is. -/
theorem Ctx.release_cores {c : Ctx} {v : View} (h : c.r.opcode = 7 ∨ v.last = false) (id : BlockId) (sums : List Acc) (s : State) :
    (applyAll (c.release v id sums s) s).cores = s.cores := by
  unfold Ctx.release
  split
  · exact convCounts_cores ..
  next hop =>
    rw [h.resolve_left hop, if_neg Bool.false_ne_true]
    rfl

/-- A release changes no core but in its array. -/
theorem Ctx.release_health (c : Ctx) (v : View) (id : BlockId) (sums : List Acc) {s : State} (hw : Tab.wf Core.reset s.cores = true) (i : Nat) :
    Tab.wf Core.reset (applyAll (c.release v id sums s) s).cores = true
    ∧ ((applyAll (c.release v id sums s) s).core i).health = (s.core i).health := by
  by_cases hopen : c.r.opcode = 7 ∨ v.last = false
  · have h := c.release_cores hopen id sums s
    exact ⟨h ▸ hw, by rw [State.core, h]; rfl⟩
  · have hlast : v.last = true := eq_true_of_ne_false fun h => hopen (.inr h)
    have hop : c.r.opcode ≠ 7 := fun h => hopen (.inl h)
    rw [Ctx.release, if_neg hop, if_pos hlast]
    obtain h | ⟨k, f, h⟩ := c.releaseBlock_cases id v.x.q sums
    · rw [h]
      exact ⟨hw, rfl⟩
    · rw [h]
      refine ⟨Tab.wf_put _ _ _ _ hw, ?_⟩
      rw [applyAll_cons, applyAll_nil, core_after_core _ _ _ _ hw]
      split
      next hi => rw [hi]
      next => rfl

@[simp] theorem Health.faultN_ops (n : Nat) (h : Health) : (Health.faultN n h).ops = h.ops := by
  induction n generalizing h with
  | zero => rfl
  | succ n ih => rw [Health.faultN, ih, Health.fault]

/-- A core after operations, some of which faulted (R375, R376). -/
def Core.counting (k : Core) (issues n : Nat) : Core :=
  let h : Health := { k.health with ops := k.health.ops + issues }
  { k with health := h.faultN n, condemned := k.condemned || Health.permanent n h }

theorem applyAll_coreOps (c issues n : Nat) (s : State) : applyAll (coreOps c issues n s) s = s.withCore c ((s.core c).counting issues n) := rfl

/-! ### ARRAY_INSTRUCTION (R127, R131) -/

/-- The tile that an instruction swaps in: the loaded one, or where another is loaded, its own. -/
def MatArray.tileFor (a : MatArray) (v : View) (id : BlockId) : RegSet := (a.shadow.filter (fun t => decide (t.block = id))).getD (v.load id)

/-- A pass of an instruction on an array, with its upsets: the sums, and whether every comparison passes. -/
def Ctx.passOn (c : Ctx) (a : MatArray) (v : View) (id : BlockId) (u : List Upset) : List Acc × Bool :=
  v.pass c.masksB (a.tileFor v id) (a.carryOf v.flow id) u

/-- A core once the array has completed an instruction. -/
def Ctx.coreAfter (c : Ctx) (ci : Nat) (k : Core) (v : View) (id : BlockId) (sums : List Acc) : Core :=
  { k with array := c.arrayAfter ci k.array v id (k.array.tileFor v id) sums }

/-- The state in which an instruction is repeated: its TRANSIENT record, and the count of repeats. -/
def State.retried (s : State) (ci : Nat) : State :=
  (s.log 0x0100 (srcCore ci) (toLE 8 (s.core ci).health.ops ++ [2])).bump (counterId (srcCore ci) 9) 1

/-- The state in which the array has completed an instruction, before what it releases and its operations. -/
def Ctx.issuedIn (c : Ctx) (ci : Nat) (v : View) (id : BlockId) (sums : List Acc) (k : Core) (s : State) : State :=
  (s.withCore ci (c.coreAfter ci k v id sums)).bump (counterId (srcCore ci) 2) 1

section
variable {core : CoreId} {slot : SlotId} {r mb nb kc : Nat} {second : Bool} {upsets again : List Upset} {c : Ctx} {v : View} {s : State}
variable (hnext : nextIssue s (coreIx core) slot.val r ⟨slot.val, r, mb, nb, kc, second⟩ = some (c, v))
include hnext

/-- Every comparison passes: the array goes on with the sums, what they release goes on, and one operation counts. -/
theorem exec_arrayInstruction_passes
    (hx : (c.passOn (s.core (coreIx core)).array v ⟨slot.val, r, mb, nb, kc, second⟩ upsets).2 = true) :
    let ci := coreIx core
    let id : BlockId := ⟨slot.val, r, mb, nb, kc, second⟩
    let sums := (c.passOn (s.core ci).array v id upsets).1
    let t := c.issuedIn ci v id sums (s.core ci) s
    exec (.arrayInstruction core slot r mb nb kc second ⟨upsets, again⟩) s =
      .next (applyAll (Act.seq (c.release v id sums) (coreOps ci 1 0) t) t) := by
  rw [exec, execArrayInstruction, Act.run_eq]
  simp only [Ctx.passOn, MatArray.tileFor] at hx
  simp only [hnext, hx, Bool.not_true, Bool.false_and, Bool.false_eq_true, if_false, if_true, Act.when_false, Act.all_cons, Act.all_nil,
    applyAll_seq, Act.none_apply, applyAll_nil]
  rfl

/-- A comparison fails, and the repeat passes: its sums go on, beside a TRANSIENT record. -/
theorem exec_arrayInstruction_repeats
    (hx : (c.passOn (s.core (coreIx core)).array v ⟨slot.val, r, mb, nb, kc, second⟩ upsets).2 = false)
    (hy : (c.passOn (s.core (coreIx core)).array v ⟨slot.val, r, mb, nb, kc, second⟩ again).2 = true) :
    let ci := coreIx core
    let id : BlockId := ⟨slot.val, r, mb, nb, kc, second⟩
    let sums := (c.passOn (s.core ci).array v id again).1
    let t := c.issuedIn ci v id sums (s.core ci) (s.retried ci)
    exec (.arrayInstruction core slot r mb nb kc second ⟨upsets, again⟩) s =
      .next (applyAll (Act.seq (c.release v id sums) (coreOps ci 2 1) t) t) := by
  rw [exec, execArrayInstruction, Act.run_eq]
  simp only [Ctx.passOn, MatArray.tileFor] at hx hy
  simp only [hnext, hx, hy, Bool.not_true, Bool.not_false, Bool.and_false, Bool.false_eq_true, if_false, Act.when_true, Act.all_cons,
    Act.all_nil, applyAll_seq, Act.none_apply, applyAll_nil, Act.of_apply, applyAll_cons, applyEff_ledger, applyEff_count, applyEff_core]
  rfl

/-- The repeat fails too: the record's work leaves the array, and the fault escapes. -/
theorem exec_arrayInstruction_escapes
    (hx : (c.passOn (s.core (coreIx core)).array v ⟨slot.val, r, mb, nb, kc, second⟩ upsets).2 = false)
    (hy : (c.passOn (s.core (coreIx core)).array v ⟨slot.val, r, mb, nb, kc, second⟩ again).2 = false) :
    let ci := coreIx core
    let t := s.withCore ci { s.core ci with array := (s.core ci).array.forget slot.val r }
    exec (.arrayInstruction core slot r mb nb kc second ⟨upsets, again⟩) s = .next (applyAll (escapeCore ci t) t) := by
  rw [exec, execArrayInstruction, Act.run_eq]
  simp only [Ctx.passOn, MatArray.tileFor] at hx hy
  simp only [hnext, hx, hy, Bool.not_false, Bool.and_self, if_true, applyAll_seq]
  rfl
end

/-! ### What an instruction leaves -/

theorem Core.counting_zero (k : Core) (issues : Nat) :
    k.counting issues 0 = { k with health := { k.health with ops := k.health.ops + issues } } := by
  simp [Core.counting, Health.faultN, Health.permanent]

theorem Ctx.issuedIn_wf (c : Ctx) (ci : Nat) (v : View) (id : BlockId) (sums : List Acc) (k : Core) {s : State}
    (hw : Tab.wf Core.reset s.cores = true) : Tab.wf Core.reset (c.issuedIn ci v id sums k s).cores = true := by
  rw [Ctx.issuedIn, State.bump_cores]
  exact State.withCore_wf hw _ _

theorem Ctx.core_issuedIn (c : Ctx) (ci : Nat) (v : View) (id : BlockId) (sums : List Acc) (k : Core) {s : State}
    (hw : Tab.wf Core.reset s.cores = true) : (c.issuedIn ci v id sums k s).core ci = c.coreAfter ci k v id sums := by
  rw [Ctx.issuedIn, State.bump_core, State.core_withCore hw]

theorem Ctx.coreAfter_ne_reset (c : Ctx) (ci : Nat) (k : Core) (v : View) (id : BlockId) (sums : List Acc) :
    c.coreAfter ci k v id sums ≠ Core.reset := Core.ne_reset_of_issued (List.cons_ne_nil _ _)

/-- Where an instruction releases nothing, its core's operation is counted on the spot. -/
theorem Ctx.coreOps_issuedIn (c : Ctx) (ci : Nat) (v : View) (id : BlockId) (sums : List Acc) (k : Core) {s : State}
    (hw : Tab.wf Core.reset s.cores = true) :
    applyAll (coreOps ci 1 0 (c.issuedIn ci v id sums k s)) (c.issuedIn ci v id sums k s)
      = (s.withCore ci { k with
          health := { k.health with ops := k.health.ops + 1 }
          array := c.arrayAfter ci k.array v id (k.array.tileFor v id) sums }).bump (counterId (srcCore ci) 2) 1 := by
  rw [applyAll_coreOps, c.core_issuedIn ci v id sums k hw, Ctx.issuedIn, ← State.bump_withCore,
    State.withCore_withCore _ _ (c.coreAfter_ne_reset ci k v id sums), Core.counting_zero]
  rfl

theorem Ctx.release_none {c : Ctx} {v : View} (hop : c.r.opcode ≠ 7) (hlast : v.last = false) (id : BlockId) (sums : List Acc) :
    c.release v id sums = Act.none := by
  rw [Ctx.release, if_neg hop, hlast, if_neg Bool.false_ne_true]

@[simp] theorem State.retried_cores (s : State) (ci : Nat) : (s.retried ci).cores = s.cores := State.bump_cores _ _ _

/-- A repeated instruction writes cores and counts, and its TRANSIENT record stays in the ledger. -/
theorem Ctx.repeated_tallied (c : Ctx) (ci : Nat) (v : View) (id : BlockId) (sums : List Acc) (s : State) :
    let t := c.issuedIn ci v id sums (s.core ci) (s.retried ci)
    let u := applyAll (Act.seq (c.release v id sums) (coreOps ci 2 1) t) t
    (∃ y ∈ u.ledger, y.event = 0x0100 ∧ y.source = BitVec.ofNat 16 (srcCore ci)) ∧ u.mem = s.mem ∧ u.slots = s.slots := by
  intro t u
  let data : List Byte := toLE 8 (s.core ci).health.ops ++ [2]
  let y : LedgerRec := ⟨s.ledgerNext, 0x0100, BitVec.ofNat 16 (srcCore ci), ledgerData data⟩
  let es : List Eff :=
    [.count (counterId (srcCore ci) 9) 1, .core ci (c.coreAfter ci (s.core ci) v id sums), .count (counterId (srcCore ci) 2) 1]
  let fs : List Eff := Act.seq (c.release v id sums) (coreOps ci 2 1) t
  have hu : u = applyAll (es ++ fs) (s.log 0x0100 (srcCore ci) data) := (applyAll_append es fs _).symm
  obtain ⟨hrelease, hlength⟩ := c.release_tallies v id sums t
  have htallies : (es ++ fs).all Eff.tallies = true := by
    simp only [es, fs, List.all_append, Act.seq, hrelease]
    rfl
  have hshort : 1 + (es ++ fs).length ≤ 16384 := by
    simp only [es, fs, List.length_append, Act.seq, coreOps, List.length_cons, List.length_nil]
    omega
  obtain ⟨hmem, hslots, hshows⟩ := Tallied.effs (y := y) htallies hshort (s.log 0x0100 (srcCore ci) data)
  rw [hu]
  exact ⟨⟨y, (hshows ⟨0, Nat.zero_lt_one, rfl⟩).mem, rfl, rfl⟩, hmem, hslots⟩

/-- What is left of a repeated instruction whose second pass stands. -/
theorem Ctx.repeated_leaves (c : Ctx) (ci : Nat) (v : View) (id : BlockId) (sums : List Acc) {s : State}
    (hw : Tab.wf Core.reset s.cores = true) :
    let t := c.issuedIn ci v id sums (s.core ci) (s.retried ci)
    let u := applyAll (Act.seq (c.release v id sums) (coreOps ci 2 1) t) t
    (c.r.opcode = 7 ∨ v.last = false → (u.core ci).array = c.arrayAfter ci (s.core ci).array v id ((s.core ci).array.tileFor v id) sums)
    ∧ (u.core ci).health.ops = (s.core ci).health.ops + 2
    ∧ (∃ y ∈ u.ledger, y.event = 0x0100 ∧ y.source = BitVec.ofNat 16 (srcCore ci)) ∧ u.mem = s.mem ∧ u.slots = s.slots := by
  intro t u
  have hretried : Tab.wf Core.reset (s.retried ci).cores = true := by rwa [State.retried_cores]
  have hissued : t.core ci = c.coreAfter ci (s.core ci) v id sums := c.core_issuedIn ci v id sums (s.core ci) hretried
  obtain ⟨hreleased, hhealth⟩ := c.release_health v id sums (c.issuedIn_wf ci v id sums (s.core ci) hretried) ci
  have hcore : u.core ci = ((applyAll (c.release v id sums t) t).core ci).counting 2 1 := by
    rw [show u = _ from applyAll_seq _ _ t, applyAll_coreOps, State.core_withCore hreleased]
  rw [hcore, Core.counting]
  refine ⟨fun hopen => ?_, ?_, c.repeated_tallied ci v id sums s⟩
  · rw [State.core, Ctx.release_cores hopen, ← State.core, hissued]
    rfl
  · rw [Health.faultN_ops, hhealth, hissued]
    rfl

theorem Core.counting_array (k : Core) (issues n : Nat) : (k.counting issues n).array = k.array := rfl

/-- A fault that escapes marks its core, and touches nothing but the core. -/
theorem escapeCore_leaves {s : State} (hw : Tab.wf Core.reset s.cores = true) (ci : Nat) (k : Core) :
    let t := s.withCore ci k
    let u := applyAll (escapeCore ci t) t
    (u.core ci).escaped = true ∧ (u.core ci).array = k.array ∧ u.mem = s.mem ∧ u.slots = s.slots ∧ u.ledger = s.ledger
      ∧ u.counters = s.counters := by
  intro t u
  have hu : u = (t.withCore ci ((t.core ci).counting 2 2)).withCore ci { (t.core ci).counting 2 2 with escaped := true } := by
    rw [show u = _ from applyAll_seq _ _ t, applyAll_coreOps, applyAll_cons, applyAll_nil, State.core_withCore (State.withCore_wf hw _ _)]
    rfl
  rw [hu, State.core_withCore (State.withCore_wf (State.withCore_wf hw _ _) _ _), Core.counting_array, State.core_withCore hw]
  simp [t]

/-! ### The array after an instruction (R115, R122, R123, R130) -/

/-- Beside the register sets and the carry loop, an instruction writes the record's progress, and for an ATTEND record its page's scores and
partials. -/
theorem Ctx.arrayAfter_eq (c : Ctx) (core : Nat) (a : MatArray) (v : View) (id : BlockId) (tile : RegSet) (sums : List Acc) :
    let next := ((c.issues core)[a.count c.slot c.record + 1]?).bind c.tileOf
    let b := (a.swap v id (c.r.opcode == 1 && c.r.b2 != 0xFFFF) tile next sums).carry v id sums
    ∃ o l e p, c.arrayAfter core a v id tile sums =
        { b with owner := o, epilogue := e, partials := p, issued := (c.slot, c.record, b.count c.slot c.record + 1) :: l }
      ∧ (c.r.opcode ≠ 7 → e = b.epilogue ∧ p = b.partials) := by
  intro next b
  rw [show c.arrayAfter core a v id tile sums = (if c.r.opcode = 7 then c.attendEpilogue b id sums else b).advance c.slot c.record
    (c.issues core).length from rfl]
  split
  next hop =>
    unfold Ctx.attendEpilogue
    split
    · exact ⟨_, _, _, _, rfl, fun h => (h hop).elim⟩
    · split <;> exact ⟨_, _, _, _, rfl, fun h => (h hop).elim⟩
  next => exact ⟨_, _, _, _, rfl, fun _ => ⟨rfl, rfl⟩⟩

theorem MatArray.count_of_issued {a : MatArray} {n r k : Nat} {l : List (Nat × Nat × Nat)} (h : a.issued = (n, r, k) :: l) :
    a.count n r = k := by
  simp [MatArray.count, h]

/-- The carry loop writes nothing but the carry of its product. -/
theorem MatArray.carry_eq (a : MatArray) (v : View) (id : BlockId) (sums : List Acc) :
    ∃ x y, a.carry v id sums = { a with carry0 := x, carry1 := y }
      ∧ (if id.second then y else x) = if v.last || v.flow == 1 then none else some (id, sums) := by
  unfold MatArray.carry
  cases id.second <;> exact ⟨_, _, rfl, rfl⟩

theorem MatArray.swap_of_flow {v : View} (h : v.flow = 1) (a : MatArray) (id : BlockId) (gate : Bool) (tile : RegSet) (next : Option RegSet)
    (sums : List Acc) : a.swap v id gate tile next sums = { a with
      active := some ⟨id, [], [], if v.last then [] else sums⟩
      shadow := if v.last then some ⟨id, [], [], sums⟩ else a.shadow } := if_pos h

theorem MatArray.swap_of_not_flow {v : View} (h : v.flow ≠ 1) (a : MatArray) (id : BlockId) (gate : Bool) (tile : RegSet)
    (next : Option RegSet) (sums : List Acc) : a.swap v id gate tile next sums = { a with
      active := some tile
      shadow := next.or a.active
      setOne := if gate then id.second else !a.setOne } := if_neg h

theorem Ctx.arrayAfter_leaves (c : Ctx) (core : Nat) (a : MatArray) (v : View) (id : BlockId) (tile : RegSet) (sums : List Acc) :
    let b := c.arrayAfter core a v id tile sums
    b.count c.slot c.record = a.count c.slot c.record + 1
    ∧ (v.flow ≠ 1 → b.active = some tile
      ∧ (∀ i x, (c.issues core)[a.count c.slot c.record + 1]? = some i → c.tileOf i = some x → b.shadow = some x)
      ∧ (v.last = false → (if id.second then b.carry1 else b.carry0) = some (id, sums)))
    ∧ (v.flow = 1 → b.active = some ⟨id, [], [], if v.last then [] else sums⟩ ∧ (v.last = true → b.shadow = some ⟨id, [], [], sums⟩))
    ∧ (c.r.opcode ≠ 7 → b.epilogue = a.epilogue ∧ b.partials = a.partials ∧ b.parts = a.parts ∧ b.outs = a.outs) := by
  intro b
  obtain ⟨o, l, e, p, hb, hep⟩ := c.arrayAfter_eq core a v id tile sums
  obtain ⟨x, y, hcarry, hxy⟩ := MatArray.carry_eq (a.swap v id (c.r.opcode == 1 && c.r.b2 != 0xFFFF) tile
    (((c.issues core)[a.count c.slot c.record + 1]?).bind c.tileOf) sums) v id sums
  rw [hcarry] at hb hep
  rw [show b = _ from hb]
  by_cases hflow : v.flow = 1
  · rw [MatArray.swap_of_flow hflow] at hep ⊢
    refine ⟨MatArray.count_of_issued rfl, fun h => (h hflow).elim, fun _ => ⟨rfl, fun hlast => if_pos hlast⟩, fun h => ?_⟩
    exact ⟨(hep h).1, (hep h).2, rfl, rfl⟩
  · rw [MatArray.swap_of_not_flow hflow] at hep ⊢
    refine ⟨MatArray.count_of_issued rfl, fun _ => ⟨rfl, fun i z hi hz => ?_, fun hlast => ?_⟩, fun h => (hflow h).elim, fun h => ?_⟩
    · rw [hi, Option.bind_some, hz, Option.some_or]
    · simpa [hlast, hflow] using hxy
    · exact ⟨(hep h).1, (hep h).2, rfl, rfl⟩

end Sys2Proof.Machine
end

section
/-! Stores to device memory leave slots, hooks and host memory as they are; parking, and what is parked coming back (R124, R148). -/
namespace Sys2Proof.Machine

/-! ### Writes of device memory (R31, R74, R75) -/

/-- The writes that a store to device memory makes, with the errors it meets and the domains it wakes. -/
def Eff.stores : Eff → Bool
  | .mem .. | .ecc .. | .rail .. | .bank .. | .tile .. | .hub .. | .core .. | .flash .. | .fresh | .ledger .. | .count .. | .countMax .. => true
  | _ => false

/-- What a store to device memory keeps: slots, hooks, host memory, and the form of the cores. -/
structure Stored (s t : State) : Prop where
  slots : t.slots = s.slots
  hooks : t.hooks = s.hooks
  host : t.host = s.host
  cores : Tab.wf Core.reset s.cores = true → Tab.wf Core.reset t.cores = true

theorem Stored.eff {e : Eff} (he : e.stores = true) (s : State) : Stored s (applyEff s e) := by
  cases e with
  | core c v => exact ⟨rfl, rfl, rfl, Tab.wf_put _ _ _ _⟩
  | count i n =>
    rw [applyEff_count]
    obtain ⟨c, h | ⟨e, src, d, h⟩⟩ := s.bump_cases i n <;> exact h ▸ ⟨rfl, rfl, rfl, id⟩
  | mem | ecc | rail | bank | tile | hub | flash | fresh | ledger | countMax => exact ⟨rfl, rfl, rfl, id⟩
  | _ => cases he

theorem Stored.trans {s t u : State} (h : Stored s t) (h' : Stored t u) : Stored s u :=
  ⟨h'.slots.trans h.slots, h'.hooks.trans h.hooks, h'.host.trans h.host, h'.cores ∘ h.cores⟩

theorem Stored.effs {es : List Eff} (hes : es.all Eff.stores = true) (s : State) : Stored s (applyAll es s) :=
  applyAll_keeps_of es (fun e he t ht => ht.trans (Stored.eff (List.all_eq_true.1 hes e he) t)) s ⟨rfl, rfl, rfl, id⟩

/-- An activity that writes as stores do, in whatever state. -/
def Act.Stores (a : Act) : Prop := ∀ s, (a s).all Eff.stores = true

theorem Act.Stores.none : Act.none.Stores := fun _ => rfl

theorem Act.Stores.seq {a b : Act} (ha : a.Stores) (hb : b.Stores) : (Act.seq a b).Stores := fun s => by
  rw [Act.seq, List.all_append, ha, hb]
  rfl

theorem Act.Stores.each {α : Type} {f : α → Act} (h : ∀ x, (f x).Stores) (l : List α) : (Act.each f l).Stores := by
  induction l with
  | nil => exact Act.Stores.none
  | cons x l ih => exact (h x).seq ih

theorem bankGrown_stores (k : Nat) (b : Bank) : (bankGrown k b).all Eff.stores = true := by
  unfold bankGrown
  split <;> rfl

theorem retireBank_stores (k reason : Nat) : (retireBank k reason).Stores := fun s => by
  simp only [retireBank, sheetInPlace]
  split
  · rfl
  · split
    · rw [List.all_append, List.all_append, bankGrown_stores]
      split <;> rfl
    · rw [List.all_append]
      split <;> rfl

theorem bankFault_stores (k : Nat) : (bankFault k).Stores := fun s => by
  refine Act.Stores.seq (fun _ => rfl) ?_ s
  split
  · exact retireBank_stores k 1
  · exact Act.Stores.none

theorem eccFault_stores (w : Nat) : (eccFault w).Stores := by
  unfold eccFault
  split
  · exact bankFault_stores _
  · split
    · exact fun _ => rfl
    · exact Act.Stores.none

theorem bankCatchUp_stores (w : Nat) : (bankCatchUp w).Stores := fun s => by
  unfold bankCatchUp
  split <;> rfl

theorem eccRecord_stores (w : Nat) : (eccRecord w).Stores := (bankCatchUp_stores w).seq fun _ => rfl

theorem Act.Stores.when {a : Act} (h : a.Stores) (b : Bool) : (Act.when b a).Stores := by
  cases b
  · exact Act.Stores.none
  · exact h

theorem eccCorrected_stores (w : Nat) : (eccCorrected w).Stores :=
  Act.Stores.seq (fun _ => rfl) ((eccRecord_stores w).seq (((eccFault_stores w).when _).seq Act.Stores.none))

theorem meetWord_stores (w : Nat) : (meetWord w).Stores := fun s => by
  unfold meetWord
  split
  · rfl
  · refine (eccCorrected_stores w).seq (fun t => ?_) s
    split
    · rfl
    · dsimp only
      split
      · rfl
      · exact bankGrown_stores _ _
  · exact Act.Stores.seq (fun _ => rfl) ((eccRecord_stores w).seq ((eccFault_stores w).seq Act.Stores.none)) s
  · rfl
  · exact Act.Stores.seq (fun _ => rfl) ((bankCatchUp_stores w).seq (eccFault_stores w)) s

theorem wakeRange_stores (a n : Nat) : (wakeRange a n).Stores := fun s => by
  simp [wakeRange, Eff.stores]

theorem storeMem_stores (a : Nat) (bs : List Byte) : (storeMem a bs).Stores := fun s => by
  refine Act.Stores.seq (wakeRange_stores a _) (Act.Stores.seq (Act.Stores.each (fun x => ?_) _) (Act.Stores.seq (fun _ => rfl) Act.Stores.none)) s
  split
  · exact fun _ => rfl
  · refine (meetWord_stores _).seq ?_
    split
    · exact Act.Stores.none
    · exact fun _ => rfl

/-! ### Parking (R124, R148) -/

/-- A parked piece is stored where it has a place in the shelf. -/
theorem parkStore_stores (x : Parked × List Byte) : (x.1.addr.elim Act.none (fun a => storeMem a x.2)).Stores := by
  cases x.1.addr with
  | none => exact Act.Stores.none
  | some a => exact storeMem_stores a x.2

/-- What an array parks is kept in place and block; the flags of its sums go beside, and where there is no room the sums too. -/
theorem parkAll_mem {x : ParkPlace × BlockId × List Acc × Option Held} {l : List (ParkPlace × BlockId × List Acc × Option Held)} (hx : x ∈ l)
    (a room : Nat) : ∃ y ∈ (parkAll a room l).map (·.1), y.place = x.1 ∧ y.block = x.2.1 ∧ (y.addr = none → y.flags = x.2.2.1)
      ∧ (y.addr ≠ none → y.flags = x.2.2.1.map Acc.flags) := by
  induction l generalizing a room with
  | nil => cases hx
  | cons z l ih =>
    unfold parkAll
    rcases List.mem_cons.1 hx with rfl | hx
    · dsimp only
      split
      · exact ⟨_, List.mem_cons_self .., rfl, rfl, fun h => (Option.some_ne_none _ h).elim, fun _ => rfl⟩
      · exact ⟨_, List.mem_cons_self .., rfl, rfl, fun _ => rfl, fun h => (h rfl).elim⟩
    · dsimp only
      split
      · obtain ⟨y, hy, h⟩ := ih hx (a + (parkBytes z.2.2.1 z.2.2.2).length) (room - (parkBytes z.2.2.1 z.2.2.2).length)
        exact ⟨y, List.mem_cons_of_mem _ hy, h⟩
      · obtain ⟨y, hy, h⟩ := ih hx a room
        exact ⟨y, List.mem_cons_of_mem _ hy, h⟩

/-- The pieces that the array of a core parks for record `o`, with their bytes. -/
def State.parking (s : State) (ci : Nat) (o : Nat × Nat) : List (Parked × List Byte) :=
  let l := (s.core ci).array.toPark o.1 o.2
  let room := workOn s s.plans ci
  parkAll (shelfBase + ci * shelfSlot + planArea - parkedBytes room l) room l

/-- A core whose array a LIVE record takes from record `o`, with its tile. -/
def Core.takenBy (k : Core) (n r : Nat) (o : Nat × Nat) (tile : Option RegSet) (ps : List (Parked × List Byte)) : Core :=
  let l := k.array.toPark o.1 o.2
  { k with
    live := some (n, r)
    array := { k.array with
      owner := some (n, r)
      active := k.array.active.filter (fun v => !v.block.of o.1 o.2 || v.sums.isEmpty)
      shadow := tile
      carry0 := k.array.carry0.filter (fun x => !x.1.of o.1 o.2)
      carry1 := k.array.carry1.filter (fun x => !x.1.of o.1 o.2)
      epilogue := k.array.epilogue.filter (fun x => !l.any (fun y => y.1 == .epilogue && decide (y.2.1 = x.1)))
      parked := k.array.parked ++ ps.map (·.1)
      parkedOwner := some o } }

/-- A LIVE record in flight, with an instruction for a core whose array a record of a lower class owns (R124). -/
structure Preempts (s : State) (ci n r : Nat) (c : Ctx) (q : Run) (o : Nat × Nat) : Prop where
  ctx : recordCtx s n r = some (c, q)
  cls : c.plan.cls = 0
  flying : r ∈ q.inFlight
  undone : r ∉ q.bodyDone
  owner : (s.core ci).array.owner = some o
  lower : slotClass s o.1 ≠ 0
  free : (s.core ci).live = none
  whole : (s.core ci).escaped = false
  issue : ((c.issues ci)[(s.core ci).array.count n r]?).isSome = true

/-- LIVE_PREEMPT: what is parked is stored, and then the core is the LIVE record's. -/
theorem exec_livePreempt_takes {core : CoreId} {slot : SlotId} {r : Nat} {c : Ctx} {q : Run} {o : Nat × Nat} {s : State}
    (h : Preempts s (coreIx core) slot.val r c q o) :
    let ci := coreIx core
    let k := s.core ci
    let ps := s.parking ci o
    exec (.livePreempt core slot r) s = .next
      ((applyAll (Act.each (fun x => x.1.addr.elim Act.none (fun a => storeMem a x.2)) ps s) s).withCore ci
        (k.takenBy slot.val r o (((c.issues ci)[k.array.count slot.val r]?).bind c.tileOf) ps)) := by
  obtain ⟨hctx, hcls, hflying, hundone, howner, hlower, hfree, hwhole, hissue⟩ := h
  intro ci k ps
  rw [exec, execLivePreempt, Act.run_eq]
  simp only [hctx, howner]
  rw [if_neg (by simp [hcls, hflying, hundone, hlower, hfree, hwhole, hissue]), applyAll_seq]
  rfl

theorem eq_false_of_filter_not_eq_some {α : Type} {p : α → Bool} {x : Option α} {y : α}
    (h : x.filter (fun z => !p z) = some y) : p y = false := by
  simpa using (Option.filter_eq_some_iff.1 h).2

/-- The sums of the open block of the first product are among what is parked. -/
theorem MatArray.carry0_mem_toPark {a : MatArray} {x : BlockId × List Acc} {n r : Nat} (hx : a.carry0 = some x) (hof : x.1.of n r = true) :
    (ParkPlace.carry0, x.1, x.2, none) ∈ a.toPark n r := by
  simp [MatArray.toPark, hx, hof]

/-! ### Bytes of what is parked -/

theorem leNat_toLE (n v : Nat) : leNat (toLE n v) = v % 256 ^ n := by
  induction n generalizing v with
  | zero => rw [Nat.pow_zero, Nat.mod_one]; rfl
  | succ n ih =>
    rw [toLE, leNat, ih, BitVec.toNat_ofNat, Nat.pow_succ' (m := 256), Nat.mod_mul]

@[simp] theorem length_toLE (n v : Nat) : (toLE n v).length = n := by
  induction n generalizing v with
  | zero => rfl
  | succ n ih => rw [toLE, List.length_cons, ih]

/-- Of pieces of `n` bytes one after another, each is found at its place. -/
theorem slice_flatMap {α : Type} {f : α → List Byte} {n : Nat} (hf : ∀ x, (f x).length = n) {l : List α} {i : Nat} {x : α}
    (hx : l[i]? = some x) : slice (l.flatMap f) (n * i) n = f x := by
  induction l generalizing i with
  | nil => cases hx
  | cons y l ih =>
    rw [List.flatMap_cons, slice]
    cases i with
    | zero =>
      cases hx
      rw [Nat.mul_zero, List.drop_zero, List.take_left' (hf x)]
    | succ i =>
      rw [Nat.mul_succ, Nat.add_comm, ← List.drop_drop, List.drop_left' (hf y)]
      exact ih hx

theorem Acc.length_bytes (a : Acc) : a.bytes.length = 12 := by
  unfold Acc.bytes
  split <;> exact length_toLE ..

/-- A sum comes back from its bytes and its flags, unless it holds an integer beside a running sum. -/
theorem Acc.restore_flags_bytes {a : Acc} (h : a.fp.isSome = true → a.int = 0) : a.flags.restore a.bytes = a := by
  obtain ⟨int, nan, pinf, ninf, _ | w⟩ := a
  · simp only [Acc.flags, Acc.bytes, Acc.restore, leNat_toLE, Option.map_none]
    rw [Nat.mod_eq_of_lt (show int.toNat < 256 ^ 12 from int.isLt), BitVec.ofNat_toNat, BitVec.setWidth_eq]
  · obtain rfl : int = 0 := h rfl
    simp only [Acc.flags, Acc.bytes, Acc.restore, leNat_toLE, Option.map_some]
    rw [Nat.mod_eq_of_lt (Nat.lt_trans w.isLt (by decide)), BitVec.ofNat_toNat, BitVec.setWidth_eq]

theorem Parked.sums_flatMap_bytes {sums : List Acc} (h : ∀ x ∈ sums, x.fp.isSome = true → x.int = 0) (place : ParkPlace) (id : BlockId)
    (a : Nat) (held : Option Held) : (⟨place, id, some a, sums.map Acc.flags, held⟩ : Parked).sums (sums.flatMap Acc.bytes) = sums := by
  rw [Parked.sums, if_neg (by simp)]
  refine List.ext_getElem? fun i => ?_
  rw [List.getElem?_mapIdx, List.getElem?_map]
  cases hx : sums[i]? with
  | none => rfl
  | some x =>
    rw [Option.map_some, Option.map_some, slice_flatMap Acc.length_bytes hx, Acc.restore_flags_bytes (h x (List.mem_of_getElem? hx))]

theorem Parked.heldBack_scores (place : ParkPlace) (id : BlockId) (a : Nat) (l : List Word) :
    (⟨place, id, some a, [], some (Held.flags (.scores l))⟩ : Parked).heldBack (Held.bytes (.scores l)) = some (.scores l) := by
  rw [Parked.heldBack, if_neg (by simp)]
  refine congrArg (fun m => some (Held.scores m)) (List.ext_getElem? fun i => ?_)
  rw [List.length_map, List.getElem?_map]
  cases hx : l[i]? with
  | none => rw [List.getElem?_eq_none (by simpa using hx)]; rfl
  | some w =>
    rw [List.getElem?_range (List.getElem?_eq_some_iff.1 hx).1, Option.map_some, fieldLE, Held.bytes,
      slice_flatMap (fun _ => length_toLE ..) hx, leNat_toLE, Nat.mod_eq_of_lt (show w.toNat < 256 ^ 4 from w.isLt), BitVec.ofNat_toNat,
      BitVec.setWidth_eq]

/-! ### The statement -/

/-- Settles O29. Where an instruction's pass stands, it is one write of its core, the release of a finished block, and counts
(`exec_arrayInstruction_passes`, `exec_arrayInstruction_repeats`); what LIVE_PREEMPT parks is stored by writes that reach
no slot, hook or host memory (`storeMem_stores`), and each piece comes back from its bytes and flags (`slice_flatMap`). -/
theorem arrayAndPreemption : Obligations.ArrayAndPreemption := by
  unfold Obligations.ArrayAndPreemption
  refine ⟨?instruction, Ctx.arrayAfter_leaves, ?preempt, fun place id a held sums h => Parked.sums_flatMap_bytes h place id a held,
    Parked.heldBack_scores⟩
  case instruction =>
    intro core slot r mb nb kc second upsets again c v s hinv ci id hnext k tile pass issue
    have hw := hinv.canonical.cores
    refine ⟨fun hx => ⟨exec_arrayInstruction_passes hnext hx, fun hop hlast => ?_⟩, fun hx hy => ?_, fun hx hy => ?_⟩
    · rw [exec_arrayInstruction_passes hnext hx, Ctx.release_none hop hlast, applyAll_seq]
      exact congrArg _ (c.coreOps_issuedIn ci v id _ k hw)
    · exact ⟨_, exec_arrayInstruction_repeats hnext hx hy, c.repeated_leaves ci v id _ hw⟩
    · exact ⟨_, exec_arrayInstruction_escapes hnext hx hy, escapeCore_leaves hw ci _⟩
  case preempt =>
    intro core slot r c q o s hinv hctx hcls hflying hundone ci k howner hlower hfree hwhole hissue
    have hstored : Stored s (applyAll (Act.each (fun x => x.1.addr.elim Act.none (fun a => storeMem a x.2)) (s.parking ci o) s) s) :=
      Stored.effs (Act.Stores.each (fun x => parkStore_stores x) _ s) s
    refine ⟨_, exec_livePreempt_takes ⟨hctx, hcls, hflying, hundone, howner, hlower, hfree, hwhole, hissue⟩, ?_⟩
    rw [State.core_withCore (hstored.cores hinv.canonical.cores)]
    refine ⟨rfl, rfl, rfl, rfl, fun x hx => ?_, fun x hx hof => ?_, hstored.slots, hstored.hooks, hstored.host⟩
    · exact hx.elim eq_false_of_filter_not_eq_some eq_false_of_filter_not_eq_some
    · obtain ⟨y, hy, hkept⟩ := parkAll_mem (MatArray.carry0_mem_toPark hx hof) _ _
      exact ⟨y, List.mem_append_right _ hy, hkept⟩

end Sys2Proof.Machine
end

section
/-! Lane instructions (R171, R174, R180, R181): each is one write of its lane. -/
namespace Sys2Proof.Machine

/-! ### Lanes and their registers -/

/-- Lanes are numbered without repeats. -/
theorem laneIx_inj {u w : LaneId} (h : laneIx u = laneIx w) : u = w := by
  obtain ⟨⟨⟨t, ht⟩, ⟨c, hc⟩⟩, ⟨i, hi⟩⟩ := u
  obtain ⟨⟨⟨t', ht'⟩, ⟨c', hc'⟩⟩, ⟨i', hi'⟩⟩ := w
  simp only [laneIx, coreIx] at h
  obtain ⟨rfl, rfl, rfl⟩ : t = t' ∧ c = c' ∧ i = i' := by omega
  rfl

theorem State.laneOf_withLane {s : State} (hw : Tab.wf Lane.reset s.lanes = true) (u : LaneId) (l : Lane) : (s.withLane u l).laneOf u = l :=
  Tab.look_put_self _ _ _ _ hw

theorem State.laneOf_withLane_other {s : State} (hw : Tab.wf Lane.reset s.lanes = true) {u w : LaneId} (hne : w ≠ u) (l : Lane) :
    (s.withLane u l).laneOf w = s.laneOf w := Tab.look_put_other _ _ _ hw (fun h => hne (laneIx_inj h))

theorem State.withReg_eq (s : State) (u : LaneId) (d : Reg) (v : Word) : s.withReg u d v = s.withLane u ((s.laneOf u).set d.val v) := rfl

/-- A register after a write by an instruction: element registers alone take it (R171). -/
theorem Lane.get_set {l : Lane} (hw : Tab.wf 0 l.regs = true) (d r : Nat) (v : Word) :
    (l.set d v).get r = if r = d ∧ d < 48 then v else l.get r := by
  unfold Lane.set
  split
  next hd =>
    rw [Lane.get, Tab.look_put _ _ _ _ _ hw]
    simp only [hd, and_true]
    rfl
  next hd => rw [if_neg (fun h => hd h.2)]

/-- An instruction's run is one write of its lane. -/
theorem run_laneAct (u : LaneId) (op d a b c : Nat) (s : State) :
    (laneAct u op d a b c).run s = .next (s.withLane u (laneOp (laneEnv s (laneIx u)) (s.laneOf u) op d a b c)) := rfl

/-! ### Integer meanings (R174) -/

/-- Bits 63 to 32 of an integer's 64-bit form. -/
theorem extractLsb'_ofInt (z : Int) : (BitVec.ofInt 64 z).extractLsb' 32 32 = BitVec.ofInt 32 (z / 2 ^ 32) := by
  apply BitVec.eq_of_toNat_eq
  rw [BitVec.extractLsb'_toNat, BitVec.toNat_ofInt, BitVec.toNat_ofInt, Nat.shiftRight_eq_div_pow]
  omega

/-- The signed product of two words, whose high half IMULH takes. -/
theorem signExtend_mul (x y : Word) : x.signExtend 64 * y.signExtend 64 = BitVec.ofInt 64 (x.toInt * y.toInt) :=
  (BitVec.ofInt_mul ..).symm

theorem ite_toInt_le (x y : Word) : (if x.toInt ≤ y.toInt then x else y) = if x.toInt < y.toInt then x else y := by
  by_cases hle : x.toInt ≤ y.toInt
  · by_cases hlt : x.toInt < y.toInt
    · rw [if_pos hle, if_pos hlt]
    · rw [if_pos hle, if_neg hlt, BitVec.eq_of_toInt_eq (Int.le_antisymm hle (Int.not_lt.1 hlt))]
  · rw [if_neg hle, if_neg (fun hlt => hle (Int.le_of_lt hlt))]

theorem ite_toInt_ge (x y : Word) : (if y.toInt ≤ x.toInt then x else y) = if x.toInt < y.toInt then y else x := by
  by_cases h : x.toInt < y.toInt
  · rw [if_pos h, if_neg (Int.not_le.2 h)]
  · rw [if_neg h, if_pos (Int.not_lt.1 h)]

theorem flagWord_slt (x y : Word) : flagWord (x.slt y) = if x.toInt < y.toInt then 1 else 0 := by
  simp [flagWord, BitVec.slt]

theorem flagWord_beq (x y : Word) : flagWord (x == y) = if x = y then 1 else 0 := by
  simp [flagWord]

/-- Settles O41. Each instruction is one write of its lane (`run_laneAct`); the signed product, minimum, maximum and comparisons are brought
to the statement's form. -/
theorem laneIntegers : Obligations.LaneIntegers := by
  unfold Obligations.LaneIntegers
  refine ⟨fun u w d r v s hinv hregs => ⟨?_, fun hne => State.laneOf_withLane_other hinv.canonical.lanes hne _⟩,
    fun u d a b c i s => ?_⟩
  · rw [State.reg, State.withReg_eq, State.laneOf_withLane hinv.canonical.lanes, Lane.get_set hregs]
    exact ite_congr (propext (and_congr_left fun _ => Fin.val_inj)) (fun _ => rfl) (fun _ => rfl)
  · intro x y e l
    refine ⟨rfl, rfl, rfl, rfl, rfl, rfl, rfl, rfl, fun hconv => ?_, rfl, rfl, rfl, ?_, ?_, ?_, rfl, rfl, rfl, rfl, rfl, rfl, ?_, ?_, rfl⟩
    · rw [LaneEnv.flat, hconv]
    · rw [signExtend_mul, extractLsb'_ofInt]
      rfl
    · rw [← ite_toInt_le x y]
      rfl
    · rw [← ite_toInt_ge x y]
      rfl
    · rw [← flagWord_slt x y]
      rfl
    · rw [← flagWord_beq x y]
      rfl

/-! ### Loads and stores (R180, R181) -/

theorem exec_ld (u : LaneId) (d : Reg) (i : Fin 64) (s : State) :
    exec (.ld u d i) s = .next (s.withLane u (laneLoad (laneEnv s (laneIx u)) (s.laneOf u) d.val i.val)) :=
  run_laneAct u 0x60 d.val 0 0 i.val s

theorem exec_st (u : LaneId) (a : Reg) (i : Fin 64) (s : State) :
    exec (.st u a i) s = .next (s.withLane u (laneStore (laneEnv s (laneIx u)) (s.laneOf u) a.val i.val)) :=
  run_laneAct u 0x61 0 a.val 0 i.val s

/-- Settles O44. A used load slot lets LD through in the mode that it names, and a used store slot ST. -/
theorem laneLoadsAndStores : Obligations.LaneLoadsAndStores := by
  unfold Obligations.LaneLoadsAndStores
  intro u d a i s
  dsimp only
  intro hused
  refine ⟨fun hload => ?load, fun hstore hmode => ?store⟩
  case load =>
    refine ⟨fun hmode => ?_, fun hmode => ?_, fun hmode => ?_, fun hmode => ?_, fun hmode => ?_⟩ <;>
      simp only [exec_ld, laneLoad, hused, hload, hmode, Bool.not_true, Bool.or_self, Bool.false_eq_true, if_false, State.withReg_eq]
  case store =>
    simp only [exec_st, laneStore, hused, hstore, Nat.not_le.2 hmode, Bool.not_true, Bool.false_or, Bool.false_eq_true, decide_false,
      if_false, State.reg]

end Sys2Proof.Machine
end

section
/-! What the end of a lane's work unit keeps: every core's count of operations, and of each lane that it either stands or is free. -/
namespace Sys2Proof.Machine

/-! ### What a table lists -/

/-- What a table lists lies above the index that its list lies above. -/
theorem Tab.lt_of_mem {α : Type} [DecidableEq α] {d : α} {t : Tab α} (hw : Tab.wf d t = true) {k : Nat} (hk : Tab.above k t = true)
    {x : Nat × α} (hx : x ∈ t) : k < x.1 := by
  induction t generalizing k with
  | nil => cases hx
  | cons y t ih =>
    obtain ⟨_, habove, ht⟩ := (Tab.wf_cons d y.1 y.2 t).1 hw
    have hky : k < y.1 := by simpa [Tab.above] using hk
    rcases List.mem_cons.1 hx with rfl | hx
    · exact hky
    · exact Nat.lt_trans hky (ih ht habove hx)

/-- What a table lists is what its index reads as. -/
theorem Tab.look_of_mem {α : Type} [DecidableEq α] {d : α} {t : Tab α} (hw : Tab.wf d t = true) {x : Nat × α} (hx : x ∈ t) :
    Tab.look d t x.1 = x.2 := by
  induction t with
  | nil => cases hx
  | cons y t ih =>
    obtain ⟨_, habove, ht⟩ := (Tab.wf_cons d y.1 y.2 t).1 hw
    rcases List.mem_cons.1 hx with rfl | hx
    · exact if_pos rfl
    · have hlt := Tab.lt_of_mem ht habove hx
      rw [Tab.look, if_neg (Nat.ne_of_gt hlt), if_neg (Nat.lt_asymm hlt)]
      exact ih ht hx

/-! ### Writes that count no operation of a core -/

/-- The writes that touch neither a core nor a lane. -/
def Eff.aside : Eff → Bool
  | .core .. | .lane .. | .powerLost | .deviceReset => false
  | _ => true

theorem Eff.aside_eq {e : Eff} (h : e.aside = true) (s : State) : (applyEff s e).cores = s.cores ∧ (applyEff s e).lanes = s.lanes := by
  cases e with
  | core | lane | powerLost | deviceReset => cases h
  | hook k v =>
    rw [applyEff_hook]
    split <;> exact ⟨rfl, rfl⟩
  | count id n =>
    rw [applyEff_count]
    obtain ⟨c, hc | ⟨e, src, d, hc⟩⟩ := s.bump_cases id n <;> exact hc ▸ ⟨rfl, rfl⟩
  | _ => exact ⟨rfl, rfl⟩

/-- The writes that leave the operations of the cores as `s` counts them, and free lanes only. -/
inductive Eff.Spares (s : State) : Eff → Prop where
  | core (c : Nat) (v : Core) (h : v.health.ops = (s.core c).health.ops) : Spares s (.core c v)
  | lane (i : Nat) : Spares s (.lane i Lane.reset)
  | aside {e : Eff} (h : e.aside = true) : Spares s e

/-- A state with the operations that `s` counts of each core, in which each lane stands as in `s` or is free. -/
structure OpsKept (s t : State) : Prop where
  cores : Tab.wf Core.reset t.cores = true
  lanes : Tab.wf Lane.reset t.lanes = true
  ops : ∀ c, (t.core c).health.ops = (s.core c).health.ops
  lane : ∀ i, t.lane i = s.lane i ∨ t.lane i = Lane.reset

theorem OpsKept.refl {s : State} (hcores : Tab.wf Core.reset s.cores = true) (hlanes : Tab.wf Lane.reset s.lanes = true) : OpsKept s s :=
  ⟨hcores, hlanes, fun _ => rfl, fun _ => .inl rfl⟩

section
variable {s t : State}

theorem OpsKept.eff {e : Eff} (he : e.Spares s) (ht : OpsKept s t) : OpsKept s (applyEff t e) := by
  obtain ⟨hcores, hlanes, hops, hlane⟩ := ht
  cases he with
  | core c v h =>
    refine ⟨Tab.wf_put _ _ _ _ hcores, hlanes, fun j => ?_, hlane⟩
    rw [core_after_core t c j v hcores]
    split
    next hj => rw [h, hj]
    next => exact hops j
  | lane i =>
    refine ⟨hcores, Tab.wf_put _ _ i Lane.reset hlanes, hops, fun j => ?_⟩
    rw [lane_after_lane t i j _ hlanes]
    split
    · exact .inr rfl
    · exact hlane j
  | aside h =>
    obtain ⟨hc, hl⟩ := Eff.aside_eq h t
    refine ⟨hc ▸ hcores, hl ▸ hlanes, fun c => ?_, fun i => ?_⟩
    · rw [State.core, hc]
      exact hops c
    · rw [State.lane, hl]
      exact hlane i

/-- A core of the table counts the operations that it counts in `s`. -/
theorem OpsKept.ops_mem (ht : OpsKept s t) {x : Nat × Core} (hx : x ∈ t.cores) : x.2.health.ops = (s.core x.1).health.ops := by
  rw [← ht.ops, State.core, Tab.look_of_mem ht.cores hx]

/-- A core of the table written with the operations that it counts. -/
theorem OpsKept.core_mem (ht : OpsKept s t) {x : Nat × Core} (hx : x ∈ t.cores) {v : Core} (hv : v.health.ops = x.2.health.ops) :
    (Eff.core x.1 v).Spares s := .core _ _ (hv.trans (ht.ops_mem hx))

theorem OpsKept.effs {es : List Eff} (hes : ∀ e ∈ es, e.Spares s) (ht : OpsKept s t) : OpsKept s (applyAll es t) :=
  applyAll_keeps_of es (fun e he _ => OpsKept.eff (hes e he)) t ht

/-- An activity that writes aside of cores and lanes. -/
theorem OpsKept.aside {a : Act} (h : ∀ s, (a s).all Eff.aside = true) : a.Keeps (OpsKept s) := fun t ht =>
  ht.effs fun e he => .aside (List.all_eq_true.1 (h t) e he)

theorem OpsKept.completionInvariant (s : State) : CompletionInvariant (OpsKept s) where
  eff he ht := ht.eff (.aside (by cases he <;> rfl))
  chute _ ht := ht.eff (.aside rfl)

theorem Act.Keeps.when {P : State → Prop} {a : Act} (h : a.Keeps P) (b : Bool) : (Act.when b a).Keeps P := by
  cases b
  · exact Act.Keeps.none
  · exact h

/-! ### Memory -/

theorem bankGrown_aside (k : Nat) (b : Bank) : (bankGrown k b).all Eff.aside = true := by
  unfold bankGrown
  split <;> rfl

theorem retireBank_aside (k reason : Nat) (s : State) : (retireBank k reason s).all Eff.aside = true := by
  simp only [retireBank, sheetInPlace]
  repeat' split
  all_goals simp [bankGrown_aside, Eff.aside, sheetCount]

theorem OpsKept.bankFault (k : Nat) : (bankFault k).Keeps (OpsKept s) := fun t =>
  Act.Keeps.seq (OpsKept.aside fun _ => rfl) (by
    split
    · exact OpsKept.aside (retireBank_aside k 1)
    · exact Act.Keeps.none) t

theorem OpsKept.coreFault (c : Nat) : (coreFault c).Keeps (OpsKept s) := fun _ ht => ht.eff (.core c _ (by exact ht.ops c))

theorem OpsKept.eccFault (w : Nat) : (eccFault w).Keeps (OpsKept s) := by
  unfold Machine.eccFault
  split
  · exact OpsKept.bankFault _
  · split
    · exact OpsKept.coreFault _
    · exact Act.Keeps.none

theorem OpsKept.bankCatchUp (w : Nat) : (bankCatchUp w).Keeps (OpsKept s) := OpsKept.aside fun t => by
  unfold Machine.bankCatchUp
  split <;> rfl

theorem OpsKept.eccRecord (w : Nat) : (eccRecord w).Keeps (OpsKept s) := (OpsKept.bankCatchUp w).seq (OpsKept.aside fun _ => rfl)

theorem OpsKept.eccCorrected (w : Nat) : (eccCorrected w).Keeps (OpsKept s) :=
  (OpsKept.aside fun _ => rfl).seq ((OpsKept.eccRecord w).seq (((OpsKept.eccFault w).when _).seq Act.Keeps.none))

theorem OpsKept.meetWord (w : Nat) : (meetWord w).Keeps (OpsKept s) := fun t ht => by
  unfold Machine.meetWord
  split
  · exact ht
  · refine Act.Keeps.seq (OpsKept.eccCorrected w) (OpsKept.aside fun u => ?_) t ht
    split
    · rfl
    · dsimp only
      split
      · rfl
      · exact bankGrown_aside _ _
  · exact Act.Keeps.seq (OpsKept.aside fun _ => rfl) ((OpsKept.eccRecord w).seq ((OpsKept.eccFault w).seq Act.Keeps.none)) t ht
  · exact ht
  · exact Act.Keeps.seq (OpsKept.aside fun _ => rfl) ((OpsKept.bankCatchUp w).seq (OpsKept.eccFault w)) t ht

theorem OpsKept.wakeRange (a n : Nat) : (wakeRange a n).Keeps (OpsKept s) := OpsKept.aside fun t => by
  simp [Machine.wakeRange, Eff.aside]

theorem OpsKept.meetRange (a n : Nat) : (meetRange a n).Keeps (OpsKept s) :=
  (OpsKept.wakeRange a n).seq fun t => Act.Keeps.each (fun _ => OpsKept.meetWord _) _ t

theorem OpsKept.storeMem (a : Nat) (bs : List Byte) : (storeMem a bs).Keeps (OpsKept s) := fun t => by
  refine Act.Keeps.seq (OpsKept.wakeRange a _) (Act.Keeps.seq (Act.Keeps.each (fun x => ?_) _)
    (Act.Keeps.seq (OpsKept.aside fun _ => rfl) Act.Keeps.none)) t
  split
  · exact OpsKept.aside fun _ => rfl
  · refine (OpsKept.meetWord _).seq ?_
    split
    · exact Act.Keeps.none
    · exact OpsKept.aside fun _ => rfl

theorem OpsKept.storeSealed (a : Nat) (bs : List Byte) : (storeSealed a bs).Keeps (OpsKept s) := fun t => by
  refine Act.Keeps.each (fun k u hu => ?_) _ t
  dsimp only
  split
  · exact hu
  · refine Act.Keeps.seq ?_ ?_ u hu
    · split
      · exact OpsKept.meetRange _ _
      · exact Act.Keeps.none
    · split
      · exact Act.Keeps.none
      · exact OpsKept.storeMem _ _

theorem OpsKept.planStore (isSealed : Bool) (a : Nat) (bs : List Byte) : (planStore isSealed a bs).Keeps (OpsKept s) := by
  cases isSealed
  · exact OpsKept.storeMem a bs
  · exact OpsKept.storeSealed a bs

/-! ### The stores of a unit -/

theorem OpsKept.storeCrate (c : Ctx) (home i q : Nat) (xs : List Nat) : (storeCrate c home i q xs).Keeps (OpsKept s) := fun t =>
  Act.Keeps.seq (OpsKept.storeMem _ _) (OpsKept.storeMem _ _) t

theorem OpsKept.storeElems (c : Ctx) (es : List ElemW) : (storeElems c es).Keeps (OpsKept s) := by
  unfold Machine.storeElems
  rw [Act.all_cons, Act.all_cons, Act.all_cons]
  refine Act.Keeps.seq (fun t => ?_) (Act.Keeps.seq (fun t => ?_) (Act.Keeps.seq ?_ Act.Keeps.none))
  · exact Act.Keeps.each (fun _ => OpsKept.storeMem _ _) _ t
  · exact Act.Keeps.each (fun _ => OpsKept.storeSealed _ _) _ t
  · exact Act.Keeps.each (fun _ => OpsKept.storeCrate _ _ _ _ _) _

theorem OpsKept.storeUnit (c : Ctx) (ws : List ElemW) : (storeUnit c ws).Keeps (OpsKept s) := fun t ht => by
  unfold Machine.storeUnit
  split
  · exact ht
  · refine Act.Keeps.seq (OpsKept.aside fun _ => ?_) (OpsKept.storeElems _ _) t ht
    rw [Act.of_apply]
    split <;> rfl

theorem OpsKept.unitWords (e : LaneEnv) (l : Lane) : (unitWords e l).Keeps (OpsKept s) := by
  refine Act.Keeps.each (fun x => ?_) _
  dsimp only
  split
  · split
    · exact Act.Keeps.none
    · exact (OpsKept.completionInvariant s).releaseHook _ _ _ _
  · split
    · exact Act.Keeps.none
    · exact OpsKept.planStore _ _ _

theorem OpsKept.taintShelves (ids : List Dword) (cores : List Nat) : (taintShelves ids cores).Keeps (OpsKept s) := OpsKept.aside fun t => by
  unfold Machine.taintShelves
  split
  · rfl
  · simp [Eff.aside]

theorem OpsKept.taintAct (c : Ctx) : (taintAct c).Keeps (OpsKept s) := fun t => OpsKept.taintShelves _ _ t

theorem OpsKept.convCounts (n r sat nan0 : Nat) : (convCounts n r sat nan0).Keeps (OpsKept s) := OpsKept.aside fun t => by
  rw [Machine.convCounts, Act.of_apply]
  split <;> split <;> rfl

/-! ### The end of a record -/

theorem OpsKept.endCrates (c : Ctx) (held : List CratePart) : (endCrates c held).Keeps (OpsKept s) := by
  unfold Machine.endCrates
  refine (OpsKept.storeElems _ _).seq (OpsKept.aside fun t => ?_)
  split
  · rfl
  · rw [List.all_append]
    split <;> split <;> rfl

theorem OpsKept.crateGlitches (c : Ctx) (ps : List Part) : (crateGlitches c ps).Keeps (OpsKept s) := fun t => by
  unfold Machine.crateGlitches
  refine Act.Keeps.seq (OpsKept.aside fun _ => ?_)
    (Act.Keeps.each (fun _ => Act.Keeps.seq (OpsKept.aside fun _ => rfl) (OpsKept.coreFault _)) _) t
  rw [Act.of_apply]
  split <;> rfl

theorem OpsKept.readParts (c : Ctx) (ps : List Part) : (readParts c ps).Keeps (OpsKept s) := by
  refine (Act.Keeps.each (fun x => OpsKept.wakeRange _ _) _).seq ((Act.Keeps.each (fun x => ?_) _).seq
    ((Act.Keeps.each (fun x => OpsKept.meetWord x) _).seq ((OpsKept.crateGlitches c ps).seq
      ((OpsKept.aside fun _ => by simp [crateCounts, Eff.aside]).seq Act.Keeps.none))))
  split
  · exact OpsKept.wakeRange _ _
  · exact Act.Keeps.none

theorem OpsKept.blurDraw : blurDraw.Keeps (OpsKept s) := OpsKept.aside fun _ => by
  unfold Machine.blurDraw
  split <;> rfl

theorem OpsKept.markBody (n r : Nat) : (markBody n r).Keeps (OpsKept s) := OpsKept.aside fun _ => by
  unfold Machine.markBody
  split <;> rfl

theorem OpsKept.reportEvents (n : Nat) (evs : List Malformed) : (reportEvents n evs).Keeps (OpsKept s) := by
  unfold Machine.reportEvents
  split
  · exact Act.Keeps.none
  · exact OpsKept.aside fun _ => by split <;> rfl

theorem OpsKept.endLane (n r : Nat) : (endLane n r).Keeps (OpsKept s) := fun t ht => by
  unfold Machine.endLane
  split
  · exact ht
  · dsimp only
    split
    · exact ht
    · refine Act.Keeps.seq OpsKept.blurDraw ((OpsKept.readParts _ _).seq ((OpsKept.taintAct _).seq ((OpsKept.endCrates _ _).seq
        (Act.Keeps.seq ?_ Act.Keeps.none)))) t ht
      split
      · exact Act.Keeps.none
      · refine (OpsKept.reportEvents _ _).seq (Act.Keeps.seq (fun u hu => hu.effs fun e he => ?_) ((OpsKept.markBody n r).seq Act.Keeps.none))
        obtain ⟨x, hx, rfl⟩ := List.mem_map.1 he
        exact ht.core_mem (List.mem_filter.1 hx).1 rfl

/-! ### Retirements -/

theorem OpsKept.setRun (n : Nat) (f : Run → Run) : (setRun n f).Keeps (OpsKept s) := OpsKept.aside fun _ => by
  unfold Machine.setRun
  split <;> rfl

theorem OpsKept.endCollectives (n : Nat) : (endCollectives n).Keeps (OpsKept s) := OpsKept.aside fun _ => by
  unfold Machine.endCollectives
  split
  · rfl
  · simp [Eff.aside]

theorem OpsKept.unparkCore (k : Nat) : (unparkCore k).Keeps (OpsKept s) := fun t => by
  unfold Machine.unparkCore
  refine Act.Keeps.seq (Act.Keeps.each (fun _ => OpsKept.meetRange _ _) _) (fun u hu => ?_) t
  exact hu.eff (.core k _ (by exact hu.ops k))

theorem OpsKept.clearCores (n : Nat) : (clearCores n).Keeps (OpsKept s) := fun t => by
  refine Act.Keeps.seq (Act.Keeps.each OpsKept.unparkCore _) (fun u hu => hu.effs fun e he => ?_) t
  rcases List.mem_append.1 he with he | he
  · obtain ⟨x, hx, rfl⟩ := List.mem_map.1 he
    exact hu.core_mem (List.mem_filter.1 hx).1 rfl
  · obtain ⟨x, _, rfl⟩ := List.mem_map.1 he
    exact .lane x.1

theorem OpsKept.clearSlotArrays (n : Nat) : (clearSlotArrays n).Keeps (OpsKept s) := fun t ht => by
  unfold Machine.clearSlotArrays
  split
  · exact ht
  · refine Act.Keeps.each (fun r u hu => hu.effs fun e he => ?_) _ t ht
    obtain ⟨x, hx, rfl⟩ := List.mem_map.1 he
    exact hu.core_mem hx rfl

theorem OpsKept.stopJob (fid : Half) (n : Nat) : (stopJob fid n).Keeps (OpsKept s) :=
  ((OpsKept.endCollectives n).seq (((OpsKept.completionInvariant s).dropWaiters _).seq ((OpsKept.clearCores n).seq
    ((OpsKept.clearSlotArrays n).seq ((OpsKept.aside fun _ => rfl).seq ((OpsKept.setRun n _).seq Act.Keeps.none)))))).seq (OpsKept.setRun n _)

theorem OpsKept.setArea (a : ShelfArea) : (setArea a).Keeps (OpsKept s) := OpsKept.aside fun _ => rfl

theorem OpsKept.moveBytes (src dst n : Nat) : (moveBytes src dst n).Keeps (OpsKept s) := fun t =>
  Act.Keeps.seq (OpsKept.meetRange src n) ((OpsKept.storeMem dst _).seq (Act.Keeps.seq (fun u hu => hu.effs fun e he => by
    obtain ⟨x, _, hx⟩ := List.mem_filterMap.1 he
    split at hx
    · exact Option.some.inj hx ▸ .aside rfl
    · cases hx) Act.Keeps.none)) t

theorem OpsKept.packAreas (c : Nat) (copy : Bool) (as : List ShelfArea) (b : Nat) : (packAreas c copy as b).Keeps (OpsKept s) := by
  induction as generalizing b with
  | nil => exact Act.Keeps.none
  | cons a as ih => exact (((OpsKept.moveBytes _ _ _).when _).seq (OpsKept.setArea _)).seq (ih _)

theorem OpsKept.seatCore (isNew : Nat → Nat → Bool) (c : Nat) : (seatCore isNew c).Keeps (OpsKept s) := fun t ht => by
  unfold Machine.seatCore
  dsimp only
  split
  · exact Act.Keeps.each OpsKept.setArea _ t ht
  · exact Act.Keeps.seq (OpsKept.packAreas _ _ _ _) (OpsKept.packAreas _ _ _ _) t ht

theorem OpsKept.moveSplits (k : Core) : (moveSplits k).Keeps (OpsKept s) := Act.Keeps.each (fun q t ht => by
  dsimp only
  split
  · exact ht
  · split
    · exact ht
    · exact ht.eff (.core _ _ (by exact ht.ops _))) _

theorem OpsKept.borrowPositions : borrowPositions.Keeps (OpsKept s) := OpsKept.aside fun t => List.all_eq_true.2 fun e he => by
  obtain ⟨x, _, hx⟩ := List.mem_filterMap.1 he
  obtain ⟨u, _, rfl⟩ := Option.map_eq_some_iff.1 hx
  rfl

theorem OpsKept.sheetCore (c reason : Nat) : (sheetCore c reason).Keeps (OpsKept s) := fun t ht => by
  unfold Machine.sheetCore
  split
  · exact ht
  · refine Act.Keeps.seq (fun u hu => ?_) OpsKept.borrowPositions t ht
    simp only [Act.of_apply, applyAll_cons, applyAll_nil]
    exact (((hu.eff (.aside rfl)).eff (.core c _ (by exact ht.ops c))).eff (.aside rfl)).eff (.aside rfl)

theorem OpsKept.retireCore (c reason : Nat) : (retireCore c reason).Keeps (OpsKept s) := fun t =>
  Act.Keeps.seq (OpsKept.sheetCore c reason) (Act.Keeps.seq (fun u => Act.Keeps.each (OpsKept.seatCore _) _ u)
    (Act.Keeps.seq (by
      split
      · exact OpsKept.moveSplits _
      · exact Act.Keeps.none) ((Act.Keeps.each (OpsKept.stopJob _) _).seq Act.Keeps.none))) t

theorem OpsKept.retireCores : retireCores.Keeps (OpsKept s) := fun t => by
  unfold Machine.retireCores
  exact Act.Keeps.each (fun _ => OpsKept.retireCore _ _) _ t

end

/-! ### The end of a work unit (R183) -/

/-- One activity leads to where the next one starts. -/
theorem Act.seq_leads {P Q R : State → Prop} {a b : Act} (ha : ∀ s, P s → Q (applyAll (a s) s)) (hb : ∀ s, Q s → R (applyAll (b s) s))
    (s : State) (hs : P s) : R (applyAll (Act.seq a b s) s) := by
  rw [applyAll_seq]
  exact hb _ (ha s hs)

/-- A lane that is free stays so. -/
theorem OpsKept.keeps_free {a : Act} (h : ∀ s, a.Keeps (OpsKept s)) (s : State) (i : Nat) :
    a.Keeps (fun t => OpsKept s t ∧ t.lane i = Lane.reset) := fun t ⟨ht, hfree⟩ =>
  ⟨h s t ht, ((h t t (.refl ht.cores ht.lanes)).lane i).elim (fun hl => hl.trans hfree) id⟩

/-- A unit whose checks pass leaves its lane free; where its core holds no splits, nothing is dealt to it. -/
theorem releaseUnit_frees {s : State} {i : Nat} (hs : OpsKept s s) (hruns : (s.core (i / 128)).laneRuns = []) :
    OpsKept s (applyAll (releaseUnit i s) s) ∧ (applyAll (releaseUnit i s) s).lane i = Lane.reset := by
  have hfreed (n : Nat) (t : State) (ht : OpsKept s t) : OpsKept s (applyAll (Act.of [.lane i Lane.reset, .count n 1] t) t)
      ∧ (applyAll (Act.of [.lane i Lane.reset, .count n 1] t) t).lane i = Lane.reset := by
    rw [Act.of_apply, applyAll_cons, applyAll_cons, applyAll_nil]
    refine ⟨(ht.eff (.lane i)).eff (.aside rfl), ?_⟩
    rw [State.lane, (Eff.aside_eq rfl _).2]
    exact Tab.look_put_self _ _ i Lane.reset ht.lanes
  unfold releaseUnit
  dsimp only
  rw [hruns]
  exact Act.seq_leads (OpsKept.storeUnit _ _) (Act.seq_leads (OpsKept.unitWords _ _) (Act.seq_leads (OpsKept.taintAct _)
    (Act.seq_leads (OpsKept.convCounts _ _ _ _) (Act.seq_leads (hfreed _)
      (Act.Keeps.none.seq ((OpsKept.keeps_free (fun _ => OpsKept.endLane _ _) s i).seq Act.Keeps.none)))))) s hs

theorem laneIx_div (u : LaneId) : laneIx u / 128 = coreIx u.core := by
  unfold laneIx
  omega

/-- A unit whose checks pass counts as an operation of its core, and is released; then cores that wait for it retire. -/
def unitCompletion (u : LaneId) : Act := Act.all [coreOps (coreIx u.core) 1 0, releaseUnit (laneIx u), retireCores]

theorem unitCompletion_frees {u : LaneId} {s : State} (hcores : Tab.wf Core.reset s.cores = true) (hlanes : Tab.wf Lane.reset s.lanes = true)
    (hruns : (s.core (coreIx u.core)).laneRuns = []) :
    (applyAll (unitCompletion u s) s).laneOf u = Lane.reset
      ∧ ((applyAll (unitCompletion u s) s).core (coreIx u.core)).health.ops = (s.core (coreIx u.core)).health.ops + 1 := by
  let counted := s.withCore (coreIx u.core) ((s.core (coreIx u.core)).counting 1 0)
  have hcore : counted.core (coreIx u.core) = (s.core (coreIx u.core)).counting 1 0 := State.core_withCore hcores _ _
  have hnone : (counted.core (laneIx u / 128)).laneRuns = [] := by
    rw [laneIx_div, hcore]
    exact hruns
  have hreleased := releaseUnit_frees (.refl (State.withCore_wf hcores _ _) hlanes) hnone
  obtain ⟨hkept, hlane⟩ := OpsKept.keeps_free (fun _ => OpsKept.retireCores) counted _ _ hreleased
  rw [unitCompletion, Act.all_cons, applyAll_seq, applyAll_coreOps, Act.all_cons, applyAll_seq, Act.all_cons, applyAll_seq]
  exact ⟨hlane, (hkept.ops _).trans (by rw [hcore, Core.counting_zero])⟩

theorem exec_laneWorkUnitComplete_passes {u : LaneId} {s : State} (hbusy : (s.laneOf u).busy = true) (hended : (s.laneOf u).ended = true)
    (hescaped : (s.core (coreIx u.core)).escaped = false) : exec (.laneWorkUnitComplete u 0) s =
      .next (applyAll (unitCompletion u s) s) := by
  rw [State.laneOf] at hbusy hended
  rw [exec, execLaneWorkUnitComplete, Act.run_eq]
  dsimp only
  rw [if_neg (by simp [hbusy, hended, hescaped]), if_neg (by decide), if_neg (by decide)]
  rfl

theorem exec_laneWorkUnitComplete_escapes {u : LaneId} {s : State} (hbusy : (s.laneOf u).busy = true) (hended : (s.laneOf u).ended = true)
    (hescaped : (s.core (coreIx u.core)).escaped = false) : exec (.laneWorkUnitComplete u 2) s =
      .next (applyAll (escapeCore (coreIx u.core) s) s) := by
  rw [State.laneOf] at hbusy hended
  rw [exec, execLaneWorkUnitComplete, Act.run_eq]
  dsimp only
  rw [if_neg (by simp [hbusy, hended, hescaped]), if_pos (by decide)]

theorem exec_laneWorkUnitComplete_held {u : LaneId} {s : State} (hescaped : (s.core (coreIx u.core)).escaped = true) (n : Fin 3) :
    exec (.laneWorkUnitComplete u n) s = .next s := by
  rw [exec, execLaneWorkUnitComplete, Act.run_eq]
  dsimp only
  rw [if_pos (by simp [hescaped]), applyAll_nil]

/-- A fault that escapes writes its core alone. -/
theorem applyAll_escapeCore {s : State} (hw : Tab.wf Core.reset s.cores = true) (ci : Nat) : applyAll (escapeCore ci s) s =
    (s.withCore ci ((s.core ci).counting 2 2)).withCore ci { (s.core ci).counting 2 2 with escaped := true } := by
  rw [escapeCore, applyAll_seq, applyAll_coreOps, State.core_withCore hw]
  rfl

end Sys2Proof.Machine
end

section
/-! Reductions, PASS and END, and the completion of a lane's work unit. -/
namespace Sys2Proof.Machine

/-! ### Reductions and the end of an element (R171, R179) -/

/-- The first contribution of a reduction. -/
theorem laneReduce_first {l : Lane} {d : Nat} (h : ∀ x ∈ l.partials, x.1 ≠ d) (k : Reduce) (a : Nat) :
    laneReduce l k d a = { l with partials := l.partials ++ [(d, k, Partial.first k (l.get a))] } := by
  have hnone : l.partials.find? (fun x => x.1 == d) = none := List.find?_eq_none.2 fun x hx => by simp [h x hx]
  rw [laneReduce, hnone]

/-- A further contribution to a reduction joins the partial of its own kind. -/
theorem laneReduce_next {l : Lane} {k : Reduce} {d : Nat} (hmem : ∃ x ∈ l.partials, x.1 = d) (hkind : ∀ x ∈ l.partials, x.1 = d → x.2.1 = k)
    (k' : Reduce) (a : Nat) :
    laneReduce l k' d a = { l with
      partials := l.partials.map (fun x => if x.1 = d then (d, x.2.1, x.2.2.next k (l.get a)) else x) } := by
  have hsome : (l.partials.find? (fun x => x.1 == d)).isSome := List.find?_isSome.2 (by simpa using hmem)
  obtain ⟨y, hy⟩ := Option.isSome_iff_exists.1 hsome
  rw [laneReduce, hy]
  refine congrArg (fun ps => { l with partials := ps }) (List.map_congr_left fun x hx => ?_)
  by_cases hd : x.1 = d
  · rw [if_pos hd, if_pos hd, hkind x hx hd]
  · rw [if_neg hd, if_neg hd]

/-- A lane whose element has ended: the row registers are kept, the element registers and the flags cleared. -/
def Lane.cleared (l : Lane) : Lane := { l with regs := l.regs.filter (fun x => 48 ≤ x.1), flags := [] }

theorem laneEnd_next {e : LaneEnv} {l : Lane} (hbusy : l.busy = true) (h : l.elem + 1 < min (32 * (l.elem / 32 + 1)) e.prog.l) :
    laneEnd e l = e.begin { l.cleared with elem := l.elem + 1 } := by
  rw [laneEnd, if_neg (by simp [hbusy]), if_pos h]
  rfl

theorem laneEnd_last {e : LaneEnv} {l : Lane} (hbusy : l.busy = true) (h : min (32 * (l.elem / 32 + 1)) e.prog.l ≤ l.elem + 1) :
    laneEnd e l = { l.cleared with ended := true } := by
  rw [laneEnd, if_neg (by simp [hbusy]), if_neg (Nat.not_lt.2 h)]
  rfl

theorem exec_rsum (u : LaneId) (d a : Reg) (s : State) :
    exec (.rsum u d a) s = .next (s.withLane u (laneReduce (s.laneOf u) .sum d.val a.val)) :=
  run_laneAct u 0x70 d.val a.val 0 0 s

theorem exec_rmax (u : LaneId) (d a : Reg) (s : State) :
    exec (.rmax u d a) s = .next (s.withLane u (laneReduce (s.laneOf u) .max d.val a.val)) :=
  run_laneAct u 0x71 d.val a.val 0 0 s

theorem exec_rmin (u : LaneId) (d a : Reg) (s : State) :
    exec (.rmin u d a) s = .next (s.withLane u (laneReduce (s.laneOf u) .min d.val a.val)) :=
  run_laneAct u 0x72 d.val a.val 0 0 s

theorem exec_rwel (u : LaneId) (d a : Reg) (s : State) :
    exec (.rwel u d a) s = .next (s.withLane u (laneReduce (s.laneOf u) .wel d.val a.val)) :=
  run_laneAct u 0x73 d.val a.val 0 0 s

theorem exec_pass (u : LaneId) (s : State) :
    exec (.pass u) s = .next (s.withLane u (laneEnd (laneEnv s (laneIx u)) (s.laneOf u))) := run_laneAct u 0xF0 0 0 0 0 s

theorem exec_finish (u : LaneId) (s : State) :
    exec (.finish u) s = .next (s.withLane u (laneEnd (laneEnv s (laneIx u)) (s.laneOf u))) := run_laneAct u 0xFF 0 0 0 0 s

/-! ### The statement -/

/-- Settles O45. A unit whose checks pass is one operation of its core and the release of its lane; what the release stores and what the
record's end and the retirements do count no further operation and leave a free lane free (`OpsKept`). -/
theorem laneReductionsAndEnds : Obligations.LaneReductionsAndEnds := by
  unfold Obligations.LaneReductionsAndEnds
  refine ⟨fun u d a s => ?instructions, fun u n s hescaped => ?held,
    fun u s hinv _ hbusy hended hescaped => ⟨fun hruns => ?completes, ?escapes⟩⟩
  case instructions =>
    refine ⟨fun hfirst => ?_, fun hmem hkind => ?_, fun hmem hkind => ?_, fun hmem hkind => ?_, fun hmem hkind => ?_, fun hbusy hmore => ?_,
      fun hbusy hlast => ?_⟩
    · simp only [exec_rsum, exec_rmax, exec_rmin, exec_rwel, laneReduce_first hfirst]
      exact ⟨rfl, rfl, rfl, rfl⟩
    · rw [exec_rsum, laneReduce_next hmem hkind]
      rfl
    · rw [exec_rmax, laneReduce_next hmem hkind]
      rfl
    · rw [exec_rmin, laneReduce_next hmem hkind]
      rfl
    · rw [exec_rwel, laneReduce_next hmem hkind]
      rfl
    · rw [exec_pass, exec_finish, laneEnd_next hbusy hmore]
      exact ⟨rfl, rfl⟩
    · rw [exec_pass, exec_finish, laneEnd_last hbusy hlast]
      exact ⟨rfl, rfl⟩
  case held => exact exec_laneWorkUnitComplete_held hescaped n
  case completes =>
    exact ⟨_, exec_laneWorkUnitComplete_passes hbusy hended hescaped, unitCompletion_frees hinv.canonical.cores hinv.canonical.lanes hruns⟩
  case escapes =>
    have hcores := hinv.canonical.cores
    refine ⟨_, exec_laneWorkUnitComplete_escapes hbusy hended hescaped, ?_⟩
    rw [applyAll_escapeCore hcores, State.core_withCore (State.withCore_wf hcores _ _)]
    exact ⟨rfl, rfl, rfl, rfl, Health.faultN_ops _ _⟩

end Sys2Proof.Machine
end

section
/-! The switch of table sets (R195 to R199): TABLE_LOAD, TABLE_SELECT, the writing of the banks, and the end of the switch. -/
namespace Sys2Proof.Machine

/-! ### The start of a switch (R196, R197) -/

@[simp] theorem applyAll_startSwitch (h : Hdr) (t : TableSet) (s : State) :
    applyAll (startSwitch h t s) s = { s with tables := { s.tables with
      writing := some t
      command := some h } } := rfl

theorem exec_tableSelect {k : Byte} {s : State} (hs : Serves s false) (h : Hdr) (hk : k.toNat ≤ 1) :
    exec (.tableSelect h k) s = .next (applyAll (
      (if s.tables.command.isSome then finish h stBusy else startSwitch h (if k = 0 then .standard else .c12)) s) s) := by
  simp only [exec, execTableSelect, Act.run_eq, command_of_serves hs, if_neg (Nat.not_lt.2 hk)]
  split <;> rfl

theorem exec_tableSelect_wrong {k : Byte} {s : State} (hs : Serves s false) (h : Hdr) (hk : 1 < k.toNat) :
    exec (.tableSelect h k) s = .next (afterReply h (Reply.badField 32) s) := by
  simp only [exec, execTableSelect, Act.run_eq, command_of_serves hs, if_pos hk, applyAll_badField]

/-- A pending switch decides before the image does. -/
theorem exec_tableLoad {h : Hdr} {host : Dword} {len : Word} {s : State} (hs : ServesHost s h false) (hlen : len.toNat = 3584)
    {o : Option TableSet} (himage : parseTables (hostData s h host.toNat 3584) = o) :
    exec (.tableLoad h host len) s = .next (applyAll (
      (if s.tables.command.isSome then finish h stBusy else o.elim (finish h stBadParameter) (startSwitch h)) s) s) := by
  have hne : len ≠ 0 := by
    rintro rfl
    cases hlen
  simp only [exec, execTableLoad, Act.run_eq, hostCommand_of_servesHost hs, if_neg hne, hlen, ne_eq, not_true_eq_false, if_false, himage]
  cases o <;> split <;> rfl

/-! ### Its end (R197, R199) -/

/-- A job carries an older generation than the active set's: in its records, or in the landing that it would restart from. -/
def Run.Older (s : State) (q : Run) : Prop :=
  q.gen ≠ s.tables.generation
    ∨ (q.landings.waiting.isSome = true ∧ q.landings.resume.isSome = true ∧ q.landings.resumeGen ≠ s.tables.generation)

theorem carriesOld_iff (s : State) : carriesOld s = true ↔ ∃ x ∈ s.slots, ∃ q, x.2.run = some q ∧ q.Older s := by
  simp [carriesOld, Run.Older, Option.any_eq_true, and_assoc]

theorem exec_tableSwitchComplete_waits {s : State} (h : s.tables.writing.isSome = true ∨ carriesOld s = true) :
    exec .tableSwitchComplete s = .next s := by
  have hwait : (s.tables.writing.isSome || carriesOld s) = true := by simpa using h
  simp only [exec, execTableSwitchComplete, Act.run_eq, hwait, if_true]
  split <;> rfl

theorem exec_tableSwitchComplete_answers {h : Hdr} {s : State} (hcommand : s.tables.command = some h) (hwriting : s.tables.writing = none)
    (hold : carriesOld s = false) :
    let id := s.tables.active.ident
    exec .tableSwitchComplete s = .next (afterReply h (Reply.done (id % 2 ^ 32) (id / 2 ^ 32) 0) ({ s with tables := { s.tables with
      old := none
      command := none } }.log 0x0306 0 (toLE 8 id))) := by
  simp [exec, execTableSwitchComplete, hcommand, hwriting, hold, logAct]

/-- Settles O53. A switch ends once its banks are written and no run is older than the active set, which is what `carriesOld` asks of
the slots (`carriesOld_iff`). -/
theorem tableSwitching : Obligations.TableSwitching := by
  unfold Obligations.TableSwitching
  refine ⟨fun h host len k s hs hlen hk => ⟨fun hbusy => ?busy, fun hfree => ⟨?select, ?load⟩⟩,
    fun h k s hs hk => exec_tableSelect_wrong hs h hk, fun s => ⟨fun hnone => ?unwritten, fun t ht => ?written⟩,
    fun h s hcommand => ⟨fun hwait => ?waits, fun hwriting hyoung => ?answers⟩⟩
  case busy =>
    rw [exec_tableLoad hs hlen rfl, exec_tableSelect hs.serves h hk, if_pos hbusy, if_pos hbusy, applyAll_finish]
    exact ⟨rfl, rfl⟩
  case select => rw [exec_tableSelect hs.serves h hk, hfree, if_neg (by decide), applyAll_startSwitch]
  case load =>
    split
    next himage => rw [exec_tableLoad hs hlen himage, hfree]; rfl
    next t himage => rw [exec_tableLoad hs hlen himage, hfree]; rfl
  case unwritten => simp [exec, execTableBanksWritten, hnone]
  case written => simp [exec, execTableBanksWritten, ht]
  case waits => exact exec_tableSwitchComplete_waits (hwait.imp_right (carriesOld_iff s).2)
  case answers =>
    have hold : carriesOld s = false := by
      rw [← Bool.not_eq_true, carriesOld_iff]
      rintro ⟨x, hx, q, hq, hold⟩
      exact hyoung x hx q hq hold
    exact exec_tableSwitchComplete_answers hcommand hwriting hold

end Sys2Proof.Machine
end

section
/-! Runs of plan slots: what an activity of a run reads and writes, a run that stays at its step, and RUN (R209, R269, R294, R310, R389). -/
namespace Sys2Proof.Machine

/-! ### Slots and their runs -/

/-- A slot with a new run in it. -/
def State.withSlotRun (s : State) (n : Nat) (q : Run) : State := s.withSlot n { s.slot n with run := some q }

theorem State.slot_withSlot {s : State} (hw : Tab.wf Slot.reset s.slots = true) (n : Nat) (v : Slot) : (s.withSlot n v).slot n = v :=
  Tab.look_put_self _ _ _ _ hw

theorem State.withSlot_wf {s : State} (hw : Tab.wf Slot.reset s.slots = true) (n : Nat) (v : Slot) :
    Tab.wf Slot.reset (s.withSlot n v).slots = true := Tab.wf_put _ _ _ _ hw

theorem State.withSlot_withSlot (s : State) (n : Nat) {v : Slot} (hv : v ≠ Slot.reset) (w : Slot) :
    (s.withSlot n v).withSlot n w = s.withSlot n w :=
  congrArg (fun t => { s with slots := t }) (Tab.put_put hv s.slots n w)

/-- A slot that has a run is not as at reset. -/
theorem Slot.ne_reset_of_run {v : Slot} {q : Run} (h : v.run = some q) : v ≠ Slot.reset := by
  rintro rfl
  cases h

theorem State.withSlotRun_withSlotRun {s : State} (hw : Tab.wf Slot.reset s.slots = true) (n : Nat) (q q' : Run) :
    (s.withSlotRun n q).withSlotRun n q' = s.withSlotRun n q' := by
  unfold State.withSlotRun
  rw [State.slot_withSlot hw, State.withSlot_withSlot s n (Slot.ne_reset_of_run rfl)]

theorem State.withSlotRun_wf {s : State} (hw : Tab.wf Slot.reset s.slots = true) (n : Nat) (q : Run) :
    Tab.wf Slot.reset (s.withSlotRun n q).slots = true := State.withSlot_wf hw _ _

/-- A slot as the start of a run or period leaves it, whose seed the run takes (R209, R340). -/
def Slot.started (v : Slot) (q : Run) : Slot :=
  { v with
    seed := v.seed + v.advance
    epoch := v.epoch + 1
    run := some q }

/-! ### Plans and their runs -/

/-- A slot's plan and run, in a state whose slots read back what is written to them. -/
structure Runs (s : State) (n : Nat) (p : Plan) (q : Run) : Prop where
  wf : Tab.wf Slot.reset s.slots = true
  plan : (s.slot n).plan = some p
  run : (s.slot n).run = some q

section
variable {s : State} {n : Nat} {p : Plan} {q : Run} (h : Runs s n p q)
include h

theorem Runs.runOf_eq : runOf s n = some (p, q) := by rw [runOf, h.plan, h.run]

theorem Runs.act (f : Plan → Run → Act) : withRun n f s = f p q s := by rw [Machine.withRun, h.runOf_eq]

theorem Runs.withSlotRun (q' : Run) : Runs (s.withSlotRun n q') n p q' where
  wf := State.withSlotRun_wf h.wf n q'
  plan := (congrArg Slot.plan (State.slot_withSlot h.wf n _)).trans h.plan
  run := congrArg Slot.run (State.slot_withSlot h.wf n _)

/-- A run written as it stands changes nothing. -/
theorem Runs.withSlotRun_self : s.withSlotRun n q = s := by
  have hslot : { s.slot n with run := some q } = s.slot n := by rw [← h.run]
  rw [State.withSlotRun, hslot]
  exact congrArg (fun t => { s with slots := t }) (Tab.put_look Slot.reset s.slots n h.wf)

theorem Runs.setRun (f : Run → Run) : applyAll (setRun n f s) s = s.withSlotRun n (f q) := by
  rw [Machine.setRun, h.run]
  rfl

/-- A run whose step has a record left stays at it, whether or not a landing is due. -/
theorem Runs.advance (hactive : q.active = true) (hopen : StepOpen p q) : applyAll (advance n s) s = s.listed := by
  obtain ⟨rs, hrs, r, hr, hleft⟩ := hopen
  have hstays : q.advance p (p.steps.length + 1) = q := by
    have hall : rs.all (q.isDone p) = false := List.all_eq_false.2 ⟨r, hr, by simp [hleft]⟩
    simp [Run.advance, hrs, hall]
  have hunfinished : q.finished p = false := by
    have hlt : q.step < p.steps.length := (List.getElem?_eq_some_iff.1 hrs).1
    simp [Run.finished, Nat.not_le.2 hlt]
  have hset : applyAll (Machine.setRun n (fun _ => q) s) s = s := (h.setRun _).trans h.withSlotRun_self
  simp only [Machine.advance, h.runOf_eq, hactive, hstays, hunfinished, Bool.not_true, Bool.false_eq_true, if_false, Act.all_cons, Act.all_nil,
    applyAll_seq, hset, Act.none_apply, applyAll_nil]
  rfl

theorem Runs.startPass : applyAll (startPass n s) s = s.withSlot n ((s.slot n).started { q with
    seed := (s.slot n).seed
    active := true
    step := 0
    completed := []
    acquired := []
    released := []
    reports := []
    summed := []
    consecutive := 0
    raced := false
    unsettled := []
    landings := ⟨0, p.landing.every != 0, none, [], none, 0, false⟩ }) := by
  rw [Machine.startPass, h.runOf_eq]
  rfl
end

/-! ### RUN (R294) -/

theorem slotCommand_of_plan {s : State} {slot : Byte} {p : Plan} (hn : slot.toNat ≤ 15) (hp : (s.slot slot.toNat).plan = some p) (h : Hdr)
    (off : Nat) (f : Nat → Slot → Plan → Act) : slotCommand h slot off f s = f slot.toNat (s.slot slot.toNat) p s := by
  rw [slotCommand, if_neg (Nat.not_lt.2 hn), hp]

@[simp] theorem State.bump_slots (s : State) (id n : Nat) : (s.bump id n).slots = s.slots := by
  obtain ⟨c, h | ⟨e, src, d, h⟩⟩ := s.bump_cases id n <;> exact h ▸ rfl

/-- A RUN of a slot is counted, and the pair's news of the slot's last run is forgotten. -/
def State.countingRun (s : State) (n : Nat) : State :=
  { s.bump (counterId (srcSlot n) 0) 1 with twin := { s.twin with
    partnerTiers := s.twin.partnerTiers.filter (fun x => x.1 != n)
    starts := s.twin.starts.filter (fun x => x.1 != n) } }

@[simp] theorem State.countingRun_slots (s : State) (n : Nat) : (s.countingRun n).slots = s.slots := s.bump_slots _ _

/-- The source that a RUN names: marks, or none for a run that starts at once. -/
def runSource (src : Byte) : Option (Fin 8) := if src.toNat = 0xFF then none else some (Fin.ofNat 8 src.toNat)

/-- A RUN to marks or at once names no wrong source. -/
theorem not_badSource {src : Byte} (h : src.toNat ≤ 7 ∨ src.toNat = 0xFF) : ¬ (7 < src.toNat ∧ src.toNat ≠ 0xFF) := by omega

section
variable {h : Hdr} {slot src : Byte} {p : Plan} {s : State} (hs : Serves s false) (hn : slot.toNat ≤ 15)
  (hp : (s.slot slot.toNat).plan = some p)
include hs

theorem exec_run : exec (.run h slot src) s = .next (applyAll (runCommand h slot src s) s) := by
  rw [← command_of_serves hs h (runCommand h slot src)]
  rfl

include hn hp

theorem exec_run_badSource (h7 : 7 < src.toNat) (hFF : src.toNat ≠ 0xFF) :
    exec (.run h slot src) s = .next (afterReply h (Reply.badField 33) s) := by
  simp only [exec_run hs, runCommand, slotCommand_of_plan hn hp, h7, hFF, ne_eq, not_false_eq_true, and_self, if_true,
    applyAll_complete]

variable (hsrc : src.toNat ≤ 7 ∨ src.toNat = 0xFF)
include hsrc

theorem exec_run_busy (hrun : (s.slot slot.toNat).run.isSome = true) :
    exec (.run h slot src) s = .next (afterReply h (Reply.of stBusy) s) := by
  simp only [exec_run hs, runCommand, slotCommand_of_plan hn hp, if_neg (not_badSource hsrc), Slot.running, hrun, if_true, applyAll_finish]

variable (hrun : (s.slot slot.toNat).run = none)
include hrun

theorem exec_run_degraded {c : Nat} (hcase : degradedCase s p = some c) (halone : s.paired = false ∨ c = 3) :
    exec (.run h slot src) s = .next (afterReply h (Reply.of stDegraded) s) := by
  have hstays : (s.paired && c != 3) = false := by
    rcases halone with hpair | rfl
    · rw [hpair, Bool.false_and]
    · exact Bool.and_false _
  simp only [exec_run hs, runCommand, slotCommand_of_plan hn hp, if_neg (not_badSource hsrc), Slot.running, hrun,
    Option.isSome_none, hcase, hstays, Bool.false_eq_true, if_false, applyAll_finish]

/-- The run is made; a bound one answers, and an unbound one starts. -/
theorem exec_run_accepted (hcase : degradedCase s p = none) :
    let t := (s.countingRun slot.toNat).withSlot slot.toNat { s.slot slot.toNat with run := some (newRun s h slot.toNat (runSource src)) }
    exec (.run h slot src) s = .next (applyAll (
      (if (runSource src).isNone then Act.seq (startPass slot.toNat) (advance slot.toNat) else finish h stAccepted) t) t) := by
  simp only [exec_run hs, runCommand, slotCommand_of_plan hn hp, if_neg (not_badSource hsrc), Slot.running, hrun,
    Option.isSome_none, hcase, Bool.false_eq_true, if_false, Act.all_cons, Act.all_nil, applyAll_seq, Act.none_apply, applyAll_nil]
  rfl
end

/-- An unbound run that has a record to run at once starts with the slot seed, which moves on (R209, R294). -/
theorem applyAll_startNewRun {s t : State} {h : Hdr} {n : Nat} {p : Plan} (ht : Tab.wf Slot.reset t.slots = true)
    (hp : (s.slot n).plan = some p) (hevery : p.landing.every = 0) (hopen : StepOpen p (newRun s h n none)) :
    let u := t.withSlot n { s.slot n with run := some (newRun s h n none) }
    applyAll (Act.seq (startPass n) (advance n) u) u = (t.withSlot n ((s.slot n).started (newRun s h n none))).listed := by
  intro u
  have hruns (v : Slot) (hplan : v.plan = some p) (hrun : v.run = some (newRun s h n none)) : Runs (t.withSlot n v) n p (newRun s h n none) :=
    ⟨State.withSlot_wf ht n v, by rw [State.slot_withSlot ht, hplan], by rw [State.slot_withSlot ht, hrun]⟩
  have hstart : applyAll (startPass n u) u = t.withSlot n ((s.slot n).started (newRun s h n none)) := by
    rw [(hruns { s.slot n with run := some (newRun s h n none) } hp rfl).startPass, hevery, State.slot_withSlot ht,
      State.withSlot_withSlot t n (Slot.ne_reset_of_run rfl)]
    rfl
  rw [applyAll_seq, hstart]
  exact (hruns ((s.slot n).started (newRun s h n none)) hp rfl).advance rfl hopen

end Sys2Proof.Machine

namespace Sys2Proof
open Machine

/-- Settles O21. A run that starts at once is the one that RUN has made, and stays at its first step (`Machine.applyAll_startNewRun`). -/
theorem runCommand : Obligations.RunCommand := by
  unfold Obligations.RunCommand
  intro h slot src p s hinv hs hn hp n v counted
  refine ⟨exec_run_badSource hs hn hp, exec_run_busy hs hn hp, fun hsrc hrun hcase halone => ?degraded, fun hsrc hrun hcase => ?bound,
    fun hsrc hrun hcase hevery hopen => ⟨?unbound, rfl, rfl, rfl, rfl, rfl⟩⟩
  case degraded =>
    obtain ⟨c, hc⟩ := Option.isSome_iff_exists.1 hcase
    exact exec_run_degraded hs hn hp hsrc hrun hc (halone.imp_right fun h3 => Option.some.inj (hc.symm.trans h3))
  case bound =>
    have hbound : runSource src = some (Fin.ofNat 8 src.toNat) := if_neg (by omega)
    rw [exec_run_accepted hs hn hp (.inl hsrc) hrun hcase, hbound]
    rfl
  case unbound =>
    have hunbound : runSource src = none := if_pos hsrc
    have hw : Tab.wf Slot.reset counted.slots = true := (s.countingRun_slots n).symm ▸ hinv.canonical.slots
    rw [exec_run_accepted hs hn hp (.inr hsrc) hrun hcase, hunbound]
    exact congrArg _ (applyAll_startNewRun hw hp hevery hopen)

end Sys2Proof
end

section
/-! Device memory without stored errors whose domains are all awake (R31, R74): a read meets nothing, and a write is a write alone. -/
namespace Sys2Proof.Machine

/-- No word holds an error, and no domain is gated. -/
structure Steady (s : State) : Prop where
  words : s.ecc = []
  awake : Awake s

section
variable {s : State}

theorem eccIn_nil (h : s.ecc = []) (a n : Nat) : eccIn s a n = [] := by rw [eccIn, h, List.foldl_nil]

theorem badWords_nil (h : s.ecc = []) (a n : Nat) : badWords s a n = [] := by rw [badWords, eccIn_nil h, List.filterMap_nil]

theorem wakeRange_awake (h : Awake s) (a n : Nat) : wakeRange a n s = [] := by
  have hnone : s.rails.filter (fun x => x.2.rail == .gated && touchesDomain a n x.1) = [] :=
    List.filter_eq_nil_iff.2 fun x hx => by simp [h x hx]
  rw [wakeRange, hnone, List.map_nil]

variable (h : Steady s)
include h

theorem Steady.meetRange (a n : Nat) : applyAll (meetRange a n s) s = s := by
  simp only [Machine.meetRange, applyAll_seq, wakeRange_awake h.awake, applyAll_nil, eccIn_nil h.words, Act.each_nil, Act.none_apply]

theorem Steady.meetRanges (l : List (Nat × Nat)) : applyAll (Act.each (fun x => Machine.meetRange x.1 x.2) l s) s = s := by
  induction l with
  | nil => rfl
  | cons x l ih => rw [Act.each_cons, applyAll_seq, h.meetRange, ih]

theorem Steady.storeMem (a : Nat) (bs : List Byte) : applyAll (storeMem a bs s) s = s.withMem a bs := by
  simp only [Machine.storeMem, badPartial, badWords_nil h.words, eccIn_nil h.words, wakeRange_awake h.awake, List.filter_nil, List.isEmpty_nil,
    if_true, Act.all_cons, Act.all_nil, Act.each_nil, applyAll_seq, applyAll_nil, Act.none_apply, Act.of_apply, applyAll_cons, applyEff_mem]
  rfl

theorem Steady.moveBytes (src dst n : Nat) : applyAll (moveBytes src dst n s) s = s.withMem dst (memBytes s src n) := by
  simp only [Machine.moveBytes, Act.all_cons, Act.all_nil, applyAll_seq, h.meetRange, h.storeMem, eccIn_nil h.words, List.filterMap_nil,
    Act.of_apply, applyAll_nil, Act.none_apply]
end

end Sys2Proof.Machine
end

section
/-! Landings of a device alone (R385, R386, R388), their copies, and landing notices. -/
namespace Sys2Proof.Machine

/-! ### A landing and its confirmation -/

/-- A run whose landing `k` has been confirmed: it is the resume landing, and its copy starts (R386). -/
def Run.confirmed (q : Run) (k : Nat) : Run :=
  { q with
    consecutive := 0
    landings := { q.landings with
      waiting := none
      resume := some (k, false)
      resumeGen := q.gen
      copying := true
      notices := q.landings.notices.filter (fun x => decide (k < x.2.1)) } }

/-- A run whose due landing has been written, with its digest, and waits for its confirmation (R385). -/
def Run.landed (q : Run) (d : Dword) : Run :=
  { q with landings := { q.landings with
    due := false
    waiting := some (q.landings.next, d) } }

/-- A run whose due landing has been written and confirmed, where no notices are kept. -/
def Run.landedAlone (q : Run) : Run :=
  { q with
    consecutive := 0
    landings := { q.landings with
      due := false
      waiting := none
      resume := some (q.landings.next, false)
      resumeGen := q.gen
      copying := true } }

theorem Run.confirmed_landed {q : Run} (h : q.landings.notices = []) (d : Dword) : (q.landed d).confirmed q.landings.next = q.landedAlone := by
  simp [Run.landed, Run.confirmed, Run.landedAlone, h]

/-- The part of LANDING that writes a due landing to COPY0 and tells the other members and the partner (`exec_landing_due`). -/
def writeLanding (n : Nat) : Act := withRun n (fun p q => fun s =>
  let b := landingBytes s n p q
  Act.all [planStore (p.sealedLanding s) p.landing.copy0 b.2,
    setRun n (fun q => q.landed b.1),
    sendAll ((p.peers s).map (fun d => .landing (deviceNumber s) d n q.landings.next b.1)),
    Act.when s.paired (send (.landing (deviceNumber s) 0xFFF n q.landings.next b.1))] s)

theorem State.withSlotRun_withMem (s : State) (n : Nat) (q : Run) (a : Nat) (bs : List Byte) :
    (s.withSlotRun n q).withMem a bs = (s.withMem a bs).withSlotRun n q := rfl

theorem State.slot_withMem (s : State) (n a : Nat) (bs : List Byte) : (s.withMem a bs).slot n = s.slot n := rfl

/-- A plan's landings concern no other device, and lie in no sealed region. -/
structure LandsAlone (s : State) (p : Plan) : Prop where
  clear : p.keys s = []
  peers : p.peers s = []
  unpaired : s.paired = false

theorem LandsAlone.withSlotRun {s : State} {p : Plan} (h : LandsAlone s p) (n : Nat) (q : Run) : LandsAlone (s.withSlotRun n q) p :=
  ⟨h.clear, h.peers, h.unpaired⟩

theorem LandsAlone.withMem {s : State} {p : Plan} (h : LandsAlone s p) (a : Nat) (bs : List Byte) : LandsAlone (s.withMem a bs) p :=
  ⟨h.clear, h.peers, h.unpaired⟩

theorem sealedLanding_of_clear {s : State} {p : Plan} (h : p.keys s = []) : p.sealedLanding s = false := by
  rw [Plan.sealedLanding, h]
  rfl

section
variable {s : State} {n : Nat} {p : Plan} {q : Run} (h : Runs s n p q)
include h

theorem Runs.withMem (a : Nat) (bs : List Byte) : Runs (s.withMem a bs) n p q := ⟨h.wf, h.plan, h.run⟩

/-- A written landing that no other device takes part in is confirmed at once. -/
theorem Runs.tryConfirm_alone {k : Nat} {d : Dword} (ha : LandsAlone s p) (hwaiting : q.landings.waiting = some (k, d))
    (hnotices : q.landings.notices = []) : applyAll (tryConfirm n s) s = s.withSlotRun n (q.confirmed k) := by
  have hin : noticesIn s p q k = true := by rw [noticesIn, ha.peers, ha.unpaired]; rfl
  simp only [tryConfirm, h.act, hwaiting, hnotices, List.find?_nil, hin, if_true]
  exact h.setRun _

theorem Runs.tryConfirm_none (hwaiting : q.landings.waiting = none) : applyAll (tryConfirm n s) s = s := by
  simp only [tryConfirm, h.act, hwaiting, applyAll_nil]

theorem Runs.writeLanding_alone (hs : Steady s) (ha : LandsAlone s p) :
    let b := landingBytes s n p q
    applyAll (writeLanding n s) s = (s.withMem p.landing.copy0 b.2).withSlotRun n (q.landed b.1) := by
  simp only [writeLanding, h.act, sealedLanding_of_clear ha.clear, ha.peers, ha.unpaired, planStore, sendAll, Act.all_cons, Act.all_nil,
    applyAll_seq, Bool.false_eq_true, if_false, hs.storeMem, (h.withMem _ _).setRun, List.map_nil, Act.each_nil, Act.when_false,
    Act.none_apply, applyAll_nil]

/-- A due landing is written and confirmed, and the run goes on at its step. -/
theorem Runs.land (hs : Steady s) (ha : LandsAlone s p) (hnotices : q.landings.notices = []) (hactive : q.active = true)
    (hopen : StepOpen p q) :
    let b := landingBytes s n p q
    applyAll (Act.all [writeLanding n, tryConfirm n, Machine.advance n] s) s
      = ((s.withMem p.landing.copy0 b.2).withSlotRun n q.landedAlone).listed := by
  intro b
  have hmem : Runs (s.withMem p.landing.copy0 b.2) n p q := h.withMem _ _
  have hconfirmed := (hmem.withSlotRun (q.landed b.1)).tryConfirm_alone ((ha.withMem _ _).withSlotRun n _) rfl hnotices
  have hadvances := (hmem.withSlotRun q.landedAlone).advance hactive hopen
  rw [State.withSlotRun_withSlotRun hmem.wf, Run.confirmed_landed hnotices] at hconfirmed
  rw [Act.all_cons, applyAll_seq, h.writeLanding_alone hs ha, Act.all_cons, applyAll_seq, hconfirmed, Act.all_cons, applyAll_seq, hadvances]
  rfl
end

section
variable {s : State} {slot : SlotId} {p : Plan} {q : Run} (h : Runs s slot.val p q)
include h

theorem exec_landing_due (hwords : s.ecc = []) (hmay : landingMay p q = true) :
    exec (.landing slot) s = .next (applyAll (
      Act.all [Act.each (fun x => meetRange x.1 x.2) (landingRanges s slot.val p), setRun slot.val (fun q => { q with gen := s.tables.generation }),
        writeLanding slot.val, tryConfirm slot.val, advance slot.val] s) s) := by
  have hgood : (landingRanges s slot.val p).any (fun x => !(badWords s x.1 x.2).isEmpty) = false := by simp [badWords_nil hwords]
  simp only [exec, execLanding, Act.run_eq, h.act, hmay, hgood, Bool.not_true, Bool.false_eq_true, if_false]
  rfl

theorem exec_landing_alone (hs : Steady s) (ha : LandsAlone s p) (hmay : landingMay p q = true) (hnotices : q.landings.notices = [])
    (hopen : StepOpen p q) :
    let q1 : Run := { q with gen := s.tables.generation }
    let b := landingBytes (s.withSlotRun slot.val q1) slot.val p q1
    exec (.landing slot) s = .next ((s.withMem p.landing.copy0 b.2).withSlotRun slot.val q1.landedAlone).listed := by
  intro q1 b
  have hactive : q.active = true := by
    cases hq : q.active
    · simp only [landingMay, hq, Bool.false_and, Bool.false_eq_true] at hmay
    · rfl
  have hland := (h.withSlotRun q1).land ⟨hs.words, hs.awake⟩ (ha.withSlotRun _ q1) hnotices hactive hopen
  simp only [State.withSlotRun_withMem, State.withSlotRun_withSlotRun (h.withMem _ _).wf] at hland
  rw [exec_landing_due h hs.words hmay, Act.all_cons, applyAll_seq, hs.meetRanges, Act.all_cons, applyAll_seq, h.setRun]
  exact congrArg _ hland

/-- The copy to COPY1 ends as one move of the landing's bytes. -/
theorem exec_landingCopyComplete_clear (hs : Steady s) (hclear : p.keys s = []) (hcopying : q.landings.copying = true) :
    exec (.landingCopyComplete slot) s = .next ((s.withMem p.landing.copy1 (memBytes s p.landing.copy0 p.landingSize)).withSlotRun slot.val
      { q with landings := { q.landings with
        copying := false
        resume := q.landings.resume.map (fun x => (x.1, true)) } }) := by
  simp only [exec, execLandingCopyComplete, Act.run_eq, h.act, hcopying, sealedLanding_of_clear hclear, Bool.not_true, Bool.false_eq_true,
    if_false, Act.all_cons, Act.all_nil, applyAll_seq, hs.moveBytes, (h.withMem _ _).setRun, Act.none_apply, applyAll_nil]
end

/-! ### Landing notices (R325, R332, R386) -/

/-- The message that a landing notice comes as. -/
abbrev landingMessage (x : Notice) (number : Word) (digest : Dword) : Sent :=
  .landing x.src.toNat x.dst.toNat x.slot.val number.toNat digest

/-- A run with one more notice of its landing. -/
def Run.noticed (q : Run) (x : Notice) (number : Word) (digest : Dword) : Run :=
  { q with landings := { q.landings with notices := (x.src.toNat, number.toNat, digest) :: q.landings.notices } }

/-- The writes by which a message leaves a receive buffer: links, and counts of what they send. -/
def Eff.ofLinks : Eff → Bool
  | .link .. | .count .. => true
  | _ => false

theorem pumpPort_ofLinks (p : Nat) (owed : Bool) (s : State) : (pumpPort p owed s).all Eff.ofLinks = true := by
  unfold pumpPort
  extract_lets l r idle l' n
  split
  · rfl
  · rw [List.all_cons]
    split <;> rfl

theorem takeMessage_ofLinks (port : LinkId) (m : Sent) (s : State) : (takeMessage port m s).all Eff.ofLinks = true := by
  unfold takeMessage takeBytes
  extract_lets p l front
  split
  · rfl
  · rw [Act.seq, List.all_append, pumpPort_ofLinks]
    rfl

/-- A message taken leaves the plans and the device's place in its domain. -/
theorem State.took_keeps (s : State) (port : LinkId) (m : Sent) : (s.took port m).slots = s.slots ∧ (s.took port m).member = s.member := by
  refine applyAll_keeps_of (P := fun t => t.slots = s.slots ∧ t.member = s.member) _ (fun e he t ht => ?_) s ⟨rfl, rfl⟩
  have hlinks : e.ofLinks = true := List.all_eq_true.1 (takeMessage_ofLinks port m s) e he
  cases e with
  | link => exact ht
  | count id k =>
    rw [applyEff_count]
    obtain ⟨c, h | ⟨e, src, d, h⟩⟩ := t.bump_cases id k <;> exact h ▸ ht
  | _ => cases hlinks

theorem State.slot_took (s : State) (port : LinkId) (m : Sent) (n : Nat) : (s.took port m).slot n = s.slot n := by
  rw [State.slot, (s.took_keeps port m).1]
  rfl

theorem deviceNumber_took (s : State) (port : LinkId) (m : Sent) : deviceNumber (s.took port m) = deviceNumber s := by
  rw [deviceNumber, (s.took_keeps port m).2]
  rfl

theorem Runs.took {s : State} {n : Nat} {p : Plan} {q : Run} (h : Runs s n p q) (port : LinkId) (m : Sent) : Runs (s.took port m) n p q where
  wf := (s.took_keeps port m).1.symm ▸ h.wf
  plan := s.slot_took port m n ▸ h.plan
  run := s.slot_took port m n ▸ h.run

theorem applyAll_takeMessage (port : LinkId) (m : Sent) (s : State) : applyAll (takeMessage port m s) s = s.took port m := rfl

/-- A notice for this device joins those of its run's landing, which decides nothing while no landing is written and waits. -/
theorem exec_landingNotice_joins {p : Plan} {q : Run} {x : Notice} {s : State} (h : Runs s x.slot.val p q) (hwaiting : q.landings.waiting = none)
    (hme : x.dst.toNat = deviceNumber s) (port : LinkId) (number : Word) (digest : Dword) :
    exec (.landingNotice port x number digest) s
      = .next ((s.took port (landingMessage x number digest)).withSlotRun x.slot.val (q.noticed x number digest)) := by
  have ht := h.took port (landingMessage x number digest)
  have hsettled := (ht.withSlotRun (q.noticed x number digest)).tryConfirm_none hwaiting
  simp only [exec, execLandingNotice, Act.run_eq, applyAll_seq, applyAll_takeMessage, deviceNumber_took, if_neg (not_not_intro hme), ht.act,
    ht.setRun]
  exact congrArg _ hsettled

theorem exec_landingNotice_passes {x : Notice} {s : State} (hme : x.dst.toNat ≠ deviceNumber s) (port : LinkId) (number : Word) (digest : Dword) :
    exec (.landingNotice port x number digest) s
      = .next ((s.took port (landingMessage x number digest)).relaying port (landingMessage x number digest)) := by
  simp only [exec, execLandingNotice, Act.run_eq, applyAll_seq, applyAll_takeMessage, deviceNumber_took, if_pos hme]
  rfl

/-- Settles O31. A landing of one device has no notice to wait for, so that it is confirmed as it is written (`Runs.land`); the copy is a
write of memory, and a message taken leaves the run to which a notice comes (`State.took_keeps`). -/
theorem landings : Obligations.Landings := by
  unfold Obligations.Landings
  intro slot p q s hinv hp hq hwords hawake hclear n v
  have h : Runs s slot.val p q := ⟨hinv.canonical.slots, hp, hq⟩
  have hs : Steady s := ⟨hwords, hawake⟩
  refine ⟨fun hmay hpeers halone hnotices hopen => ?landing, exec_landingCopyComplete_clear h hs hclear,
    fun port device me number digest hwaiting => ⟨fun hme => ?joins, fun hme => ?passes⟩⟩
  case landing =>
    rw [exec_landing_alone h hs ⟨hclear, hpeers, halone⟩ hmay hnotices hopen, State.withSlotRun, State.slot_withMem]
    rfl
  case joins =>
    rw [exec_landingNotice_joins (x := ⟨device, me, slot, none⟩) h hwaiting hme, State.withSlotRun, State.slot_took]
    rfl
  case passes =>
    rw [exec_landingNotice_passes hme]

end Sys2Proof.Machine
end

section
/-! The order of finite values as the order of whole numbers of one unit below their exponents, and the uniform value of a word in units of
2^-48 (R213, R214). -/
namespace Sys2Proof.Machine

/-! ### Finite values in units -/

/-- The exponent of a finite value. -/
def FV.exponent : FV → Int
  | .fin _ _ e => e
  | _ => 0

/-- How many units of 2^b a finite value is, for a unit that is not above its exponent. -/
def FV.units (b : Int) : FV → Int
  | .fin s m e => sgn s (m * 2 ^ (e - b).toNat)
  | _ => 0

theorem FV.units_fin (b : Int) (m : Nat) (e : Int) : (FV.fin false m e).units b = ((m * 2 ^ (e - b).toNat : Nat) : Int) := rfl

theorem sgn_mul (s : Bool) (m n : Nat) : sgn s (m * n) = sgn s m * (n : Int) := by
  cases s
  · exact Int.natCast_mul m n
  · exact (congrArg Int.neg (Int.natCast_mul m n)).trans (Int.neg_mul _ _).symm

/-- A lower unit multiplies the number of units. -/
theorem sgn_lower (s : Bool) (m : Nat) {b q e : Int} (hbq : b ≤ q) (hqe : q ≤ e) :
    sgn s (m * 2 ^ (e - b).toNat) = sgn s (m * 2 ^ (e - q).toNat) * ((2 ^ (q - b).toNat : Nat) : Int) := by
  have hsum : (e - b).toNat = (e - q).toNat + (q - b).toNat := by omega
  rw [hsum, Nat.pow_add, ← Nat.mul_assoc, sgn_mul]

section
variable {x y : FV} (hx : x.isFin = true) (hy : y.isFin = true) {b : Int} (hbx : b ≤ x.exponent) (hby : b ≤ y.exponent)
include hx hy hbx hby

theorem FV.lt_iff_units : x.lt y = true ↔ x.units b < y.units b := by
  match x, y, hx, hy with
  | .fin s m e, .fin t n g, _, _ =>
    obtain ⟨q, hq⟩ : ∃ q, q = Min.min e g := ⟨_, rfl⟩
    have hbx' : b ≤ e := hbx
    have hby' : b ≤ g := hby
    have hpos : (0 : Int) < ((2 ^ (q - b).toNat : Nat) : Int) := Int.natCast_pos.2 (Nat.two_pow_pos _)
    have hx' := sgn_lower s m (b := b) (q := q) (e := e) (by omega) (by omega)
    have hy' := sgn_lower t n (b := b) (q := q) (e := g) (by omega) (by omega)
    have hlt : (FV.fin s m e).lt (.fin t n g) = decide (sgn s (m * 2 ^ (e - q).toNat) < sgn t (n * 2 ^ (g - q).toNat)) := hq ▸ rfl
    rw [hlt, decide_eq_true_iff, FV.units, FV.units, hx', hy']
    exact ⟨fun h => Int.mul_lt_mul_of_pos_right h hpos, fun h => Int.lt_of_mul_lt_mul_right h (Int.le_of_lt hpos)⟩

theorem FV.eq_iff_units : x.eq y = true ↔ x.units b = y.units b := by
  have hnan {z : FV} (hz : z.isFin = true) : z.isNan = false := by
    match z, hz with
    | .fin .., _ => rfl
  have hxy := FV.lt_iff_units hx hy hbx hby
  have hyx := FV.lt_iff_units hy hx hby hbx
  simp only [FV.eq, hnan hx, hnan hy, Bool.not_false, Bool.true_and, Bool.and_eq_true, Bool.not_eq_true', ← Bool.not_eq_true, hxy, hyx]
  omega

theorem FV.le_iff_units : x.le y = true ↔ x.units b ≤ y.units b := by
  rw [FV.le, Bool.or_eq_true, FV.lt_iff_units hx hy hbx hby, FV.eq_iff_units hx hy hbx hby]
  omega
end

theorem FV.exists_unit (x y z : FV) : ∃ b, b ≤ x.exponent ∧ b ≤ y.exponent ∧ b ≤ z.exponent :=
  ⟨Min.min x.exponent (Min.min y.exponent z.exponent), by omega⟩

section
variable {x y z : FV} (hx : x.isFin = true) (hy : y.isFin = true) (hz : z.isFin = true)
include hx hy hz

theorem FV.lt_of_lt_of_le (hxy : x.lt y = true) (hyz : y.le z = true) : x.lt z = true := by
  obtain ⟨b, hbx, hby, hbz⟩ := FV.exists_unit x y z
  rw [FV.lt_iff_units hx hy hbx hby] at hxy
  rw [FV.le_iff_units hy hz hby hbz] at hyz
  exact (FV.lt_iff_units hx hz hbx hbz).2 (Int.lt_of_lt_of_le hxy hyz)

theorem FV.lt_of_le_of_lt (hxy : x.le y = true) (hyz : y.lt z = true) : x.lt z = true := by
  obtain ⟨b, hbx, hby, hbz⟩ := FV.exists_unit x y z
  rw [FV.le_iff_units hx hy hbx hby] at hxy
  rw [FV.lt_iff_units hy hz hby hbz] at hyz
  exact (FV.lt_iff_units hx hz hbx hbz).2 (Int.lt_of_le_of_lt hxy hyz)

theorem FV.le_trans (hxy : x.le y = true) (hyz : y.le z = true) : x.le z = true := by
  obtain ⟨b, hbx, hby, hbz⟩ := FV.exists_unit x y z
  rw [FV.le_iff_units hx hy hbx hby] at hxy
  rw [FV.le_iff_units hy hz hby hbz] at hyz
  exact (FV.le_iff_units hx hz hbx hbz).2 (Int.le_trans hxy hyz)
end

/-- A value at or above another is not below it. -/
theorem FV.lt_eq_false_of_le {x y : FV} (hx : x.isFin = true) (hy : y.isFin = true) (h : y.le x = true) : x.lt y = false := by
  obtain ⟨b, hbx, hby⟩ : ∃ b, b ≤ x.exponent ∧ b ≤ y.exponent := ⟨Min.min x.exponent y.exponent, by omega⟩
  rw [FV.le_iff_units hy hx hby hbx] at h
  rw [← Bool.not_eq_true, FV.lt_iff_units hx hy hbx hby]
  exact Int.not_lt.2 h

/-! ### Normal FP32 values -/

/-- A positive normal code: exponent field `x`, fraction `f` (R38). -/
theorem decode_fp32_normal {x f : Nat} (hx : 1 ≤ x) (hx' : x < 255) (hf : f < 2 ^ 23) :
    decode .fp32 (x * 2 ^ 23 + f) = .fin false (2 ^ 23 + f) (Int.ofNat x - 127 - 23) := by
  have hfrac : (x * 2 ^ 23 + f) % 2 ^ 23 = f := by omega
  have hexp : bits (x * 2 ^ 23 + f) 30 23 = x := by
    rw [bits]
    omega
  have hsign : bit (x * 2 ^ 23 + f) 31 = false := by
    have hzero : (x * 2 ^ 23 + f) / 2 ^ 31 = 0 := by omega
    rw [bit, hzero]
    rfl
  have hfinite : (Fmt.fp32.hasInf && x == 2 ^ 8 - 1) = false := by
    rw [Bool.and_eq_false_iff, beq_eq_false_iff_ne]
    omega
  have hnormal : x ≠ 0 := by omega
  simp only [decode, Fmt.width, Fmt.fracBits, Fmt.expBits, Fmt.bias, hfrac, hexp, hsign, hfinite, hnormal, Bool.false_eq_true, reduceCtorEq,
    false_and, if_false]
  rfl

/-- The code of a magnitude of `fracBits + 1` bits: its exponent field and its fraction (R38). -/
theorem encodeMag_normal {f : Fmt} {k : Nat} (hk : 2 ^ f.fracBits ≤ k) (hk' : k < 2 ^ (f.fracBits + 1)) (q : Int) :
    encodeMag f false k q = (q + f.fracBits + f.bias).toNat * 2 ^ f.fracBits + (k - 2 ^ f.fracBits) := by
  simp only [encodeMag, if_neg (Nat.ne_of_lt hk'), if_neg (Nat.not_lt.2 hk), Bool.false_eq_true, if_false, Nat.zero_add]
  rfl

/-- A 24-bit significand at an exponent of FP32 is stored as it stands. -/
theorem decode_encodeMag_fp32 {k : Nat} {q : Int} (hk : 2 ^ 23 ≤ k) (hk' : k < 2 ^ 24) (hq : -149 ≤ q) (hq' : q ≤ 104) :
    decode .fp32 (encodeMag .fp32 false k q) = .fin false k q := by
  obtain ⟨x, rfl⟩ : ∃ x : Nat, q = x - 150 := ⟨(q + 150).toNat, by omega⟩
  have hexp : ((x : Int) - 150 + Fmt.fp32.fracBits + Fmt.fp32.bias).toNat = x := by
    simp only [Fmt.fracBits, Fmt.bias]
    omega
  rw [encodeMag_normal hk hk', hexp]
  have hdecode := decode_fp32_normal (x := x) (f := k - 2 ^ 23) (by omega) (by omega) (by omega)
  rw [Nat.add_sub_cancel' hk, Int.sub_sub] at hdecode
  exact hdecode

/-! ### The uniform value (R213) -/

theorem genTop_lt (w : Dword) : genTop w < 2 ^ 24 := by
  have := w.isLt
  rw [genTop]
  omega

/-- The binary logarithm of a whole number. -/
theorem ilog2_one {m : Nat} (hm : m ≠ 0) : ilog2 m 1 = m.log2 := by
  have hlog : Nat.log2 1 = 0 := rfl
  have hsub : Int.ofNat m.log2 - Int.ofNat 0 = (m.log2 : Int) := Int.sub_zero _
  rw [ilog2, hlog, hsub]
  rw [if_pos (Int.natCast_nonneg _), Int.toNat_natCast, Nat.one_mul, if_pos (Nat.log2_self_le hm)]

/-- Rounding toward zero of a magnitude of at least 24 bits drops the bits below; one of fewer is moved up (R42). -/
theorem roundMag_rtz {m : Nat} (hm : m ≠ 0) {e qmin : Int} (hq : qmin ≤ m.log2 + e - 23) :
    roundMag .rtz 0 false m 1 e 24 qmin = (shiftTo m e (m.log2 + e - 23), m.log2 + e - 23) := by
  have hmax : max (ilog2 m 1 + e - (Int.ofNat 24 - 1)) qmin = m.log2 + e - 23 := by
    rw [ilog2_one hm]
    exact Int.max_eq_left hq
  have hup (n d : Nat) : n / d + b2n (roundsUp .rtz 0 false (n / d) (n % d) d) = n / d := rfl
  simp only [roundMag, hmax, roundAt, shiftTo, hup]
  split
  · rw [Nat.div_one]
  · rw [Nat.one_mul]

/-- The 24 leading bits of a magnitude. -/
theorem shiftTo_lead {m : Nat} (hm : m ≠ 0) (e : Int) :
    2 ^ 23 ≤ shiftTo m e (m.log2 + e - 23) ∧ shiftTo m e (m.log2 + e - 23) < 2 ^ 24 := by
  have hlow : 2 ^ m.log2 ≤ m := Nat.log2_self_le hm
  have hhigh : m < 2 ^ (m.log2 + 1) := Nat.lt_log2_self
  rw [shiftTo]
  split
  next h =>
    obtain ⟨d, hd⟩ : ∃ d, m.log2 + d = 23 := ⟨23 - m.log2, by omega⟩
    have hd' : (e - (m.log2 + e - 23)).toNat = d := by omega
    rw [hd']
    constructor
    · rw [← hd, Nat.pow_add]
      exact Nat.mul_le_mul_right _ hlow
    · rw [show 24 = m.log2 + 1 + d by omega, Nat.pow_add _ (m.log2 + 1)]
      exact Nat.mul_lt_mul_of_pos_right hhigh (Nat.two_pow_pos _)
  next h =>
    obtain ⟨d, hd⟩ : ∃ d, m.log2 = 23 + d := ⟨m.log2 - 23, by omega⟩
    have hd' : (m.log2 + e - 23 - e).toNat = d := by omega
    rw [hd']
    rw [hd] at hlow hhigh
    constructor
    · rw [Nat.le_div_iff_mul_le (Nat.two_pow_pos _), ← Nat.pow_add]
      exact hlow
    · rw [Nat.div_lt_iff_lt_mul (Nat.two_pow_pos _), ← Nat.pow_add, show 24 + d = 23 + d + 1 by omega]
      exact hhigh

/-- No 24-bit magnitude at an exponent of FP32 is out of range. -/
theorem not_exceeds_fp32 {k : Nat} {q : Int} (hk : k < 2 ^ 24) (hq : q ≤ 104) : Fmt.fp32.exceeds k q = false := by
  have hlargest : Fmt.fp32.largest = (2 ^ 24 - 1, 104) := rfl
  have hone : 1 ≤ 2 ^ (104 - q).toNat := Nat.one_le_two_pow
  have hmin : Min.min q 104 = q := Int.min_eq_left hq
  have hzero : (q - q).toNat = 0 := by omega
  rw [Fmt.exceeds, hlargest]
  dsimp only
  rw [hmin, hzero, decide_eq_false_iff_not, Nat.pow_zero, Nat.mul_one, Nat.not_lt]
  calc k ≤ (2 ^ 24 - 1) * 1 := by omega
    _ ≤ _ := Nat.mul_le_mul_left _ hone

/-- A positive value of FP32's normal range rounded toward zero: its 24 leading bits (R42, R43). -/
theorem decode_convert_rtz {m : Nat} (hm : m ≠ 0) {e : Int} (hq : -149 ≤ m.log2 + e - 23) (hq' : m.log2 + e - 23 ≤ 104) :
    decode .fp32 (convert .fp32 .rtz 0 false (.fin false m e)).code = .fin false (shiftTo m e (m.log2 + e - 23)) (m.log2 + e - 23) := by
  obtain ⟨hk, hk'⟩ := shiftTo_lead hm e
  have hround : roundMag .rtz 0 false m 1 e (Fmt.fp32.fracBits + 1) Fmt.fp32.qmin
      = (shiftTo m e (m.log2 + e - 23), m.log2 + e - 23) := roundMag_rtz hm hq
  simp only [convert, convQ, if_neg hm, hround, not_exceeds_fp32 hk' hq', Bool.false_eq_true, if_false]
  exact decode_encodeMag_fp32 hk hk' hq hq'

/-- The uniform value as the 24 leading bits of 2t + 1, in units of 2^-48. -/
theorem uniform_eq (w : Dword) : ∃ (k : Nat) (q : Int), uniform w = .fin false k q ∧ -48 ≤ q
    ∧ k * 2 ^ (q + 48).toNat = if genTop w < 2 ^ 23 then (2 * genTop w + 1) * 2 ^ 23 else genTop w * 2 ^ 24 := by
  have htop := genTop_lt w
  have hm : 2 * genTop w + 1 ≠ 0 := by omega
  have hlog : (2 * genTop w + 1).log2 ≤ 24 := by
    have := (Nat.log2_lt hm).2 (show 2 * genTop w + 1 < 2 ^ 25 by omega)
    omega
  refine ⟨_, _, decode_convert_rtz hm (by omega) (by omega), by omega, ?_⟩
  split
  next h =>
    have hlog' : (2 * genTop w + 1).log2 < 24 := (Nat.log2_lt hm).2 (by omega)
    have hq : ((2 * genTop w + 1).log2 : Int) + -25 - 23 ≤ -25 := by omega
    have hlow : -48 ≤ ((2 * genTop w + 1).log2 : Int) + -25 - 23 := by omega
    generalize ((2 * genTop w + 1).log2 : Int) + -25 - 23 = q at hq hlow
    have hsum : (-25 - q).toNat + (q + 48).toNat = 23 := by omega
    rw [shiftTo, if_pos hq, Nat.mul_assoc, ← Nat.pow_add, hsum]
  next h =>
    have hlog' : (2 * genTop w + 1).log2 = 24 := (Nat.log2_eq_iff hm).2 (by omega)
    have hhalf : (2 * genTop w + 1) / 2 = genTop w := by omega
    have hshift : shiftTo (2 * genTop w + 1) (-25) (-24) = (2 * genTop w + 1) / 2 := rfl
    rw [hlog', show ((24 : Nat) : Int) + -25 - 23 = -24 from rfl, hshift, hhalf]
    rfl

section
variable (w : Dword)

theorem uniform_isFin : (uniform w).isFin = true := by
  obtain ⟨k, q, h, -⟩ := uniform_eq w
  rw [h]
  rfl

theorem uniform_exponent : -48 ≤ (uniform w).exponent := by
  obtain ⟨k, q, h, hq, -⟩ := uniform_eq w
  rw [h]
  exact hq

theorem uniform_units :
    (uniform w).units (-48) = ((if genTop w < 2 ^ 23 then (2 * genTop w + 1) * 2 ^ 23 else genTop w * 2 ^ 24 : Nat) : Int) := by
  obtain ⟨k, q, h, -, hvalue⟩ := uniform_eq w
  rw [h, ← hvalue]
  rfl

theorem uniform_ge : (FV.fin false 1 (-25)).le (uniform w) = true := by
  rw [FV.le_iff_units (b := -48) rfl (uniform_isFin w) (by decide) (uniform_exponent w), uniform_units, FV.units_fin,
    show (-25 - -48 : Int).toNat = 23 from rfl]
  split <;> omega

theorem uniform_le : (uniform w).le (.fin false (2 ^ 24 - 1) (-24)) = true := by
  have htop := genTop_lt w
  rw [FV.le_iff_units (b := -48) (uniform_isFin w) rfl (uniform_exponent w) (by decide), uniform_units, FV.units_fin,
    show (-24 - -48 : Int).toNat = 24 from rfl]
  split <;> omega
end

/-! ### RAND (R178) -/

theorem exec_rand (u : LaneId) (d a : Reg) (b c : Fin 64) (s : State) :
    exec (.rand u d a b c) s = .next (s.withLane u (laneRand (laneEnv s (laneIx u)) (s.laneOf u) d.val a.val b.val c.val)) :=
  run_laneAct u 0x58 d.val a.val b.val c.val s

/-- Settles O36. Below one half the 25 bits of 2t + 1 begin with a zero, so none of them is dropped; from there on the last one is. -/
theorem uniformValue : Obligations.UniformValue := by
  unfold Obligations.UniformValue
  refine ⟨fun w => ?value, fun u d a b c s hkind => ?rand⟩
  case value =>
    intro t
    have hfin := uniform_isFin w
    have hexp := uniform_exponent w
    have htop : t < 2 ^ 24 := genTop_lt w
    have hunits : (uniform w).units (-48) = ((if t < 2 ^ 23 then (2 * t + 1) * 2 ^ 23 else t * 2 ^ 24 : Nat) : Int) := uniform_units w
    refine ⟨rfl, fun ht => ?_, fun ht => ?_, uniform_ge w, uniform_le w, ?_, ?_⟩
    · rw [FV.eq_iff_units (y := .fin false (2 * t + 1) (-25)) hfin rfl hexp (show (-48 : Int) ≤ -25 by decide), hunits, if_pos ht]
      rfl
    · rw [FV.eq_iff_units (y := .fin false t (-24)) hfin rfl hexp (show (-48 : Int) ≤ -24 by decide), hunits, if_neg (Nat.not_lt.2 ht)]
      rfl
    · rw [← Bool.not_eq_true, FV.eq_iff_units (y := .zero) hfin rfl hexp (by decide), hunits]
      have hzero : FV.zero.units (-48) = 0 := rfl
      split <;> omega
    · rw [← Bool.not_eq_true, FV.eq_iff_units (y := .one) hfin rfl hexp (by decide), hunits]
      have hone : FV.one.units (-48) = 2 ^ 48 := rfl
      split <;> omega
  case rand => rw [exec_rand, laneRand, hkind]; rfl

/-- Settles O37. A NaN is not above any value, an infinity is above or below every finite one, and finite values are in order. -/
theorem bernoulliDraw : Obligations.BernoulliDraw := by
  unfold Obligations.BernoulliDraw
  refine ⟨fun u d a b c s hkind => ?rand, fun w a => ?corners⟩
  case rand => rw [exec_rand, laneRand, hkind]; rfl
  case corners =>
    have hfin := uniform_isFin w
    have hge := uniform_ge w
    have hle := uniform_le w
    generalize uniform w = u at hfin hge hle
    generalize f32Val a = y
    cases y with
    | nan =>
      have hnot : u.lt .nan = false := by cases u <;> rfl
      exact ⟨fun h => absurd h (by decide), fun _ => hnot, fun _ => hnot⟩
    | inf s =>
      match u, hfin with
      | .fin .., _ =>
        cases s
        · exact ⟨fun _ => rfl, fun h => absurd h (by decide), fun h => absurd h (by decide)⟩
        · exact ⟨fun h => absurd h (by decide), fun _ => rfl, fun h => absurd h (by decide)⟩
    | fin s m e =>
      refine ⟨fun h => ?_, fun h => ?_, fun h => absurd h Bool.false_ne_true⟩
      · have hlargest : FV.lt (.fin false (2 ^ 24 - 1) (-24)) .one = true := by decide
        exact FV.lt_of_lt_of_le hfin rfl rfl (FV.lt_of_le_of_lt hfin rfl rfl hle hlargest) h
      · exact FV.lt_eq_false_of_le hfin rfl (FV.le_trans rfl rfl hfin h hge)

end Sys2Proof.Machine
end

section
/-! A restart that reads what a LIVE record had parked (R124, R375, R378, R389). -/
namespace Sys2Proof.Machine

/-- A LIVE plan of one home: one MOVE record without operands. -/
def liveMove : Plan := { onePlan with
  cls := 0
  records := [{ Rec.empty with
    opcode := 11
    stepEnd := true
    tiers := 15 }] }

/-- A carry of a record of slot 1, parked at the start of the shelf of core 0. -/
def parkedOnShelf : Parked := ⟨.carry0, ⟨1, 0, 0, 0, 0, false⟩, some shelfBase, [Acc.zero], none⟩

/-- A run of `liveMove`. -/
def liveRun : Run := newRun State.reset ⟨0, 0, 0, 0, false, false, false, false, 0, 0, 0, none⟩ 0 none

/-- Core 0 is the last good core of the device. Its fault has escaped while a record of slot 0 has the array of the core from slot 1; what was
parked lies in a word of the core's own shelf whose next reading fails once, which is the core's third fault. -/
def lastCoreFaulty : State := { State.reset with
  slots := [(0, { Slot.reset with plan := some liveMove, run := some liveRun })]
  cores := [(0, { Core.reset with
    busy := [(0, 0)]
    escaped := true
    health := ⟨0, [0, 0]⟩
    live := some (0, 0)
    array := { MatArray.reset with parked := [parkedOnShelf] } })]
  tiles := [(0, { Tile.none with
    sheeted := 0x1FFE
    positions := List.replicate 12 (some 0) })]
  ecc := [(shelfBase / 8, some .transient)] }

theorem lastCoreFaulty_inv : lastCoreFaulty.Inv where
  canonical := by constructor <;> rfl
  patient := ⟨by decide, by decide⟩
  counted := fun _ hx => nomatch hx
  recorded := ⟨Nat.zero_le _, fun _ _ hr => nomatch hr⟩
  steward := fun _ hx => nomatch hx

/-- The escaped fault of core 0, whose retest passes. -/
def escapedFault : FaultCause := .core ⟨0, 0⟩ true

theorem lastCoreFaulty_hits : causeHits lastCoreFaulty 0 liveMove liveRun escapedFault = true := by decide +kernel

theorem liveMove_open : StepOpen liveMove { liveRun with step := 0, completed := [] } :=
  ⟨[0], by decide +kernel, 0, List.mem_singleton_self 0, by decide +kernel⟩

/-- The state after the restart of the job that the fault hits. -/
def lastCoreRestarted : State :=
  applyAll (restartJob 0 (causeSource escapedFault) (causeTells escapedFault) (causeRetire escapedFault) lastCoreFaulty) lastCoreFaulty

theorem exec_jobRestart_lastCoreFaulty : exec (.jobRestart 0 escapedFault) lastCoreFaulty = .next lastCoreRestarted := by
  have hretest : retestOnly lastCoreFaulty escapedFault = false := by decide +kernel
  simp only [exec, execJobRestart, Act.run_eq, hretest]
  rfl

/-- Giving the array back reads the parked word, whose fault condemns the core; with its last core under its dust sheet the device no longer
carries the job, which ends DEVICE_DEGRADED. -/
theorem lastCoreRestarted_run : (lastCoreRestarted.slot 0).run = none := Option.isNone_iff_eq_none.1 (by decide +kernel)

/-- Refutes O30: the job of `lastCoreFaulty` ends at its restart instead of starting again. -/
theorem not_jobRestarts : ¬ Obligations.JobRestarts := by
  unfold Obligations.JobRestarts
  intro h
  have hsound : CoresSound lastCoreFaulty := by simp [CoresSound, lastCoreFaulty, Core.reset]
  obtain ⟨hcause, -⟩ := h 0 escapedFault 0 0 0 liveMove liveRun lastCoreFaulty lastCoreFaulty_inv rfl rfl (by decide +kernel) (by decide)
    hsound rfl rfl rfl rfl liveMove_open
  obtain ⟨t, hexec, q, hrun, -⟩ := hcause lastCoreFaulty_hits (by simp [escapedFault]) (by simp [escapedFault]) (by simp [escapedFault])
  have ht : t = lastCoreRestarted := Host.Outcome.next.inj (hexec.symm.trans exec_jobRestart_lastCoreFaulty)
  have hnone : (t.slot (0 : SlotId).val).run = none := ht ▸ lastCoreRestarted_run
  rw [hnone] at hrun
  cases hrun

end Sys2Proof.Machine
end

section
/-! The start of a period (R209, R310, R312): what messages to the partner leave, and a run at a step that a landing or a record keeps open. -/
namespace Sys2Proof.Machine

/-! ### Messages and counts -/

/-- The writes of counts and of messages handed to the links. -/
def Eff.sends : Eff → Bool
  | .link .. | .count .. | .held .. | .outbox .. | .twin .. => true
  | _ => false

/-- What those writes never touch. -/
def State.beyondMessages (s : State) : State :=
  { s with
    links := []
    held := []
    outbox := []
    twin := Twin.reset
    counters := []
    ledger := []
    ledgerNext := 0 }

theorem Eff.sends_eq {e : Eff} (h : e.sends = true) (s : State) : (applyEff s e).beyondMessages = s.beyondMessages := by
  cases e with
  | link | held | outbox | twin => rfl
  | count id n =>
    rw [applyEff_count]
    obtain ⟨c, h | ⟨e, src, d, h⟩⟩ := s.bump_cases id n <;> exact h ▸ rfl
  | _ => cases h

theorem applyAll_sends {es : List Eff} (h : es.all Eff.sends = true) (s : State) : (applyAll es s).beyondMessages = s.beyondMessages :=
  applyAll_keeps_of (P := fun t => t.beyondMessages = s.beyondMessages) es
    (fun e he t ht => (Eff.sends_eq (List.all_eq_true.1 h e he) t).trans ht) s rfl

/-- An activity that counts and sends alone. -/
def Act.Sends (a : Act) : Prop := ∀ s, (a s).all Eff.sends = true

theorem Act.Sends.seq {a b : Act} (ha : a.Sends) (hb : b.Sends) : (Act.seq a b).Sends := fun s => by
  rw [Act.seq, List.all_append, ha, hb, Bool.and_true]

theorem Act.Sends.each {α : Type} {f : α → Act} (h : ∀ x, (f x).Sends) (l : List α) : (Act.each f l).Sends := by
  induction l with
  | nil => exact fun _ => rfl
  | cons x l ih => exact (h x).seq ih

theorem pumpPort_sends (p : Nat) (owed : Bool) : (pumpPort p owed).Sends := fun s => by
  refine List.all_eq_true.2 fun e he => ?_
  have hlinks := List.all_eq_true.1 (pumpPort_ofLinks p owed s) e he
  cases e with
  | link | count => rfl
  | _ => cases hlinks

theorem route_sends (r : Routed) : (route r).Sends := fun s => by
  unfold route
  extract_lets ps
  split
  · rfl
  · exact Act.Sends.seq (fun _ => rfl) (pumpPort_sends _ _) s

theorem send_sends (m : Sent) : (send m).Sends := fun s => by
  rw [send, sendFrom, List.all_cons, route_sends]
  rfl

theorem sendTwin_sends (kind value : Nat) (body : List Byte) : (sendTwin kind value body).Sends := Act.Sends.each send_sends _

theorem giveNumber_sends (w : TwinWork) : (giveNumber w).Sends := fun s => by
  unfold giveNumber
  split
  · rfl
  · exact Act.Sends.seq (fun _ => rfl) (sendTwin_sends _ _ _) s

/-! ### The start of a period -/

/-- Messages and counts leave the plans, and both memories. -/
structure Messaged (s t : State) : Prop where
  slots : t.slots = s.slots
  mem : t.mem = s.mem
  host : t.host = s.host

theorem Messaged.of_beyond {s t : State} (h : t.beyondMessages = s.beyondMessages) : Messaged s t :=
  ⟨(congrArg State.slots h :), (congrArg State.mem h :), (congrArg State.host h :)⟩

section
variable {s : State} {n : Nat} {p : Plan} {q : Run} (h : Runs s n p q)
include h

/-- A run at a step before which a landing is due goes no further (R385). -/
theorem Runs.advance_due (hactive : q.active = true) (hdue : q.landings.due = true) (hstep : q.step < p.steps.length) :
    applyAll (Machine.advance n s) s = s.listed := by
  have hstays : q.advance p (p.steps.length + 1) = q := by rw [Run.advance, if_pos hdue]
  have hunfinished : q.finished p = false := by simp [Run.finished, Nat.not_le.2 hstep]
  have hset : applyAll (Machine.setRun n (fun _ => q) s) s = s := (h.setRun _).trans h.withSlotRun_self
  simp only [Machine.advance, h.runOf_eq, hactive, hstays, hunfinished, Bool.not_true, Bool.false_eq_true, if_false, Act.all_cons, Act.all_nil,
    applyAll_seq, hset, Act.none_apply, applyAll_nil]
  rfl

/-- A slot's plan and run are those of its table. -/
theorem Runs.of_slots {t : State} (ht : t.slots = s.slots) : Runs t n p q where
  wf := ht ▸ h.wf
  plan := (congrArg Slot.plan (congrArg (fun l => Tab.look Slot.reset l n) ht)).trans h.plan
  run := (congrArg Slot.run (congrArg (fun l => Tab.look Slot.reset l n) ht)).trans h.run
end

/-- A run as the start of a run or period makes it, with the slot seed (R209, R385). -/
def Run.begun (p : Plan) (q : Run) (seed : Dword) : Run :=
  { q with
    seed := seed
    active := true
    step := 0
    completed := []
    acquired := []
    released := []
    reports := []
    summed := []
    consecutive := 0
    raced := false
    unsettled := []
    landings := ⟨0, p.landing.every != 0, none, [], none, 0, false⟩ }

/-- A run in a period: its mark's number, and the schedule at which it starts (R310, R312). -/
def Run.inPeriod (q : Run) (v : Period) (w : Schedule) : Run := { q with period := v.seq, tier := w.tier, agreed := some w }

theorem Runs.started {s : State} {n : Nat} {p : Plan} {q : Run} (h : Runs s n p q) (q' : Run) :
    Runs (s.withSlot n ((s.slot n).started q')) n p q' where
  wf := State.withSlot_wf h.wf n _
  plan := (congrArg Slot.plan (State.slot_withSlot h.wf n _)).trans h.plan
  run := congrArg Slot.run (State.slot_withSlot h.wf n _)

/-- What PERIOD_START does before the run starts: its place in a pair's agreed order. -/
def orderStart (n : Nat) (w : Schedule) (first : Bool) : Act :=
  Act.seq (if first then giveNumber (.start n w) else Act.none)
    (fun s => [.twin { s.twin with starts := s.twin.starts.eraseP (fun x => x.1 == n) }])

theorem orderStart_sends (n : Nat) (w : Schedule) (first : Bool) : (orderStart n w first).Sends := by
  refine Act.Sends.seq ?_ (fun _ => rfl)
  split
  · exact giveNumber_sends _
  · exact fun _ => rfl

/-- The period that starts: it takes the slot seed, is counted, and goes on at its first step. -/
def startPeriod (n : Nat) (v : Period) (w : Schedule) : Act :=
  Act.all [startPass n, bumpAct (srcSlot n) 1 1, setRun n (fun q => q.inPeriod v w), advance n]

theorem exec_periodStart {s : State} {slot : SlotId} {p : Plan} {q : Run} (h : Runs s slot.val p q) {v : Period} {rest : List Period}
    {w : Schedule} (hpending : q.pending = v :: rest) (hschedule : startSchedule s slot.val q = some w) (hsrc : q.src.isSome = true)
    (hactive : q.active = false) (hpaused : q.paused = false) (hsaving : q.saving = none) :
    exec (.periodStart slot) s
      = .next (applyAll (Act.seq (orderStart slot.val w (orderer s)) (startPeriod slot.val v w) s) s) := by
  have hbound : q.src.isNone = false := by rw [← Option.not_isSome, hsrc]; rfl
  simp only [exec, execPeriodStart, Act.run_eq, h.act, hpending, hschedule, hbound, hactive, hpaused, hsaving, Option.isSome_none, Bool.or_self,
    Bool.false_eq_true, if_false, orderStart, startPeriod, Act.all_cons, applyAll_seq]
  rfl

section
variable {s : State} {n : Nat} {p : Plan} {q : Run} (h : Runs s n p q)
include h

theorem Runs.startPass_begun : applyAll (Machine.startPass n s) s = s.withSlot n ((s.slot n).started (q.begun p (s.slot n).seed)) := h.startPass

/-- A period that starts stays at its first step, whether a landing or a record keeps it there. -/
theorem Runs.startPeriod (v : Period) (w : Schedule) (hsteps : p.steps ≠ [])
    (hopen : p.landing.every ≠ 0 ∨ StepOpen p { q with step := 0, completed := [], tier := w.tier }) :
    let q' := (q.begun p (s.slot n).seed).inPeriod v w
    let t := applyAll (Machine.startPeriod n v w s) s
    t.slot n = (s.slot n).started q' ∧ t.mem = s.mem ∧ t.host = s.host := by
  intro q' t
  let begun := (s.slot n).started (q.begun p (s.slot n).seed)
  let counted := (s.withSlot n begun).bump (counterId (srcSlot n) 1) 1
  have hcounted : Messaged (s.withSlot n begun) counted := .of_beyond (Eff.sends_eq (e := .count _ _) rfl _)
  have hbegun : Runs counted n p (q.begun p (s.slot n).seed) := (h.started _).of_slots hcounted.slots
  have hslot : counted.slot n = begun :=
    (congrArg (fun l => Tab.look Slot.reset l n) hcounted.slots).trans (State.slot_withSlot h.wf n _)
  have hstarts : Runs (counted.withSlotRun n q') n p q' := hbegun.withSlotRun q'
  have hstays : applyAll (Machine.advance n (counted.withSlotRun n q')) (counted.withSlotRun n q') = (counted.withSlotRun n q').listed := by
    by_cases hlands : p.landing.every = 0
    · exact hstarts.advance rfl (hopen.resolve_left (not_not_intro hlands))
    · exact hstarts.advance_due rfl (bne_iff_ne.2 hlands) (List.length_pos_iff.2 hsteps)
  have ht : t = (counted.withSlotRun n q').listed := by
    rw [← hstays, ← hbegun.setRun (fun q => q.inPeriod v w)]
    simp only [t, Machine.startPeriod, Act.all_cons, Act.all_nil, applyAll_seq, h.startPass_begun, Act.none_apply, applyAll_nil]
    rfl
  have hmem : t.mem = counted.mem := ht ▸ rfl
  have hhost : t.host = counted.host := ht ▸ rfl
  refine ⟨?_, hmem.trans hcounted.mem, hhost.trans hcounted.host⟩
  calc t.slot n = (counted.withSlotRun n q').slot n := ht ▸ rfl
    _ = { counted.slot n with run := some q' } := State.slot_withSlot hbegun.wf n _
    _ = (s.slot n).started q' := by rw [hslot]; rfl
end

/-- A device that is no twin starts a period at the run's own schedule (R312). -/
theorem startSchedule_alone {s : State} (h : s.twin = Twin.reset) (n : Nat) (q : Run) : startSchedule s n q = some q.schedule := by
  have hstarts : s.twin.starts.lookup n = none := by rw [h]; rfl
  have halone : s.paired = false := by rw [State.paired, h]; rfl
  simp only [startSchedule, hstarts, halone, periodTier, Bool.false_and, Bool.false_eq_true, if_false, Option.none_or]
  rfl

/-- Settles O33. The order of a pair's starts takes messages alone, and then the period starts (`Runs.startPeriod`). -/
theorem periodStarts : Obligations.PeriodStarts := by
  unfold Obligations.PeriodStarts
  intro slot p q v rest w s hinv hp hq hpending hsrc hactive hpaused hsaving hsteps hschedule hopen
  have h : Runs s slot.val p q := ⟨hinv.canonical.slots, hp, hq⟩
  refine ⟨fun htwin => Option.some.inj (hschedule.symm.trans (startSchedule_alone htwin _ _)), ?_⟩
  let ordered := applyAll (orderStart slot.val w (orderer s) s) s
  have hordered : Messaged s ordered := .of_beyond (applyAll_sends (orderStart_sends _ _ _ s) s)
  obtain ⟨hslot, hmem, hhost⟩ := (h.of_slots hordered.slots).startPeriod v w hsteps hopen
  have hsame : ordered.slot slot.val = s.slot slot.val := congrArg (fun l => Tab.look Slot.reset l slot.val) hordered.slots
  rw [hsame] at hslot
  refine ⟨_, _, (exec_periodStart h hpending hschedule hsrc hactive hpaused hsaving).trans (congrArg _ (applyAll_seq _ _ _)),
    congrArg Slot.run hslot, rfl, rfl, rfl, rfl, congrArg Slot.seed hslot, rfl, rfl, rfl, rfl, hmem.trans hordered.mem,
    hhost.trans hordered.host⟩

end Sys2Proof.Machine
end

section
/-! LOAD_PLAN and SEED_STREAMS (R209, R210, R276): a load's areas find their places, which changes of the slots where their areas lie alone. -/
namespace Sys2Proof.Machine

/-! ### Areas find their places (R260, R266) -/

theorem State.slot_withSlot_other {s : State} (hw : Tab.wf Slot.reset s.slots = true) {n m : Nat} (hm : m ≠ n) (v : Slot) :
    (s.withSlot n v).slot m = s.slot m := Tab.look_put_other _ _ _ hw hm

/-- A slot but for where its shelf areas lie. -/
def Slot.beyondShelf (v : Slot) : Slot := { v with shelfBase := [] }

/-- What placing shelf areas leaves of a state without stored errors whose domains are all awake. -/
structure Seated (s t : State) : Prop where
  steady : Steady t
  wf : Tab.wf Slot.reset t.slots = true
  slots : ∀ m, (t.slot m).beyondShelf = (s.slot m).beyondShelf
  host : t.host = s.host
  keys : t.keys = s.keys
  regions : t.regions = s.regions
  cores : t.cores = s.cores

theorem Seated.refl {s : State} (h : Steady s) (hw : Tab.wf Slot.reset s.slots = true) : Seated s s := ⟨h, hw, fun _ => rfl, rfl, rfl, rfl, rfl⟩

section
variable {s : State}

theorem Seated.setArea (a : ShelfArea) : (setArea a).Keeps (Seated s) := fun t ht => by
  refine ⟨⟨ht.steady.words, ht.steady.awake⟩, Tab.wf_put _ _ _ _ ht.wf, fun m => Eq.trans ?_ (ht.slots m), ht.host, ht.keys, ht.regions,
    ht.cores⟩
  change ((t.withSlot a.slot _).slot m).beyondShelf = _
  by_cases hm : m = a.slot
  · rw [hm, State.slot_withSlot ht.wf]
    rfl
  · rw [State.slot_withSlot_other ht.wf hm]

theorem Seated.moveBytes (src dst n : Nat) : (moveBytes src dst n).Keeps (Seated s) := fun t ht => by
  rw [ht.steady.moveBytes]
  exact ⟨⟨ht.steady.words, ht.steady.awake⟩, ht.wf, ht.slots, ht.host, ht.keys, ht.regions, ht.cores⟩

theorem Seated.packAreas (c : Nat) (copy : Bool) (l : List ShelfArea) (b : Nat) : (packAreas c copy l b).Keeps (Seated s) := by
  induction l generalizing b with
  | nil => exact Act.Keeps.none
  | cons a l ih => exact (((Seated.moveBytes _ _ _).when _).seq (Seated.setArea _)).seq (ih _)

theorem Seated.seatCore (isNew : Nat → Nat → Bool) (c : Nat) : (seatCore isNew c).Keeps (Seated s) := fun t ht => by
  unfold Machine.seatCore
  extract_lets l fresh kept
  split
  · exact Act.Keeps.each Seated.setArea _ t ht
  · exact (Seated.packAreas _ _ _ _).seq (Seated.packAreas _ _ _ _) t ht
end

/-! ### LOAD_PLAN (R276 to R278) -/

theorem blurDraw_nil {s : State} (h : s.ecc = []) : blurDraw s = [] := by
  simp [blurDraw, h]

/-- What each of a list of activities leaves alone, all of them do. -/
theorem Act.each_still {α : Type} {f : α → Act} {s : State} (h : ∀ x, applyAll (f x s) s = s) (l : List α) :
    applyAll (Act.each f l s) s = s := by
  induction l with
  | nil => rfl
  | cons x l ih => rw [Act.each_cons, applyAll_seq, h, ih]

theorem Steady.readLoadTensors {s : State} (h : Steady s) (p : Plan) : applyAll (readLoadTensors p s) s = s := by
  refine Act.each_still (fun i => ?_) _
  split
  · exact h.meetRange _ _
  · rfl

section
variable {h : Hdr} {host : Dword} {len : Word} {slot : Byte} {s : State} (hs : ServesHost s h false) (hn : slot.toNat ≤ 15) (hlen : len ≠ 0)
include hs hn hlen

theorem exec_loadPlan_busy (hplan : (s.slot slot.toNat).plan.isSome = true) :
    exec (.loadPlan h host len slot) s = .next (afterReply h (Reply.of stBusy) s) := by
  simp only [exec, execLoadPlan, Act.run_eq, hostCommand_of_servesHost hs, loadPlan, if_neg (Nat.not_lt.2 hn), if_neg hlen, hplan, if_true,
    applyAll_finish]

variable (hplan : (s.slot slot.toNat).plan = none)
include hplan

theorem exec_loadPlan_refused {r : Reply} (hchecks : loadChecks s (hostData s h host.toNat len.toNat) = .error r) :
    exec (.loadPlan h host len slot) s = .next (afterReply h r s) := by
  simp only [exec, execLoadPlan, Act.run_eq, hostCommand_of_servesHost hs, loadPlan, if_neg (Nat.not_lt.2 hn), if_neg hlen, hplan,
    Option.isSome_none, Bool.false_eq_true, if_false, hchecks, applyAll_complete]

theorem exec_loadPlan_accepted (hsteady : Steady s) (hw : Tab.wf Slot.reset s.slots = true) {p : Plan}
    (hchecks : loadChecks s (hostData s h host.toNat len.toNat) = .ok p) :
    ∃ t, Seated (s.withSlot slot.toNat (loadedSlot s p)) t
      ∧ exec (.loadPlan h host len slot) s = .next (afterReply h (Reply.of stDone) t) := by
  let loaded := s.withSlot slot.toNat (loadedSlot s p)
  have hloaded : Seated loaded loaded := .refl ⟨hsteady.words, hsteady.awake⟩ (State.withSlot_wf hw _ _)
  refine ⟨_, Act.Keeps.each (Seated.seatCore fun m _ => m == slot.toNat) (coresOf loaded [(slot.toNat, p)]) loaded hloaded, ?_⟩
  simp only [exec, execLoadPlan, Act.run_eq, hostCommand_of_servesHost hs, loadPlan, if_neg (Nat.not_lt.2 hn), if_neg hlen, hplan,
    Option.isSome_none, Bool.false_eq_true, if_false, hchecks, Act.all_cons, Act.all_nil, applyAll_seq, blurDraw_nil hsteady.words,
    hsteady.readLoadTensors, applyAll_nil, Act.none_apply, applyAll_finish]
  rfl
end

/-! ### SEED_STREAMS (R210) -/

section
variable {slot : Byte} {s : State} (hs : Serves s false) (hn : slot.toNat ≤ 15) (h : Hdr) (seed adv : Dword)
include hs hn

theorem exec_seedStreams {p : Plan} (hplan : (s.slot slot.toNat).plan = some p) :
    exec (.seedStreams h slot seed adv) s = .next (afterReply h (Reply.of stDone)
      (s.withSlot slot.toNat { s.slot slot.toNat with seed := seed, advance := adv })) := by
  simp only [exec, execSeedStreams, Act.run_eq, command_of_serves hs, seedCommand, slotCommand_of_plan hn hplan, applyAll_seq, Act.of_apply,
    applyAll_finish]
  rfl

theorem exec_seedStreams_empty (hplan : (s.slot slot.toNat).plan = none) :
    exec (.seedStreams h slot seed adv) s = .next (afterReply h (Reply.badField 32) s) := by
  simp only [exec, execSeedStreams, Act.run_eq, command_of_serves hs, seedCommand, slotCommand, if_neg (Nat.not_lt.2 hn), hplan,
    applyAll_complete]
end

/-- Settles O19. Of the slots, a load's areas change where areas lie alone (`Seated`); a run that starts is `Runs.startPass`. -/
theorem planSlots : Obligations.PlanSlots := by
  unfold Obligations.PlanSlots
  refine ⟨fun h host len slot s hinv hs hn hlen => ⟨exec_loadPlan_busy hs hn hlen, fun r hplan => exec_loadPlan_refused hs hn hlen hplan,
    fun p hplan hchecks hwords hawake => ?load⟩, fun h slot seed adv s hinv hs hn => ⟨fun hplan => ?seeds,
    exec_seedStreams_empty hs hn h seed adv⟩, fun n p q s hinv hplan hrun => ?starts⟩
  case load =>
    have hw := hinv.canonical.slots
    obtain ⟨t, ht, hexec⟩ := exec_loadPlan_accepted hs hn hlen hplan ⟨hwords, hawake⟩ hw hchecks
    have hslot : (t.slot slot.toNat).beyondShelf = (loadedSlot s p).beyondShelf := by rw [ht.slots, State.slot_withSlot hw]
    refine ⟨t, hexec, (congrArg Slot.plan hslot :), (congrArg Slot.seed hslot :), (congrArg Slot.advance hslot :), (congrArg Slot.run hslot :),
      (congrArg Slot.epoch hslot :), fun m hm => ?_, ht.host, ht.keys, ht.regions, ht.cores⟩
    have hother : (t.slot m).beyondShelf = (s.slot m).beyondShelf :=
      (ht.slots m).trans (congrArg Slot.beyondShelf (State.slot_withSlot_other hw hm _))
    exact ⟨(congrArg Slot.plan hother :), (congrArg Slot.run hother :), (congrArg Slot.seed hother :)⟩
  case seeds =>
    obtain ⟨p, hp⟩ := Option.isSome_iff_exists.1 hplan
    exact exec_seedStreams hs hn h seed adv hp
  case starts =>
    have h : Runs s n p q := ⟨hinv.canonical.slots, hplan, hrun⟩
    intro t
    have ht : t.slot n = _ := (congrArg (State.slot · n) h.startPass).trans (State.slot_withSlot h.wf n _)
    rw [ht]
    exact ⟨rfl, rfl, rfl, rfl⟩

end Sys2Proof.Machine
end

section
/-! A slot without a run: what discarding its work, and a restore, leave of it and of the regions, keys, tables and streams (R282, R294,
R381). -/
namespace Sys2Proof.Machine

/-! ### Writes that leave slots, regions, keys, tables and streams -/

/-- The writes of other parts of the state than slots, regions, keys, tables and streams. -/
def Eff.calm : Eff → Bool
  | .slot .. | .region .. | .key .. | .tables .. | .stream .. | .powerLost | .deviceReset => false
  | _ => true

/-- What those writes leave. -/
structure Calmed (s t : State) : Prop where
  slots : t.slots = s.slots
  regions : t.regions = s.regions
  keys : t.keys = s.keys
  tables : t.tables = s.tables
  streams : t.streams = s.streams

theorem Calmed.eff {e : Eff} (he : e.calm = true) (s : State) : Calmed s (applyEff s e) := by
  cases e with
  | hook k v =>
    rw [applyEff_hook]
    split <;> exact ⟨rfl, rfl, rfl, rfl, rfl⟩
  | count id m =>
    rw [applyEff_count]
    obtain ⟨c, h | ⟨e, src, d, h⟩⟩ := s.bump_cases id m <;> exact h ▸ ⟨rfl, rfl, rfl, rfl, rfl⟩
  | slot | region | key | tables | stream | powerLost | deviceReset => cases he
  | _ => exact ⟨rfl, rfl, rfl, rfl, rfl⟩

theorem Calmed.trans {s t u : State} (h : Calmed s t) (h' : Calmed t u) : Calmed s u :=
  ⟨h'.slots.trans h.slots, h'.regions.trans h.regions, h'.keys.trans h.keys, h'.tables.trans h.tables, h'.streams.trans h.streams⟩

theorem Calmed.effs {es : List Eff} (hes : es.all Eff.calm = true) (s : State) : Calmed s (applyAll es s) :=
  applyAll_keeps_of es (fun e he t ht => ht.trans (.eff (List.all_eq_true.1 hes e he) t)) s ⟨rfl, rfl, rfl, rfl, rfl⟩

/-- A slot that holds a plan and no run, and the regions, keys, tables and streams of `s₀`. -/
structure Idle (s₀ : State) (n : Nat) (p : Plan) (t : State) : Prop where
  wf : Tab.wf Slot.reset t.slots = true
  plan : (t.slot n).plan = some p
  run : (t.slot n).run = none
  regions : t.regions = s₀.regions
  keys : t.keys = s₀.keys
  tables : t.tables = s₀.tables
  streams : t.streams = s₀.streams

/-- An activity whose writes are all calm. -/
def Act.Calm (a : Act) : Prop := ∀ s, (a s).all Eff.calm = true

section
variable {a b : Act}

theorem Act.Calm.none : Act.none.Calm := fun _ => rfl

theorem Act.Calm.seq (ha : a.Calm) (hb : b.Calm) : (Act.seq a b).Calm := fun s => by
  rw [Act.seq, List.all_append, ha, hb, Bool.and_true]

theorem Act.Calm.each {α : Type} {f : α → Act} (h : ∀ x, (f x).Calm) (l : List α) : (Act.each f l).Calm := by
  induction l with
  | nil => exact Act.Calm.none
  | cons x l ih => exact (h x).seq ih

theorem Act.Sends.calm (h : a.Sends) : a.Calm := fun s => List.all_eq_true.2 fun e he => by
  have hsends := List.all_eq_true.1 (h s) e he
  cases e with
  | link | count | held | outbox | twin => rfl
  | _ => cases hsends

theorem Act.Stores.calm (h : a.Stores) : a.Calm := fun s => List.all_eq_true.2 fun e he => by
  have hstores := List.all_eq_true.1 (h s) e he
  cases e with
  | mem | ecc | rail | bank | tile | hub | core | flash | fresh | ledger | count | countMax => rfl
  | _ => cases hstores
end

section
variable {s₀ : State} {n : Nat} {p : Plan}

theorem Idle.calmed {t u : State} (ht : Idle s₀ n p t) (h : Calmed t u) : Idle s₀ n p u where
  wf := h.slots ▸ ht.wf
  plan := (congrArg (fun l => (Tab.look Slot.reset l n).plan) h.slots).trans ht.plan
  run := (congrArg (fun l => (Tab.look Slot.reset l n).run) h.slots).trans ht.run
  regions := h.regions.trans ht.regions
  keys := h.keys.trans ht.keys
  tables := h.tables.trans ht.tables
  streams := h.streams.trans ht.streams

theorem Idle.effs {t : State} {es : List Eff} (hes : es.all Eff.calm = true) (ht : Idle s₀ n p t) : Idle s₀ n p (applyAll es t) :=
  ht.calmed (.effs hes t)

theorem Act.Calm.idle {a : Act} (h : a.Calm) : a.Keeps (Idle s₀ n p) := fun t => Idle.effs (h t)

/-- Another slot's run changes. -/
theorem Idle.slot {t : State} (ht : Idle s₀ n p t) {m : Nat} (hm : n ≠ m) (v : Slot) : Idle s₀ n p (applyEff t (.slot m v)) where
  wf := Tab.wf_put _ _ _ _ ht.wf
  plan := (congrArg Slot.plan (State.slot_withSlot_other ht.wf hm v)).trans ht.plan
  run := (congrArg Slot.run (State.slot_withSlot_other ht.wf hm v)).trans ht.run
  regions := ht.regions
  keys := ht.keys
  tables := ht.tables
  streams := ht.streams
end

/-! ### Replies and hooks (R288 to R299) -/

theorem replyEffs_calm (h : Hdr) (r : Reply) : (replyEffs h r).Calm := fun s => by
  unfold replyEffs
  extract_lets i c gone
  split
  · rfl
  · split
    · rfl
    · split
      · rfl
      · rw [List.all_append]
        split <;> rfl

theorem deliver_calm (h : Hdr) (r : Reply) : (deliver h r).Calm := fun s => by
  unfold deliver
  split
  · exact Act.Calm.seq (fun _ => rfl) (sendTwin_sends _ _ _).calm s
  · split
    · exact replyEffs_calm h r s
    · split
      · split
        · rfl
        · exact Act.Calm.seq (fun _ => rfl) (replyEffs_calm h r) s
      · refine Act.Calm.seq (fun _ => ?_) (replyEffs_calm h _) s
        rw [Act.of_apply, List.all_append]
        split <;> rfl

section
variable {s₀ : State} {n : Nat} {p : Plan}

/-- A record that is granted its hook is of a slot with a run (R299). -/
theorem Idle.grant (k : Nat) (after : Word) (w : Waiter) {s t : State} (hst : t.slots = s.slots) (ht : Idle s₀ n p t) :
    Idle s₀ n p (applyAll (grant k after w s).1 t) := by
  cases w with
  | packet | command | partner => exact ht.effs rfl
  | record m r =>
    simp only [Machine.grant]
    split
    · exact ht
    next q hq =>
      have hm : n ≠ m.val := by
        rintro rfl
        have hnone : (s.slot m.val).run = none := (congrArg (fun l => (Tab.look Slot.reset l m.val).run) hst).symm.trans ht.run
        rw [hnone] at hq
        cases hq
      exact (ht.slot hm _).calmed (.eff (e := .ready _) rfl _)

theorem Idle.jobStep (j : Job) : Act.Keeps (Idle s₀ n p) (fun s => (jobStep s j).1) := fun t ht => by
  cases j with
  | release k inc src rec =>
    simp only [Machine.jobStep]
    refine ht.effs ?_
    split <;> rfl
  | serve k =>
    simp only [Machine.jobStep]
    split
    · exact ht
    next w ws _ =>
      split
      · have hhook : Calmed t _ := .eff (e := .hook k ⟨(t.hook k).count - w.amount, ws⟩) rfl t
        exact Idle.grant _ _ _ hhook.slots (ht.calmed hhook)
      · exact ht
  | record | complete => exact ht.effs rfl
  | reply h r => exact ht.effs (deliver_calm h r t)

theorem Idle.runJobs (f : Nat) (l : List Job) : (runJobs f l).Keeps (Idle s₀ n p) := by
  induction f generalizing l with
  | zero => exact Act.Keeps.none
  | succ f ih =>
    cases l with
    | nil => exact Act.Keeps.none
    | cons j l => exact fun t ht => Act.Keeps.seq (fun _ hu => Idle.jobStep j _ hu) (ih _) t ht

theorem Idle.dropWaiters (f : Waiter → Bool) : (dropWaiters f).Keeps (Idle s₀ n p) := fun t ht =>
  Act.Keeps.seq (fun _ hu => hu.effs (by simp [Eff.calm])) (fun u => Idle.runJobs _ _ u) t ht
end

/-! ### Discarding work (R294, R381) -/

theorem meetRange_calm (a n : Nat) : (meetRange a n).Calm :=
  (wakeRange_stores a n).calm.seq fun s => Act.Calm.each (fun _ => (meetWord_stores _).calm) _ s

theorem unparkCore_calm (k : Nat) : (unparkCore k).Calm := fun s => by
  unfold unparkCore
  exact Act.Calm.seq (Act.Calm.each (fun x => meetRange_calm _ _) _) (fun _ => rfl) s

theorem clearCores_calm (n : Nat) : (clearCores n).Calm := fun s => by
  refine Act.Calm.seq (Act.Calm.each unparkCore_calm _) (fun t => ?_) s
  simp [Eff.calm]

theorem clearSlotArrays_calm (n : Nat) : (clearSlotArrays n).Calm := fun s => by
  unfold clearSlotArrays
  split
  · rfl
  · exact Act.Calm.each (fun r t => by simp [clearArrays, Eff.calm]) _ s

/-- A slot without a run has no work but what waits for hooks and holds cores. -/
theorem Idle.discardWork {s₀ : State} {n : Nat} {p : Plan} : (discardWork n).Keeps (Idle s₀ n p) := by
  refine Act.Keeps.seq (fun t ht => ?collectives) (.seq (Idle.dropWaiters _) (.seq (clearCores_calm n).idle (.seq (clearSlotArrays_calm n).idle
    (.seq (Act.Calm.idle fun _ => rfl) (.seq (fun t ht => ?run) .none)))))
  case collectives =>
    have hnone : runOf t n = none := by rw [runOf, ht.run, ht.plan]
    rw [endCollectives, hnone]
    exact ht
  case run =>
    rw [setRun, ht.run]
    exact ht

theorem Act.Calm.all {l : List Act} (h : ∀ a ∈ l, a.Calm) : (Act.all l).Calm := by
  induction l with
  | nil => exact Act.Calm.none
  | cons a l ih =>
    obtain ⟨ha, hl⟩ := List.forall_mem_cons.1 h
    exact ha.seq (ih hl)

/-- Pieces of a context stored one after another. -/
theorem foldl_storeMem_calm {α : Type} (size addr : α → Nat) (l : List α) (acc : List Byte × List Act) (h : ∀ a ∈ acc.2, a.Calm) :
    ∀ a ∈ (l.foldl (fun acc x => (acc.1.drop (size x), acc.2 ++ [storeMem (addr x) (acc.1.take (size x))])) acc).2, a.Calm := by
  induction l generalizing acc with
  | nil => exact h
  | cons x l ih => exact ih _ (List.forall_mem_append.2 ⟨h, List.forall_mem_singleton.2 (storeMem_stores _ _).calm⟩)

theorem placeContext_calm (n : Nat) (p : Plan) (b : List Byte) : (placeContext n p b).Calm := fun s =>
  Act.Calm.all (foldl_storeMem_calm _ _ _ _ (foldl_storeMem_calm _ _ _ _ (by simp))) s

/-! ### SAVE_CONTEXT (R280) -/

theorem toNat_slotByte (slot : SlotId) : (BitVec.ofNat 8 slot.val : Byte).toNat = slot.val := by
  have := slot.isLt
  rw [BitVec.toNat_ofNat]
  omega

theorem slotCommand_of_slotId {s : State} {slot : SlotId} {p : Plan} (hp : (s.slot slot.val).plan = some p) (h : Hdr) (off : Nat)
    (f : Nat → Slot → Plan → Act) : slotCommand h (BitVec.ofNat 8 slot.val) off f s = f slot.val (s.slot slot.val) p s := by
  have hn := toNat_slotByte slot
  have hle : (BitVec.ofNat 8 slot.val : Byte).toNat ≤ 15 := by omega
  rw [slotCommand_of_plan hle (hn.symm ▸ hp), hn]

theorem exec_saveContext {s : State} {slot : SlotId} {p : Plan} {q : Run} (hs : Serves s false) (hp : (s.slot slot.val).plan = some p)
    (hq : (s.slot slot.val).run = some q) (hsaving : q.saving = none) {toDev : Byte} (hdev : toDev.toNat ≤ 1) (h : Hdr) (addr cap : Dword) :
    exec (.saveContext h addr cap (BitVec.ofNat 8 slot.val) toDev) s = .next (s.withSlotRun slot.val { q with
      paused := true
      saving := some ⟨h, addr, cap, toDev == 1, q.restarts⟩ }) := by
  simp only [exec, execSaveContext, Act.run_eq, command_of_serves hs, saveCommand, slotCommand_of_slotId hp, if_neg (Nat.not_lt.2 hdev), hq,
    hsaving, Option.isSome_none, Bool.false_eq_true, if_false]
  rfl

/-! ### CONTEXT_WRITTEN (R280) -/

theorem State.blur_nil {s : State} (h : s.ecc = []) : s.blur = s := by
  unfold State.blur
  congr 1
  rw [h]
  rfl

/-- The bytes of an unsealed plan's context. -/
def plainContext (s : State) (n : Nat) (p : Plan) (q : Run) : List Byte :=
  contextHead s n p q (128 + (contextBody s n p q).length) none [] ++ contextBody s n p q

theorem contextBytes_plain {s : State} {n : Nat} {p : Plan} {q : Run} (h : p.readsSealed = false) :
    contextBytes s n p q = some (plainContext s n p q, Act.none) := by
  simp only [contextBytes, h, Bool.not_false, if_true]
  rfl

/-- A run whose SAVE_CONTEXT may be answered: its records have completed or stopped, and host memory takes the context. -/
structure SaveDue (s : State) (n : Nat) (p : Plan) (q : Run) (v : SaveReq) : Prop where
  saving : q.saving = some v
  stopped : q.stopped = none
  still : q.inFlight.all (settled s n p q) = true
  dma : v.toDevice = false → dmaStopped s v.hdr = false

/-- A context goes to host memory, and its length to the reply. -/
theorem applyAll_deliverContext_host {n : Nat} {v : SaveReq} {bs : List Byte} {restarts : Nat} {t : State} (hhost : v.toDevice = false)
    (hown : v.hdr.partner = none) (hbytes : bs ≠ []) (hdma : dmaStopped t v.hdr = false) :
    applyAll (deliverContext n v bs restarts t) t = afterReply v.hdr
      ⟨stDone, 0, bs.length % 2 ^ 32, bs.length / 2 ^ 32, 0, false, restarts⟩ (t.withHost v.hdr.port v.addr.toNat bs) := by
  have hempty : bs.isEmpty = false := List.isEmpty_eq_false_iff.2 hbytes
  have hwrite : toHost v.hdr v.addr.toNat bs t = [.host v.hdr.port v.addr.toNat bs] := by
    rw [toHost, hown, hempty, hdma]
    rfl
  simp only [deliverContext, hhost, Bool.not_false, if_true, applyAll_seq, hwrite, applyAll_complete]
  rfl

section
variable {s : State} {slot : SlotId} {p : Plan} {q : Run} {v : SaveReq} (h : Runs s slot.val p q) (hs : Steady s)
  (hdue : SaveDue s slot.val p q v) (hplain : p.readsSealed = false)
include h hs hdue hplain

/-- With the save over, what is left to do is to answer or to deliver the context. -/
theorem exec_contextWritten :
    let bs := plainContext s slot.val p q
    exec (.contextWritten slot) s = .next (applyAll
      ((if v.capacity.toNat < bs.length then complete v.hdr { Reply.badField 40 with
          w0 := bs.length
          restarts := q.restarts - v.restarts }
        else Act.all [Act.of [.kept (keptWith s (contextId s slot.val p q) q.crates)], Act.none,
          deliverContext slot.val v bs (q.restarts - v.restarts)]) (s.withSlotRun slot.val { q with saving := none }))
      (s.withSlotRun slot.val { q with saving := none })) := by
  intro bs
  have hgo : (q.stopped.isSome || !q.inFlight.all (settled s slot.val p q) || (!v.toDevice && dmaStopped s v.hdr)) = false := by
    have hdma : (!v.toDevice && dmaStopped s v.hdr) = false := by
      cases hdev : v.toDevice
      · rw [hdue.dma hdev]
        rfl
      · rfl
    rw [hdue.stopped, hdue.still, hdma]
    rfl
  have hmeet : applyAll (Act.each (fun x => meetRange (trayAddr s slot.val p x.1 x.2) (p.trayLen x.1)) p.trays s) s = s :=
    Act.each_still (fun x => hs.meetRange _ _) _
  simp only [exec, execContextWritten, Act.run_eq, h.act, hdue.saving, hgo, Bool.false_eq_true, if_false, Act.all_cons, applyAll_seq,
    blurDraw_nil hs.words, applyAll_nil, hmeet, h.setRun, State.blur_nil hs.words, contextBytes_plain hplain]
  rfl

theorem exec_contextWritten_short (hshort : v.capacity.toNat < (plainContext s slot.val p q).length) :
    exec (.contextWritten slot) s = .next (afterReply v.hdr { Reply.badField 40 with
      w0 := (plainContext s slot.val p q).length
      restarts := q.restarts - v.restarts } (s.withSlotRun slot.val { q with saving := none })) := by
  rw [exec_contextWritten h hs hdue hplain, if_pos hshort, applyAll_complete]

theorem exec_contextWritten_host (hfits : (plainContext s slot.val p q).length ≤ v.capacity.toNat) (hhost : v.toDevice = false)
    (hown : v.hdr.partner = none) (hbytes : plainContext s slot.val p q ≠ []) :
    let bs := plainContext s slot.val p q
    exec (.contextWritten slot) s = .next (afterReply v.hdr
      ⟨stDone, 0, bs.length % 2 ^ 32, bs.length / 2 ^ 32, 0, false, q.restarts - v.restarts⟩
        (State.withHost { s.withSlotRun slot.val { q with saving := none } with kept := keptWith s (contextId s slot.val p q) q.crates }
          v.hdr.port v.addr.toNat bs)) := by
  rw [exec_contextWritten h hs hdue hplain, if_neg (Nat.not_lt.2 hfits)]
  simp only [Act.all_cons, Act.all_nil, applyAll_seq, Act.none_apply, applyAll_nil]
  exact congrArg _ (applyAll_deliverContext_host hhost hown hbytes (hdue.dma hhost))
end

/-! ### RESTORE_CONTEXT (R282) -/

/-- The bytes of a context's trays and shelf areas. -/
def Plan.placedBytes (p : Plan) : Nat := (p.trays.map (fun x => p.trayLen x.1)).sum + p.homes * p.resource.shelfBytes

/-- The lane splits of a context: what lies between its completed records and its trays. -/
def contextLanes (n : Nat) (p : Plan) (body : List Byte) : List LaneRun :=
  let doneLen := roundUp 64 (ceilDiv p.records.length 8)
  let b := slice body doneLen (body.length - doneLen - p.placedBytes)
  (parseLanes n p (countLanes b.length b) b []).1

/-- A slot's plan as a context makes it go on: paused, with the context's seed and ADVANCE, and a slot seed one ADVANCE on (R211, R282). -/
def Slot.restored (v : Slot) (b : List Byte) (q : Run) : Slot :=
  { v with
    seed := BitVec.ofNat 64 (fieldLE b 8 8 + fieldLE b 16 8)
    advance := BitVec.ofNat 64 (fieldLE b 16 8)
    epoch := if v.run.isSome then v.epoch else v.epoch + 1
    run := some q }

/-- The shelves of a plan with a key slot are tainted with the regions of the key (R84, R282). -/
def keyTaints (s : State) (n : Nat) (p : Plan) : Act :=
  if (s.slot n).keySlot.isSome then Act.of (((List.range p.homes).filterMap (homeCore s p)).map (fun c =>
    .taint c ((Tab.look [] s.taint c ++ s.regions.filterMap (fun x => x.2.bind (fun r =>
      if some r.key = (s.slot n).keySlot then some r.rid else none))).eraseDups)))
  else Act.none

theorem keyTaints_calm (s : State) (n : Nat) (p : Plan) : (keyTaints s n p).Calm := fun t => by
  unfold keyTaints
  split
  · rw [Act.of_apply, List.all_map]
    exact List.all_eq_true.2 fun _ _ => rfl
  · rfl

/-- What a restore does before it answers. -/
def restoreAct (s : State) (h : Hdr) (n : Nat) (p : Plan) (b : List Byte) : Act :=
  let body := b.drop 128
  Act.all [discardWork n, placeContext n p (body.drop (body.length - p.placedBytes)),
    fun t => [.slot n ((t.slot n).restored b (restoredRun t h n p (b.take 128) body (contextLanes n p body)))], keyTaints s n p]

section
variable {s : State} {slot : SlotId} {p : Plan} {h : Hdr} {len : Dword} (hs : ServesHost s h false) (hlen : len ≠ 0)
  (hp : (s.slot slot.val).plan = some p) (addr : Dword)
include hs hlen hp

theorem exec_restoreContext : exec (.restoreContext h addr len (BitVec.ofNat 8 slot.val) 0) s
    = .next (applyAll (restoreBytes h (BitVec.ofNat 8 slot.val) (hostData s h addr.toNat len.toNat) s) s) := by
  have hnamed : ¬ (15 < (BitVec.ofNat 8 slot.val : Byte).toNat ∨ (s.slot (BitVec.ofNat 8 slot.val : Byte).toNat).plan.isNone = true) := by
    rw [toNat_slotByte, hp, Option.isNone_some, or_iff_left Bool.false_ne_true, Nat.not_lt]
    exact Nat.le_of_lt_succ slot.isLt
  have hdev : ¬ 1 < (0 : Byte).toNat := by decide
  simp only [exec, execRestoreContext, Act.run_eq, command_of_serves hs.serves, restoreCommand, if_neg hlen, if_neg hnamed, if_neg hdev,
    if_true, hs.dma, Bool.false_eq_true, if_false]

variable (hrun : (s.slot slot.val).run = none) (hplain : p.readsSealed = false)
include hrun hplain

theorem exec_restoreContext_wrong (hwrong : contextOk p false (hostData s h addr.toNat len.toNat) = false) :
    exec (.restoreContext h addr len (BitVec.ofNat 8 slot.val) 0) s = .next (afterReply h (Reply.of stBadParameter) s) := by
  simp only [exec_restoreContext hs hlen hp, restoreBytes, slotCommand_of_slotId hp, hrun, hplain, hwrong, Option.any_none, Bool.false_eq_true,
    if_false, Bool.not_false, if_true, applyAll_finish]

/-- A context that agrees: the slot's work is discarded, the context is placed, and the slot takes its run. -/
theorem exec_restoreContext_agrees {b : List Byte} (hb : hostData s h addr.toNat len.toNat = b) (hok : contextOk p false b = true) :
    exec (.restoreContext h addr len (BitVec.ofNat 8 slot.val) 0) s = .next (afterReply h
      { Reply.of stDone with detail := if fieldLE b 24 8 = s.tables.active.ident then 0 else 0x10 }
      (applyAll (restoreAct s h slot.val p b s) s)) := by
  have hreply : (if fieldLE b 24 8 = s.tables.active.ident then Reply.of stDone else { Reply.of stDone with detail := 0x10 })
      = { Reply.of stDone with detail := if fieldLE b 24 8 = s.tables.active.ident then 0 else 0x10 } := by
    split <;> rfl
  simp only [exec_restoreContext hs hlen hp, hb, restoreBytes, slotCommand_of_slotId hp, hrun, hplain, hok, Option.any_none, Bool.false_eq_true,
    if_false, Bool.not_true, Bool.not_false, if_true, hreply, restoreAct, Act.all_cons, Act.all_nil, applyAll_seq, applyAll_complete,
    Act.none_apply, applyAll_nil]
  rfl
end

/-- A context's seed stands in its head. -/
theorem fieldLE_head (b : List Byte) : fieldLE (b.take 128) 8 8 = fieldLE b 8 8 := by
  rw [fieldLE, fieldLE, slice, slice, List.drop_take, List.take_take]
  rfl

/-- A restore into a slot without a run: its plan stays, and its run is the context's. -/
theorem Idle.restore {s t : State} {n : Nat} {p : Plan} (ht : Idle s n p t) (h : Hdr) (b : List Byte) :
    let u := applyAll (restoreAct s h n p b t) t
    (∃ (v : Slot) (q : Run), v.plan = some p ∧ q.paused = true ∧ q.seed = BitVec.ofNat 64 (fieldLE b 8 8) ∧ u.slot n = v.restored b q)
      ∧ u.regions = s.regions ∧ u.keys = s.keys ∧ u.tables = s.tables ∧ u.streams = s.streams := by
  let body := b.drop 128
  let placed := applyAll (Act.seq (Machine.discardWork n) (placeContext n p (body.drop (body.length - p.placedBytes))) t) t
  let restored := placed.withSlot n ((placed.slot n).restored b (restoredRun placed h n p (b.take 128) body (contextLanes n p body)))
  have hplaced : Idle s n p placed := Idle.discardWork.seq (placeContext_calm _ _ _).idle t ht
  have htaints : Calmed restored (applyAll (keyTaints s n p restored) restored) := .effs (keyTaints_calm s n p restored) restored
  have hslot := (congrArg (fun l => Tab.look Slot.reset l n) htaints.slots).trans (State.slot_withSlot hplaced.wf n _)
  have hu : applyAll (restoreAct s h n p b t) t = applyAll (keyTaints s n p restored) restored := by
    simp only [restoreAct, restored, placed, Act.all_cons, Act.all_nil, applyAll_seq, Act.none_apply, applyAll_nil]
    rfl
  intro u
  rw [show u = _ from hu]
  exact ⟨⟨placed.slot n, _, hplaced.plan, rfl, congrArg (BitVec.ofNat 64) (fieldLE_head b), hslot⟩, htaints.regions.trans hplaced.regions, htaints.keys.trans hplaced.keys,
    htaints.tables.trans hplaced.tables, htaints.streams.trans hplaced.streams⟩

/-- Settles O24. A restore discards what a slot without a run has left, which is nothing of its plan (`Idle.discardWork`). -/
theorem contexts : Obligations.Contexts := by
  unfold Obligations.Contexts
  refine ⟨⟨fun h addr cap slot toDev p q s hs hdev hp hq hsaving => exec_saveContext hs hp hq hsaving hdev h addr cap,
    fun slot p q v s hinv hp hq hsaving hstopped hstill hwords hawake hplain hdma => ?written⟩,
    fun h addr len slot p s hinv hs hlen hp hrun hplain hwords => ⟨exec_restoreContext_wrong hs hlen hp addr hrun hplain, fun hok => ?agrees⟩⟩
  case written =>
    have h : Runs s slot.val p q := ⟨hinv.canonical.slots, hp, hq⟩
    have hs : Steady s := ⟨hwords, hawake⟩
    have hdue : SaveDue s slot.val p q v := ⟨hsaving, hstopped, hstill, hdma⟩
    exact ⟨_, _, contextBytes_plain hplain, exec_contextWritten_short h hs hdue hplain, exec_contextWritten_host h hs hdue hplain⟩
  case agrees =>
    have hidle : Idle s slot.val p s := ⟨hinv.canonical.slots, hp, hrun, rfl, rfl, rfl, rfl⟩
    obtain ⟨⟨v, q, hplan, hpaused, hseed, hslot⟩, hregions, hkeys, htables, hstreams⟩ :=
      hidle.restore h (hostData s h addr.toNat len.toNat)
    refine ⟨_, exec_restoreContext_agrees hs hlen hp addr hrun hplain rfl hok, ?_, ?_, ?_, ⟨q, ?_, hpaused, hseed⟩, hregions, hkeys, htables, hstreams⟩
    · exact (congrArg Slot.plan hslot).trans hplan
    · exact (congrArg Slot.seed hslot).trans (BitVec.ofNat_add _ _)
    · exact congrArg Slot.advance hslot
    · exact congrArg Slot.run hslot

end Sys2Proof.Machine
end

section
/-! UNLOAD_PLAN (R279): a slot freed leaves its table, and with it the plans that are loaded. -/
namespace Sys2Proof.Machine

/-- An entry that is taken out leaves every other one. -/
theorem Tab.drop_eq_filter {α : Type} [DecidableEq α] {d : α} {t : Tab α} (hw : Tab.wf d t = true) (k : Nat) :
    Tab.drop t k = t.filter (fun x => x.1 != k) := by
  induction t with
  | nil => rfl
  | cons x t ih =>
    obtain ⟨_, habove, ht⟩ := (Tab.wf_cons d x.1 x.2 t).1 hw
    have hkeeps (hk : k ≤ x.1) : t.filter (fun y => y.1 != k) = t := List.filter_eq_self.2 fun y hy => by
      have hlt := Tab.lt_of_mem ht habove hy
      exact bne_iff_ne.2 (by omega)
    rw [Tab.drop]
    split
    next heq => rw [List.filter_cons_of_neg (by simp [heq]), hkeeps (Nat.le_of_eq heq)]
    next hne =>
      rw [List.filter_cons_of_pos (p := fun y : Nat × α => y.1 != k) (bne_iff_ne.2 (Ne.symm hne))]
      split
      next hlt => rw [hkeeps (Nat.le_of_lt hlt)]
      next => rw [ih ht]

/-- Once a slot is free, the plans that are loaded are those of the other slots. -/
theorem State.plans_withSlot_reset {s : State} (hw : Tab.wf Slot.reset s.slots = true) (n : Nat) :
    (s.withSlot n Slot.reset).plans = s.plans.filter (fun x => x.1 != n) := by
  have hslots : (s.withSlot n Slot.reset).slots = s.slots.filter (fun x => x.1 != n) := 
    (if_pos rfl : Tab.put Slot.reset s.slots n Slot.reset = Tab.drop s.slots n).trans (Tab.drop_eq_filter hw n)
  rw [State.plans, hslots, State.plans, List.filterMap_filter, List.filter_filterMap]
  refine List.filterMap_congr fun x _ => ?_
  cases x.2.plan <;> simp [Option.filter]

section
variable {slot : Byte} {p : Plan} {s : State} (hs : Serves s false) (hn : slot.toNat ≤ 15) (hp : (s.slot slot.toNat).plan = some p) (h : Hdr)
include hs hn hp

theorem exec_unloadPlan_busy (hrun : (s.slot slot.toNat).run.isSome = true) :
    exec (.unloadPlan h slot) s = .next (afterReply h (Reply.of stBusy) s) := by
  have hrunning : (s.slot slot.toNat).running = true := hrun
  simp only [exec, execUnloadPlan, Act.run_eq, command_of_serves hs, unloadPlan, slotCommand_of_plan hn hp, if_pos hrunning, applyAll_finish]

theorem exec_unloadPlan_freed (hrun : (s.slot slot.toNat).run = none) :
    exec (.unloadPlan h slot) s = .next (afterReply h (Reply.of stDone) (s.withSlot slot.toNat Slot.reset)) := by
  have hrunning : ¬ (s.slot slot.toNat).running = true := by simp [Slot.running, hrun]
  simp only [exec, execUnloadPlan, Act.run_eq, command_of_serves hs, unloadPlan, slotCommand_of_plan hn hp, if_neg hrunning, applyAll_seq,
    Act.of_apply, applyAll_finish]
  rfl
end

/-- Settles O20. What loaded plans hold is read from the slots, and a free slot has no entry (`State.plans_withSlot_reset`). -/
theorem planUnloading : Obligations.PlanUnloading := by
  unfold Obligations.PlanUnloading
  intro h slot p s hinv hs hn hp
  have hw := hinv.canonical.slots
  exact ⟨exec_unloadPlan_busy hs hn hp h, fun hrun => ⟨_, exec_unloadPlan_freed hs hn hp h hrun, rfl, State.slot_withSlot hw _ _,
    State.plans_withSlot_reset hw _, rfl⟩⟩

end Sys2Proof.Machine
end

section
/-! MOVE between tensors of this device (R261, R263): in memory without errors whose domains are awake, it reads nothing that has an effect,
and its stores write memory alone. -/
namespace Sys2Proof.Machine

/-! ### Stores of elements -/

/-- A state that stores may have left of a steady one: memory alone differs. -/
structure MemOnly (s t : State) : Prop where
  steady : Steady t
  rest : t = { s with mem := t.mem }

section
variable {s : State}

theorem MemOnly.refl (h : Steady s) : MemOnly s s := ⟨h, rfl⟩

theorem MemOnly.storeMem (a : Nat) (bs : List Byte) : (storeMem a bs).Keeps (MemOnly s) := fun t ht => by
  rw [ht.steady.storeMem]
  exact ⟨⟨ht.steady.words, ht.steady.awake⟩, congrArg (fun u : State => u.withMem a bs) ht.rest⟩

theorem MemOnly.meetRange (a n : Nat) : (meetRange a n).Keeps (MemOnly s) := fun t ht => by
  rw [ht.steady.meetRange]
  exact ht

theorem MemOnly.storeSealed (a : Nat) (bs : List Byte) : (storeSealed a bs).Keeps (MemOnly s) := fun t ht => by
  unfold Machine.storeSealed
  refine Act.Keeps.each (fun k u hu => ?_) _ t ht
  dsimp only
  split
  · exact hu
  · refine Act.Keeps.seq ?_ ?_ u hu
    · split
      · exact MemOnly.meetRange _ _
      · exact Act.Keeps.none
    · split
      · exact Act.Keeps.none
      · exact MemOnly.storeMem _ _

theorem MemOnly.storeCrate (c : Ctx) (home i q : Nat) (xs : List Nat) : (storeCrate c home i q xs).Keeps (MemOnly s) := fun t =>
  Act.Keeps.seq (MemOnly.storeMem _ _) (MemOnly.storeMem _ _) t

theorem MemOnly.storeElems (c : Ctx) (es : List ElemW) : (storeElems c es).Keeps (MemOnly s) :=
  Act.Keeps.seq (fun t => Act.Keeps.each (fun _ => MemOnly.storeMem _ _) _ t)
    (Act.Keeps.seq (fun t => Act.Keeps.each (fun _ => MemOnly.storeSealed _ _) _ t)
      ((Act.Keeps.each (fun _ => MemOnly.storeCrate _ _ _ _ _) _).seq Act.Keeps.none))
end

/-! ### What plain parts read -/

theorem Act.seq_still {a b : Act} {s : State} (ha : applyAll (a s) s = s) (hb : applyAll (b s) s = s) : applyAll (Act.seq a b s) s = s := by
  rw [applyAll_seq, ha, hb]

/-- Parts that meet no error and no crate. -/
structure PlainParts (c : Ctx) (ps : List Part) : Prop where
  errors : ps.flatMap (partErrors c) = []
  crates : ps.flatMap (partCrates c) = []

section
variable {c : Ctx} {ps : List Part} (h : PlainParts c ps)
include h

theorem PlainParts.badCrates : badCrates c ps = [] := by
  rw [Machine.badCrates, h.crates]
  rfl

theorem PlainParts.inputEvents : inputEvents c ps = [] := by
  rw [Machine.inputEvents, h.errors, h.badCrates]
  rfl

theorem PlainParts.landingEscape : landingEscape c ps = false := by
  have hcrates : landingCrates c ps = [] := by
    rw [landingCrates, h.badCrates]
    split <;> rfl
  have herrors : ∀ x ∈ ps, partErrors c x = [] := List.flatMap_eq_nil_iff.1 h.errors
  rw [Machine.landingEscape, hcrates, List.any_eq_false.2 fun x hx => by rw [herrors x hx]; exact Bool.false_ne_true]
  exact Bool.and_false _

theorem PlainParts.readParts {s : State} (hs : Steady s) : applyAll (readParts c ps s) s = s := by
  have hwake (a n : Nat) : applyAll (wakeRange a n s) s = s := by rw [wakeRange_awake hs.awake, applyAll_nil]
  have hglitches : applyAll (crateGlitches c ps s) s = s := by
    simp only [crateGlitches, h.crates, List.filterMap_nil, List.map_nil, List.eraseDups_nil, List.isEmpty_nil, if_true, Act.each_nil,
      applyAll_seq, Act.of_apply, applyAll_nil, Act.none_apply]
  have hcounts : crateCounts c ps = Act.none := by
    simp only [crateCounts, h.badCrates, List.filter_nil, List.map_nil, List.eraseDups_nil]
    rfl
  rw [Machine.readParts, h.errors, hcounts]
  refine Act.seq_still (Act.each_still (fun x => hwake _ _) _) (Act.seq_still (Act.each_still (fun x => ?_) _)
    (Act.seq_still rfl (Act.seq_still hglitches rfl)))
  cases x with
  | bytes a n => exact hwake a n
  | codes | elems | encoder => rfl
end

/-! ### MOVE -/

/-- A record whose body is due runs in the state that its memory's errors blur. -/
theorem bodyDue_ctx {s : State} {n r op : Nat} {c : Ctx} {q : Run} (h : bodyDue s n r op = some (c, q)) :
    c.s = s.blur ∧ (s.slot n).run = some q := by
  have hctx : recordCtx s n r = some (c, q) := by
    unfold bodyDue at h
    split at h
    next hc =>
      split at h
      · rw [hc, ← h]
      · cases h
    next => cases h
  unfold recordCtx at hctx
  split at hctx
  next hq =>
    split at hctx
    · cases hctx
      exact ⟨rfl, hq⟩
    · cases hctx
  next => cases hctx

/-- A MOVE of an uncompressed tensor without scales whose source and destination lie on this device. -/
structure PlainMove (c : Ctx) : Prop where
  source : moveHere c c.r.a = true
  dest : moveHere c c.r.out = true
  comp : (c.plan.tensor c.r.a).comp = 0
  unscaled : (c.plan.tensor c.r.a).scaled = false

/-- The element writes of such a MOVE: each code as it is, from the home that moves it. -/
def Ctx.moved (c : Ctx) : List ElemW :=
  (List.range (c.plan.tensor c.r.a).count).map (fun f =>
    ⟨c.r.out, moveHome c f, f, ⟨plainElem c (moveHome c f) (c.plan.tensor c.r.a) f, false, false⟩⟩)

section
variable {c : Ctx} (h : PlainMove c)
include h

theorem PlainMove.pairs : movePairs c.plan c.r = [(c.r.a, c.r.out)] := by
  rw [movePairs, h.unscaled]
  rfl

theorem PlainMove.parts (hwords : c.s.ecc = []) : PlainParts c (moveParts c) := by
  have hcodes : ∀ x ∈ moveParts c, ∃ home i lo hi, x = .codes home i lo hi := by
    intro x hx
    simp only [moveParts, h.pairs, List.flatMap_cons, List.flatMap_nil, List.append_nil, h.source, h.comp, Bool.not_true, Bool.false_eq_true,
      if_false, ne_eq, not_true_eq_false] at hx
    split at hx
    · exact ⟨_, _, _, _, List.mem_singleton.1 hx⟩
    · obtain ⟨f, _, hf⟩ := List.mem_flatMap.1 hx
      obtain ⟨home, _, rfl⟩ := List.mem_map.1 hf
      exact ⟨_, _, _, _, rfl⟩
  refine ⟨List.flatMap_eq_nil_iff.2 fun x hx => ?_, List.flatMap_eq_nil_iff.2 fun x hx => ?_⟩
  · obtain ⟨home, i, lo, hi, rfl⟩ := hcodes x hx
    rw [partErrors, stretchErrors, eccIn_nil hwords]
    split <;> rfl
  · obtain ⟨home, i, lo, hi, rfl⟩ := hcodes x hx
    rfl

theorem PlainMove.elems : moveElems c c [] c.r.a c.r.out = c.moved := by
  simp only [moveElems, h.source, Bool.not_true, Bool.false_and, Bool.false_eq_true, if_false, moveHomes, if_true, List.map_cons, List.map_nil]
  exact List.map_eq_flatMap.symm

theorem PlainMove.store : moveStore c [] = Act.seq (storeElems c c.moved) Act.none := by
  simp only [moveStore, h.pairs, Act.each_cons, Act.each_nil, h.dest, h.source, h.comp, moveSource, accessesOf, List.filter_nil, lostRanges,
    List.map_nil, Bool.not_true, Bool.false_eq_true, if_false, if_true, ne_eq, not_true_eq_false, h.elems]

theorem PlainMove.runs (free : Bool) : moveRuns c [] free = [] := by
  simp only [moveRuns, h.pairs, List.flatMap_cons, List.flatMap_nil, h.dest, if_true, List.append_nil]
end

/-- What ends a MOVE without events. -/
def endMove (n r : Nat) (c : Ctx) : Act := Act.all [taintAct c, dropXfers (.record (Fin.ofNat 16 n) r), markBody n r]

theorem reportEvents_nil (n : Nat) : reportEvents n [] = Act.none := rfl

/-- What is left of a plain MOVE are its stores and its end. -/
theorem exec_move_plain {s : State} {slot : SlotId} {r : Nat} {c : Ctx} {q : Run} (h : PlainMove c) (hs : Steady s)
    (hdue : bodyDue s slot.val r 11 = some (c, q)) (hxfers : s.xfers = []) :
    exec (.move slot r) s = .next (applyAll (Act.seq (storeElems c c.moved) (endMove slot.val r c) s) s) := by
  have hwords : c.s.ecc = [] := by
    rw [(bodyDue_ctx hdue).1, State.blur_nil hs.words, hs.words]
  have hparts := h.parts hwords
  have hnone (o : XferOwner) (isRead : Bool) : xfersOf s o isRead = [] := by rw [xfersOf, hxfers, List.filter_nil]
  simp only [exec, execMove, Act.run_eq, moveStep, hdue, hnone, hparts.landingEscape, hparts.inputEvents, h.pairs, h.source, h.runs, h.store,
    List.any_cons, List.any_nil, List.all_nil, List.isEmpty_nil, Bool.not_true, Bool.or_self, Bool.false_and, Bool.false_eq_true, if_false,
    Act.all_cons, applyAll_seq, blurDraw_nil hs.words, applyAll_nil, Act.when_false, Act.none_apply, hparts.readParts hs, moveWrites,
    Act.each_nil, Act.when_true, accessesOf, List.filter_nil, List.filterMap_nil, List.flatMap_cons, List.flatMap_nil, List.append_nil,
    reportEvents_nil, Act.all_nil, endMove]

/-- The taint of shelves alone changes. -/
theorem taintShelves_eq (ids : List Dword) (l : List Nat) (s : State) :
    applyAll (taintShelves ids l s) s = { s with taint := (applyAll (taintShelves ids l s) s).taint } := by
  refine applyAll_keeps_of (P := fun t => t = { s with taint := t.taint }) _ (fun e he t ht => ?_) s rfl
  unfold taintShelves at he
  split at he
  · cases he
  · obtain ⟨k, _, rfl⟩ := List.mem_map.1 he
    exact congrArg (applyEff · _) ht

theorem applyAll_markBody {s : State} {n : Nat} {q : Run} (hrun : (s.slot n).run = some q) (r : Nat) :
    applyAll (markBody n r s) s = s.withSlotRun n { q with bodyDone := r :: q.bodyDone } := by
  rw [markBody, hrun]
  rfl

theorem endMove_eq {s : State} {n r : Nat} {q : Run} (hrun : (s.slot n).run = some q) (c : Ctx) :
    ∃ taint xfers, applyAll (endMove n r c s) s =
      State.withSlotRun { s with taint := taint, xfers := xfers } n { q with bodyDone := r :: q.bodyDone } := by
  let tainted := applyAll (taintAct c s) s
  let dropped : State := { tainted with xfers := tainted.xfers.filter (fun x => decide (x.owner ≠ .record (Fin.ofNat 16 n) r)) }
  have htaint : tainted = { s with taint := tainted.taint } := taintShelves_eq _ _ s
  have hslots : dropped.slots = s.slots := (congrArg State.slots htaint :)
  have hmark := applyAll_markBody ((congrArg (fun l => (Tab.look Slot.reset l n).run) hslots).trans hrun) r
  refine ⟨tainted.taint, dropped.xfers, ?_⟩
  calc applyAll (endMove n r c s) s = applyAll (markBody n r dropped) dropped := by
        simp only [endMove, Act.all_cons, Act.all_nil, applyAll_seq, Act.none_apply, applyAll_nil]
        rfl
    _ = dropped.withSlotRun n { q with bodyDone := r :: q.bodyDone } := hmark
    _ = _ := congrArg (fun t : State => State.withSlotRun { t with xfers := dropped.xfers } n { q with bodyDone := r :: q.bodyDone }) htaint

/-- Settles O28. A plain MOVE stores its elements (`exec_move_plain`), which writes memory alone (`MemOnly`), and its body is done. -/
theorem moveLocal : Obligations.MoveLocal := by
  unfold Obligations.MoveLocal
  intro slot r c q s hinv hdue hwords hawake hxfers hsource hdest hcomp hunscaled
  have hs : Steady s := ⟨hwords, hawake⟩
  have hexec := exec_move_plain ⟨hsource, hdest, hcomp, hunscaled⟩ hs hdue hxfers
  have hrest := (MemOnly.storeElems c c.moved s (.refl hs)).rest
  rw [applyAll_seq] at hexec
  change ∃ t q', _ ∧ State.mem t = (applyAll (storeElems c c.moved s) s).mem ∧ _
  generalize applyAll (storeElems c c.moved s) s = stored at hexec hrest ⊢
  have hslots : stored.slots = s.slots := (congrArg State.slots hrest :)
  have hrun : (stored.slot slot.val).run = some q :=
    (congrArg (fun l => (Tab.look Slot.reset l slot.val).run) hslots).trans (bodyDue_ctx hdue).2
  obtain ⟨taint, xfers, hend⟩ := endMove_eq (r := r) hrun c
  rw [hend] at hexec
  refine ⟨_, _, hexec, rfl, congrArg Slot.run (State.slot_withSlot ?_ _ _), rfl, (congrArg State.host hrest :), (congrArg State.hooks hrest :),
    (congrArg State.cores hrest :), (congrArg State.outbox hrest :)⟩
  exact hslots.symm ▸ hinv.canonical.slots

end Sys2Proof.Machine
end

section
/-! Dealing of lane units, passes of waiting records and arrays given back (R124, R170, R184, R315): what they leave of slots, cores and the
rest of the state. -/
namespace Sys2Proof.Machine

/-! ### Runs as dispatch leaves them -/

/-- A run but for what waits in it: hooks that its records await, have acquired or have released, their turns, and their lane contexts. -/
def Run.beyondWaits (q : Run) : Run :=
  { q with
    waiting := []
    acquired := []
    released := []
    laneContexts := []
    aged := [] }

def Slot.beyondWaits (v : Slot) : Slot := { v with run := v.run.map Run.beyondWaits }

/-- The slots of a state hold those of `s`, but for what waits in their runs. -/
structure SameRuns (s t : State) : Prop where
  wf : Tab.wf Slot.reset t.slots = true
  slot : ∀ m, (t.slot m).beyondWaits = (s.slot m).beyondWaits

section
variable {s t : State}

theorem SameRuns.refl (hw : Tab.wf Slot.reset s.slots = true) : SameRuns s s := ⟨hw, fun _ => rfl⟩

theorem SameRuns.of_slots (ht : SameRuns s t) {u : State} (hu : u.slots = t.slots) : SameRuns s u where
  wf := hu ▸ ht.wf
  slot m := (congrArg (fun l => (Tab.look Slot.reset l m).beyondWaits) hu).trans (ht.slot m)

/-- A slot is written with its own run, but for what waits in it. -/
theorem SameRuns.write (ht : SameRuns s t) {m : Nat} {v : Slot} (hv : v.beyondWaits = (t.slot m).beyondWaits) :
    SameRuns s (t.withSlot m v) := by
  refine ⟨State.withSlot_wf ht.wf m v, fun j => Eq.trans ?_ (ht.slot j)⟩
  by_cases hj : j = m
  · rw [hj, State.slot_withSlot ht.wf, hv]
  · rw [State.slot_withSlot_other ht.wf hj]

theorem SameRuns.write_run (ht : SameRuns s t) {m : Nat} {q q' : Run} (hrun : (t.slot m).run = some q) (hq : q'.beyondWaits = q.beyondWaits) :
    SameRuns s (t.withSlotRun m q') :=
  ht.write (by rw [Slot.beyondWaits, Slot.beyondWaits, hrun, Option.map_some, Option.map_some, hq])

theorem SameRuns.setRun {f : Run → Run} (hf : ∀ q, (f q).beyondWaits = q.beyondWaits) (m : Nat) :
    (setRun m f).Keeps (SameRuns s) := fun t ht => by
  unfold Machine.setRun
  split
  · exact ht
  next q hq => exact ht.write_run hq (hf q)

/-- A slot's plan stays, and its run but for what waits in it. -/
theorem SameRuns.runs (ht : SameRuns s t) {n : Nat} {p : Plan} {q : Run} (h : Runs s n p q) :
    ∃ q', Runs t n p q' ∧ q'.beyondWaits = q.beyondWaits := by
  have hplan : (t.slot n).plan = some p := (congrArg Slot.plan (ht.slot n) :).trans h.plan
  have hrun : (t.slot n).run.map Run.beyondWaits = some q.beyondWaits := by
    have hmap : (t.slot n).run.map Run.beyondWaits = (s.slot n).run.map Run.beyondWaits := (congrArg Slot.run (ht.slot n) :)
    rw [hmap, h.run]
    rfl
  obtain ⟨q', hq', hq⟩ := Option.map_eq_some_iff.1 hrun
  exact ⟨q', ⟨ht.wf, hplan, hq'⟩, hq⟩
end

/-! ### Cores -/

/-- What an index reads as is listed, or nothing is written there. -/
theorem Tab.look_listed {α : Type} (d : α) (t : Tab α) (k : Nat) : Tab.look d t k = d ∨ (k, Tab.look d t k) ∈ t := by
  induction t with
  | nil => exact .inl rfl
  | cons x t ih =>
    rw [Tab.look]
    split
    next hk => exact .inr (hk ▸ List.mem_cons_self)
    next =>
      split
      · exact .inl rfl
      · exact ih.imp_right (List.mem_cons_of_mem _)

/-- A core but for its array, the LIVE record that has taken it, and the progress of lane splits. -/
def Core.beyondWork (k : Core) : Core :=
  { k with
    array := MatArray.reset
    live := none
    laneRuns := [] }

/-- The writes of a list of cores, each once or more with the same content. -/
theorem core_writeCores (l : List Nat) (f : Nat → Core) {s : State} (hw : Tab.wf Core.reset s.cores = true) :
    let t := applyAll (l.map (fun c => .core c (f c))) s
    Tab.wf Core.reset t.cores = true ∧ ∀ j, t.core j = if j ∈ l then f j else s.core j := by
  induction l generalizing s with
  | nil => exact ⟨hw, fun j => rfl⟩
  | cons c l ih =>
    obtain ⟨hwf, hcore⟩ := ih (s := applyEff s (.core c (f c))) (Tab.wf_put _ _ _ _ hw)
    refine ⟨hwf, fun j => (hcore j).trans ?_⟩
    rw [core_after_core s c j (f c) hw]
    by_cases hl : j ∈ l
    · simp [hl]
    · by_cases hj : j = c <;> simp [hl, hj]

theorem writeCores_eq (l : List Nat) (f : Nat → Core) (s : State) :
    let t := applyAll (l.map (fun c => .core c (f c))) s
    t = { s with cores := t.cores } := by
  refine applyAll_keeps_of (P := fun t => t = { s with cores := t.cores }) _ (fun e he t ht => ?_) s rfl
  obtain ⟨c, _, rfl⟩ := List.mem_map.1 he
  exact congrArg (applyEff · _) ht

/-! ### Dealing -/

/-- What dealing, passes and returned arrays never touch. -/
def State.beyondDealing (s : State) : State :=
  { s with
    slots := []
    cores := []
    lanes := []
    taint := []
    rails := [] }

/-- A state that dealing, passes and returned arrays may have left of `s`. -/
structure Dealt (s t : State) : Prop where
  runs : SameRuns s t
  wf : Tab.wf Core.reset t.cores = true
  core : ∀ c, (t.core c).beyondWork = (s.core c).beyondWork
  rest : t.beyondDealing = s.beyondDealing

section
variable {s : State}

theorem Dealt.refl (hslots : Tab.wf Slot.reset s.slots = true) (hcores : Tab.wf Core.reset s.cores = true) : Dealt s s :=
  ⟨.refl hslots, hcores, fun _ => rfl, rfl⟩

theorem Dealt.setRun {f : Run → Run} (hf : ∀ q, (f q).beyondWaits = q.beyondWaits) (m : Nat) : (setRun m f).Keeps (Dealt s) := fun t ht => by
  have hruns := SameRuns.setRun hf m t ht.runs
  unfold Machine.setRun at hruns ⊢
  split at hruns
  · exact ht
  · exact ⟨hruns, ht.wf, ht.core, ht.rest⟩

/-- A core is written with all that its own work does not change. -/
theorem Dealt.write {t : State} (ht : Dealt s t) {c : Nat} {k : Core} (hk : k.beyondWork = (t.core c).beyondWork) :
    Dealt s (applyEff t (.core c k)) := by
  refine ⟨ht.runs.of_slots rfl, Tab.wf_put _ _ _ _ ht.wf, fun j => Eq.trans ?_ (ht.core j), ht.rest⟩
  rw [core_after_core t c j k ht.wf]
  split
  next hj => rw [hk, hj]
  next => rfl

/-- The writes of lanes, taint and rails. -/
def Eff.besideCores : Eff → Bool
  | .lane .. | .taint .. | .rail .. => true
  | _ => false

theorem Dealt.effs {t : State} {es : List Eff} (hes : es.all Eff.besideCores = true) (ht : Dealt s t) : Dealt s (applyAll es t) := by
  refine applyAll_keeps_of es (fun e he u hu => ?_) t ht
  have hbeside := List.all_eq_true.1 hes e he
  cases e with
  | lane | taint | rail => exact ⟨hu.runs.of_slots rfl, hu.wf, hu.core, hu.rest⟩
  | _ => cases hbeside

theorem dealLanes_besideCores (core : Nat) (e : LaneEnv) (n : Nat) (l : List Nat) (q : LaneRun) :
    (dealLanes core e n l q).1.all Eff.besideCores = true := by
  fun_induction dealLanes core e n l q with
  | case1 | case2 | case3 => rfl
  | case4 n i l q u q' hdeal r ih => exact ih

theorem Dealt.dealRecord (core : Nat) (key : Nat × Nat) : (dealRecord core key).Keeps (Dealt s) := fun t ht => by
  unfold Machine.dealRecord
  split
  · exact ht
  · split
    · exact ht
    · split
      · exact ht
      · dsimp only
        rw [applyAll_cons]
        exact Dealt.effs (dealLanes_besideCores ..) (ht.write (by rfl))

theorem Dealt.dealCore (core : Nat) : (dealCore core).Keeps (Dealt s) := fun t ht => by
  unfold Machine.dealCore
  split
  · exact ht
  · exact Act.Keeps.each (fun _ => Dealt.dealRecord _ _) _ t ht

theorem Dealt.redeal : redeal.Keeps (Dealt s) := fun t => Act.Keeps.each (fun _ => Dealt.dealCore _) _ t

end

end Sys2Proof.Machine
end

section
/-! RECORD_DISPATCH (R266, R268, R269): a record that waits for its hook, and a record that takes its cores. -/
namespace Sys2Proof.Machine

/-! ### Waiting for a hook (R299) -/

/-- The queue of a hook whose head asks for more than the count is not served. -/
theorem applyAll_serve_short {s : State} {k : Nat} (h : ∀ w ∈ (s.hook k).waiters.head?, ¬ w.amount ≤ (s.hook k).count) :
    applyAll (jobs [.serve k] s) s = s := by
  have hstep : jobStep s (.serve k) = ([], []) := by
    rw [jobStep]
    split
    · rfl
    next w ws hws => exact if_neg (h w (by rw [hws]; rfl))
  obtain ⟨n, hfuel⟩ : ∃ n, jobFuel s 1 = n + 2 := ⟨jobFuel s 1 - 2, by unfold jobFuel; omega⟩
  simp only [jobs, List.length_singleton, hfuel, runJobs, applyAll_seq, Act.of_apply, hstep, applyAll_nil, List.append_nil, Act.none_apply]

/-- A record joins the queue of a hook without a count. -/
theorem applyAll_acquireHook_waits {s : State} {k : Nat} (hk : 64 ≤ k ∧ k < 4096) (hw : Tab.wf Hook.reset s.hooks = true)
    (hcount : (s.hook k).count = 0) (hhead : ∀ w ∈ (s.hook k).waiters.head?, w.amount ≠ 0) (n : SlotId) (r : Nat) :
    applyAll (acquireHook k (.record n r) s) s = s.withHook k { s.hook k with waiters := (s.hook k).waiters ++ [.record n r] } := by
  let joined := s.withHook k { s.hook k with waiters := (s.hook k).waiters ++ [.record n r] }
  have hhook : joined.hook k = { s.hook k with waiters := (s.hook k).waiters ++ [.record n r] } := Tab.look_put_self _ _ _ _ hw
  have hshort : ∀ w ∈ (joined.hook k).waiters.head?, ¬ w.amount ≤ (joined.hook k).count := by
    intro w hmem
    have hne : w.amount ≠ 0 := by
      rw [hhook] at hmem
      cases hws : (s.hook k).waiters with
      | nil =>
        rw [hws] at hmem
        cases Option.some.inj hmem
        exact (by decide : (1 : Word) ≠ 0)
      | cons v vs =>
        rw [hws] at hmem
        exact hhead w (by rw [hws]; exact hmem)
    rw [hhook, hcount]
    exact fun hle => hne (BitVec.le_zero_iff.1 hle)
  rw [acquireHook, applyAll_seq, Act.of_apply, applyAll_cons, applyAll_nil, applyEff_hook, if_pos hk]
  exact applyAll_serve_short hshort

theorem exec_recordDispatch_waits {s : State} {slot : SlotId} {p : Plan} {q : Run} (h : Runs s slot.val p q) {r : Nat}
    (hready : q.ready p r = true) (hheld : q.hookHeld p r = false) :
    exec (.recordDispatch slot r) s = .next (applyAll (acquireHook (p.record r).waitHook (.record slot r)
      (s.withSlotRun slot.val { q with waiting := q.waiting ++ [r] })) (s.withSlotRun slot.val { q with waiting := q.waiting ++ [r] })) := by
  simp only [exec, execRecordDispatch, Act.run_eq, h.act, hready, hheld, Bool.not_true, Bool.not_false, Bool.false_eq_true, if_false, if_true,
    applyAll_seq, h.setRun]

/-! ### Taking cores -/

theorem exec_recordDispatch_starts {s : State} {slot : SlotId} {p : Plan} {q : Run} (h : Runs s slot.val p q) {r : Nat}
    (hready : q.ready p r = true) (hheld : q.hookHeld p r = true) (hstart : mayStart s slot.val p q r = true) :
    exec (.recordDispatch slot r) s = .next (applyAll (startRecord slot.val r s) s) := by
  simp only [exec, execRecordDispatch, Act.run_eq, h.act, hready, hheld, hstart, Bool.not_true, Bool.false_eq_true, if_false, if_true]

section
variable {s : State}

theorem Dealt.passOver (n r cls : Nat) (cs : List Nat) : (passOver n r cls cs).Keeps (Dealt s) := fun t =>
  by
  unfold Machine.passOver
  exact Act.Keeps.each (fun _ => Dealt.setRun (by exact fun _ => rfl) _) _ t

theorem taintShelves_besideCores (ids : List Dword) (l : List Nat) (t : State) : (taintShelves ids l t).all Eff.besideCores = true := by
  unfold taintShelves
  split
  · rfl
  · simp [Eff.besideCores]

theorem Dealt.taintAct (c : Ctx) : (taintAct c).Keeps (Dealt s) := fun t ht =>
  ht.effs (taintShelves_besideCores _ _ t)

theorem Dealt.startLanes (n r : Nat) : (startLanes n r).Keeps (Dealt s) := fun t ht => by
  unfold Machine.startLanes
  split
  · exact ht
  · dsimp only
    refine Act.Keeps.seq (Dealt.setRun (by exact fun _ => rfl) n) (Act.Keeps.seq (Act.Keeps.each (fun x u hu => ?_) _)
      (Act.Keeps.each (fun _ => Dealt.dealCore _) _)) t ht
    exact hu.write (by rfl)
end

/-- A run with a record in flight. -/
def Run.starting (r : Nat) (q : Run) : Run :=
  { q with
    inFlight := q.inFlight ++ [r]
    aged := q.aged.filter (fun x => x.1 != r)
    reports := q.reports.filter (fun m => m.record != r) }

theorem Run.starting_beyondWaits {q q' : Run} (h : q'.beyondWaits = q.beyondWaits) (r : Nat) :
    (q'.starting r).beyondWaits = (q.starting r).beyondWaits :=
  (congrArg (fun v : Run => (v.starting r).beyondWaits) h :)

/-- A core that a record takes: it holds the record, and no margin probe goes on there. -/
def Core.taken (k : Core) (b : Nat × Nat) : Core := { k with busy := k.busy ++ [b], probe := false }

/-- What follows once a record has its cores. -/
def enterRecord (n r : Nat) (rc : Rec) : Act :=
  Act.all [fun s => (recordCtx s n r).elim [] (fun x => taintAct x.1 s), Act.when (rc.opcode == 9 || laneConv rc) (startLanes n r)]

theorem Dealt.enterRecord {s : State} (n r : Nat) (rc : Rec) : (enterRecord n r rc).Keeps (Dealt s) := by
  refine Act.Keeps.seq (fun t ht => ?_) (((Dealt.startLanes n r).when _).seq Act.Keeps.none)
  cases recordCtx t n r with
  | none => exact ht
  | some x => exact Dealt.taintAct _ t ht

theorem Runs.startRecord_acts {s : State} {n : Nat} {p : Plan} {q : Run} (h : Runs s n p q) (r : Nat) :
    startRecord n r s = Act.all [passOver n r (recordClass p q r) (recCores s p (p.record r)), Machine.setRun n (Run.starting r),
      Act.of ((recCores s p (p.record r)).map (fun c => .core c ((s.core c).taken (n, r)))),
      fun t => (recordCtx t n r).elim [] (fun x => taintAct x.1 t),
      Act.when ((p.record r).opcode == 9 || laneConv (p.record r)) (startLanes n r)] s := h.act _

/-- A record that starts: others are passed over, it goes in flight, takes its cores, and enters them. -/
theorem Runs.startRecord {s : State} {n : Nat} {p : Plan} {q : Run} (h : Runs s n p q) (hcores : Tab.wf Core.reset s.cores = true) (r : Nat) :
    ∃ t q', applyAll (startRecord n r s) s = t ∧ Runs t n p q' ∧ q'.beyondWaits = (q.starting r).beyondWaits
      ∧ (∀ c ∈ recCores s p (p.record r), (t.core c).beyondWork = ((s.core c).taken (n, r)).beyondWork)
      ∧ t.beyondDealing = s.beyondDealing := by
  let cs := recCores s p (p.record r)
  let passed := applyAll (passOver n r (recordClass p q r) cs s) s
  have hpassed : Dealt s passed := Dealt.passOver _ _ _ _ s (.refl h.wf hcores)
  obtain ⟨q₁, hruns, hq₁⟩ := hpassed.runs.runs h
  let flying := passed.withSlotRun n (q₁.starting r)
  let taken := applyAll (cs.map (fun c => .core c ((s.core c).taken (n, r)))) flying
  obtain ⟨hwf, hcore⟩ := core_writeCores cs (fun c => (s.core c).taken (n, r)) (s := flying) hpassed.wf
  have heq : taken = { flying with cores := taken.cores } := writeCores_eq cs _ flying
  have hslots : taken.slots = flying.slots := (congrArg State.slots heq :)
  have hentered := Dealt.enterRecord n r (p.record r) taken (.refl (hslots ▸ (hruns.withSlotRun _).wf) hwf)
  obtain ⟨q', hruns', hq'⟩ := hentered.runs.runs ((hruns.withSlotRun (q₁.starting r)).of_slots hslots)
  refine ⟨_, q', ?_, hruns', hq'.trans (Run.starting_beyondWaits hq₁ r), fun c hc => ?_, ?_⟩
  · have hset : applyAll (Machine.setRun n (Run.starting r) passed) passed = flying := hruns.setRun _
    rw [h.startRecord_acts, Act.all_cons, applyAll_seq, Act.all_cons, applyAll_seq, hset, Act.all_cons, applyAll_seq]
    rfl
  · rw [hentered.core, hcore, if_pos hc]
  · calc _ = taken.beyondDealing := hentered.rest
      _ = flying.beyondDealing := (congrArg State.beyondDealing heq :)
      _ = s.beyondDealing := hpassed.rest

/-- Settles O25. A hook without a count serves no queue (`applyAll_acquireHook_waits`); a record that starts takes each of its cores
(`Runs.startRecord`). -/
theorem recordDispatch : Obligations.RecordDispatch := by
  unfold Obligations.RecordDispatch
  intro slot r p q s hinv hp hq hready n v k
  have h : Runs s slot.val p q := ⟨hinv.canonical.slots, hp, hq⟩
  refine ⟨fun hheld hlo hhi hcount hhead => ?waits, fun hheld hstart => ?starts⟩
  case waits =>
    rw [exec_recordDispatch_waits h hready hheld]
    exact congrArg _ (applyAll_acquireHook_waits (s := s.withSlotRun n { q with waiting := q.waiting ++ [r] }) ⟨hlo, hhi⟩ hinv.canonical.hooks
      hcount hhead slot r)
  case starts =>
    obtain ⟨t, q', ht, hruns, hq', hcores, hrest⟩ := h.startRecord hinv.canonical.cores r
    refine ⟨t, q', (exec_recordDispatch_starts h hready hheld hstart).trans (congrArg _ ht), hruns.run, (congrArg Run.inFlight hq' :),
      (congrArg Run.completed hq' :), (congrArg Run.step hq' :), (congrArg Run.seed hq' :), fun c hc =>
      ⟨?_, (congrArg Core.probe (hcores c hc) :)⟩,
      (congrArg State.mem hrest :), (congrArg State.host hrest :), (congrArg State.hooks hrest :), (congrArg State.ledger hrest :)⟩
    have hbusy : (t.core c).busy = (s.core c).busy ++ [(n, r)] := (congrArg Core.busy (hcores c hc) :)
    rw [hbusy]
    exact List.mem_append_right _ (List.mem_singleton_self _)

end Sys2Proof.Machine
end

section
/-! RECORD_COMPLETE (R70, R268, R269, R382): what a record leaves of its run, its cores and its hook. -/
namespace Sys2Proof.Machine

/-! ### Stores to memory without stored errors -/

/-- What stores to words without errors never touch: all but memory, the domains that they wake, and the free values they draw. -/
def State.beyondStores (s : State) : State :=
  { s with
    mem := []
    rails := []
    free := 0 }

theorem wakeRange_rails (a n : Nat) (s : State) : applyAll (wakeRange a n s) s = { s with rails := (applyAll (wakeRange a n s) s).rails } := by
  refine applyAll_keeps_of (P := fun t => t = { s with rails := t.rails }) _ (fun e he t ht => ?_) s rfl
  obtain ⟨x, _, rfl⟩ := List.mem_map.1 he
  exact congrArg (applyEff · _) ht

theorem storeMem_beyondStores {s : State} (h : s.ecc = []) (a : Nat) (bs : List Byte) :
    (applyAll (storeMem a bs s) s).beyondStores = s.beyondStores := by
  simp only [storeMem, eccIn_nil h, Act.all_cons, Act.all_nil, Act.each_nil, applyAll_seq, Act.none_apply, applyAll_nil, Act.of_apply, applyAll_cons,
    applyEff_mem]
  exact (congrArg State.beyondStores (wakeRange_rails a bs.length s) :)

theorem storeMem_keeps_beyondStores {s : State} (h : s.ecc = []) (a : Nat) (bs : List Byte) :
    (storeMem a bs).Keeps (fun t => t.beyondStores = s.beyondStores) := fun t ht => by
  have hecc : t.ecc = s.ecc := (congrArg State.ecc ht :)
  exact (storeMem_beyondStores (hecc.trans h) a bs).trans ht

theorem spoilRecord_beyondStores {s : State} (h : s.ecc = []) (n r : Nat) :
    (applyAll (spoilRecord n r s) s).beyondStores = s.beyondStores := by
  unfold spoilRecord
  split
  · rfl
  · exact Act.Keeps.seq (P := fun t => t.beyondStores = s.beyondStores) (a := Act.of [.fresh]) (fun t ht => ht)
      (Act.Keeps.each (fun _ => storeMem_keeps_beyondStores h _ _) _) s rfl

theorem Dealt.meetRange {s : State} (h : s.ecc = []) (a n : Nat) : (meetRange a n).Keeps (Dealt s) := fun t ht => by
  have hwoken : Dealt s (applyAll (wakeRange a n t) t) := ht.effs (by simp [wakeRange, Eff.besideCores])
  have hecc : (applyAll (wakeRange a n t) t).ecc = s.ecc := (congrArg State.ecc hwoken.rest :)
  rw [Machine.meetRange, applyAll_seq, eccIn_nil (hecc.trans h)]
  exact hwoken

theorem Dealt.unparkCore {s : State} (h : s.ecc = []) (k : Nat) : (unparkCore k).Keeps (Dealt s) := fun t ht => by
  unfold Machine.unparkCore
  rw [applyAll_seq]
  have hmet := Act.Keeps.each (fun x : Parked => Dealt.meetRange h (x.addr.getD 0) x.size) (t.core k).array.parked t ht
  exact hmet.write (by rfl)

theorem Dealt.restoreParked {s : State} (h : s.ecc = []) (n r : Nat) : (restoreParked n r).Keeps (Dealt s) := fun t =>
  Act.Keeps.each (fun k => Dealt.unparkCore h k) _ t

/-! ### Hooks that are released -/

section
variable {s : State}

theorem SameRuns.calm {t : State} (ht : SameRuns s t) {es : List Eff} (hes : es.all Eff.calm = true) : SameRuns s (applyAll es t) :=
  ht.of_slots (Calmed.effs hes t).slots

/-- A record that is granted its hook waits no longer: nothing else of its run changes. -/
theorem SameRuns.grant (k : Nat) (after : Word) (w : Waiter) {t u : State} (hut : u.slots = t.slots) (hu : SameRuns s u) :
    SameRuns s (applyAll (grant k after w t).1 u) := by
  cases w with
  | packet | command | partner => exact hu.calm rfl
  | record m r =>
    simp only [Machine.grant]
    split
    · exact hu
    next q hq =>
      have hslot : u.slot m.val = t.slot m.val := congrArg (fun l => Tab.look Slot.reset l m.val) hut
      rw [← hslot] at hq ⊢
      exact (hu.write_run hq (by rfl)).calm (es := [.ready _]) rfl

theorem SameRuns.jobStep (j : Job) : Act.Keeps (SameRuns s) (fun t => (jobStep t j).1) := fun t ht => by
  cases j with
  | release k inc src rec =>
    refine ht.calm ?_
    simp only [Machine.jobStep]
    split <;> rfl
  | serve k =>
    simp only [Machine.jobStep]
    split
    · exact ht
    · split
      · exact SameRuns.grant _ _ _ (Calmed.eff (e := .hook k _) rfl t).slots (ht.calm (es := [.hook k _]) rfl)
      · exact ht
  | record | complete => exact ht.calm rfl
  | reply h r => exact ht.calm (deliver_calm h r t)

theorem SameRuns.runJobs (f : Nat) (l : List Job) : (runJobs f l).Keeps (SameRuns s) := by
  induction f generalizing l with
  | zero => exact Act.Keeps.none
  | succ f ih =>
    cases l with
    | nil => exact Act.Keeps.none
    | cons j l => exact fun t => Act.Keeps.seq (SameRuns.jobStep j) (ih _) t

theorem SameRuns.releaseHook (k inc src : Nat) (recorded : Bool) : (releaseHook k inc src recorded).Keeps (SameRuns s) := fun t =>
  SameRuns.runJobs _ _ t
end

theorem releaseHook_beyondReplies (k inc src : Nat) (recorded : Bool) (s : State) :
    (applyAll (releaseHook k inc src recorded s) s).beyondReplies = s.beyondReplies :=
  CompletionInvariant.releaseHook (P := fun t => t.beyondReplies = s.beyondReplies)
    ⟨fun he ht => (he.beyondReplies_eq _).trans ht, fun _ ht => ht⟩ k inc src recorded s rfl

/-- A release of one by a record on a hook that no one waits on, with its HOOK_RELEASED record (R299, R436). -/
theorem applyAll_releaseHook_recorded {s : State} {k : Nat} (hk : 64 ≤ k ∧ k < 4096) (src : Nat) (hw : Tab.wf Hook.reset s.hooks = true)
    (hnone : (s.hook k).waiters = []) (hcount : (s.hook k).count.toNat < 0xFFFFFFFF) :
    ∃ d, applyAll (releaseHook k 1 src true s) s = (s.withHook k { s.hook k with count := (s.hook k).count + 1 }).log 0x0301 src d := by
  let after := s.withHook k { s.hook k with count := (s.hook k).count + 1 }
  have hhook : after.hook k = { s.hook k with count := (s.hook k).count + 1 } := Tab.look_put_self _ _ _ _ hw
  have hfits : overflows (s.hook k).count 1 = false := decide_eq_false (by omega)
  have hreleased : releasedCount (s.hook k).count 1 = (s.hook k).count + 1 := by
    rw [releasedCount, Nat.min_eq_left (by omega)]
    bv_omega
  have hrelease : jobStep s (.release k 1 src true) =
      ([.hook k { s.hook k with count := (s.hook k).count + 1 }], [.serve k, .record k 1 src]) := by
    rw [jobStep, hfits, hreleased]
    rfl
  have hserve : jobStep after (.serve k) = ([], []) := by
    rw [jobStep, hhook, hnone]
  obtain ⟨f, hfuel⟩ : ∃ f, jobFuel s 1 = f + 4 := ⟨jobFuel s 1 - 4, by unfold jobFuel; omega⟩
  refine ⟨toLE 4 k ++ toLE 4 1 ++ toLE 4 (after.hook k).count.toNat, ?_⟩
  simp only [releaseHook, jobs, List.length_singleton, hfuel, runJobs, applyAll_seq, Act.of_apply, hrelease, applyAll_cons, applyAll_nil,
    applyEff_hook, if_pos hk, List.cons_append, List.nil_append]
  rw [show ({ s with hooks := Tab.put Hook.reset s.hooks k { s.hook k with count := (s.hook k).count + 1 } } : State) = after from rfl, hserve]
  rfl

/-! ### The completion of a record -/

/-- A run with a record completed. -/
def Run.completing (r : Nat) (q : Run) : Run :=
  { q with
    inFlight := q.inFlight.filter (· != r)
    bodyDone := q.bodyDone.filter (· != r)
    completed := q.completed ++ [r] }

theorem Run.completing_beyondWaits {q q' : Run} (h : q'.beyondWaits = q.beyondWaits) (r : Nat) :
    (q'.completing r).beyondWaits = (q.completing r).beyondWaits :=
  (congrArg (fun v : Run => (v.completing r).beyondWaits) h :)

/-- A core that a record leaves. -/
def Core.left (k : Core) (b : Nat × Nat) : Core := { k with busy := k.busy.filter (· != b) }

/-- The writes of the cores that a record leaves. -/
def leaveCores (s : State) (b : Nat × Nat) : List Eff :=
  (s.cores.filter (fun x => x.2.busy.contains b)).map (fun x => .core x.1 (x.2.left b))

theorem leaveCores_eq {s : State} (hw : Tab.wf Core.reset s.cores = true) (b : Nat × Nat) :
    leaveCores s b = ((s.cores.filter (fun x => x.2.busy.contains b)).map (·.1)).map (fun c => .core c ((s.core c).left b)) := by
  rw [leaveCores, List.map_map]
  refine List.map_congr_left fun x hx => ?_
  rw [Function.comp_apply, State.core, Tab.look_of_mem hw (List.mem_filter.1 hx).1]

/-- Cores alone change, and every one is left, whether the record held it or not. -/
theorem applyAll_leaveCores {s t : State} (hw : Tab.wf Core.reset s.cores = true) (ht : t.cores = s.cores) (b : Nat × Nat) :
    let u := applyAll (leaveCores s b) t
    u = { t with cores := u.cores } ∧ Tab.wf Core.reset u.cores = true ∧ ∀ c, u.core c = (s.core c).left b := by
  rw [leaveCores_eq hw]
  obtain ⟨hwf, hcore⟩ := core_writeCores ((s.cores.filter (fun x => x.2.busy.contains b)).map (·.1)) (fun c => (s.core c).left b) (ht ▸ hw)
  refine ⟨writeCores_eq _ _ _, hwf, fun c => (hcore c).trans ?_⟩
  split
  · rfl
  next hout =>
    have hcore : t.core c = s.core c := congrArg (fun l => Tab.look Core.reset l c) ht
    have hfree : b ∉ (s.core c).busy := fun hb => by
      rcases Tab.look_listed Core.reset s.cores c with hreset | hmem
      · rw [State.core, hreset] at hb
        cases hb
      · exact hout (List.mem_map.2 ⟨_, List.mem_filter.2 ⟨hmem, List.contains_iff_mem.2 hb⟩, rfl⟩)
    rw [hcore, Core.left, List.filter_eq_self.2 fun x hx => bne_iff_ne.2 (ne_of_mem_of_not_mem hx hfree)]

/-- A sound core does not wait for its dust sheet (R378). -/
theorem CoresSound.core {s : State} (h : CoresSound s) (c : Nat) : (s.core c).condemned = false ∧ (s.core c).failed = false := by
  rcases Tab.look_listed Core.reset s.cores c with hreset | hmem
  · rw [State.core, hreset]
    exact ⟨rfl, rfl⟩
  · exact h _ hmem

theorem retireCores_sound {s : State} (hw : Tab.wf Core.reset s.cores = true)
    (h : ∀ c, (s.core c).condemned = false ∧ (s.core c).failed = false) :
    retireCores s = [] := by
  have hnone : s.cores.filter (fun x => (x.2.condemned || x.2.failed) && coreStill s x.1) = [] :=
    List.filter_eq_nil_iff.2 fun x hx => by
      have hx' := h x.1
      rw [State.core, Tab.look_of_mem hw hx] at hx'
      simp [hx'.1, hx'.2]
  rw [retireCores, hnone, Act.each_nil]
  rfl

/-- The record's outputs, its place in the run, its cores, and the arrays that it had taken. -/
def settleRecord (s : State) (n r : Nat) (isOpen : Bool) : Act :=
  Act.all [Act.when isOpen (spoilRecord n r), setRun n (Run.completing r), Act.of (leaveCores s (n, r)), restoreParked n r]

/-- Whether a record's completion releases its hook. -/
def Run.releases (p : Plan) (q : Run) (r : Nat) : Bool := (p.record r).signalHook != 0xFFFF && !q.released.contains r

/-- The release of the record's hook. -/
def releaseRecord (n r k : Nat) : Act :=
  Act.seq (setRun n (fun q => { q with released := r :: q.released })) (releaseHook k 1 (srcSlot n) true)

theorem exec_recordComplete {s : State} {slot : SlotId} {p : Plan} {q : Run} (h : Runs s slot.val p q) {r : Nat} (hflight : r ∈ q.inFlight)
    (hdone : r ∈ q.bodyDone) (hcoll : (p.record r).collective = false) :
    exec (.recordComplete slot r) s = .next (applyAll (Act.all [settleRecord s slot.val r (outputsOpen s slot.val p q r),
      Act.when (q.releases p r) (releaseRecord slot.val r (p.record r).signalHook),
      retireCores, redeal, advance slot.val] s) s) := by
  have hgo : (!q.inFlight.contains r || !q.bodyDone.contains r || ((p.record r).collective && !q.summed.contains r)) = false := by
    rw [List.contains_iff_mem.2 hflight, List.contains_iff_mem.2 hdone, hcoll]
    rfl
  simp only [exec, execRecordComplete, Act.run_eq, h.act, hgo, Bool.false_eq_true, if_false, settleRecord, releaseRecord, Act.all_cons,
    Act.all_nil, applyAll_seq, Act.none_apply, applyAll_nil, Act.of_apply]
  rfl

/-- A state in which a record of `s` has completed: its run goes on without it, no core holds it, and none waits for its dust sheet. -/
structure Settled (s : State) (n : Nat) (p : Plan) (q : Run) (r : Nat) (t : State) : Prop where
  run : ∃ q', Runs t n p q' ∧ q'.beyondWaits = (q.completing r).beyondWaits
  wf : Tab.wf Core.reset t.cores = true
  free : ∀ c, (n, r) ∉ (t.core c).busy
  sound : ∀ c, (t.core c).condemned = false ∧ (t.core c).failed = false
  regions : t.regions = s.regions
  keys : t.keys = s.keys
  streams : t.streams = s.streams

section
variable {s : State} {n : Nat} {p : Plan} {q : Run} {r : Nat}

/-- A settled record stays so while its run changes in what waits alone, and cores in their own work alone. -/
theorem Settled.of_same {t u : State} (ht : Settled s n p q r t) (hsame : SameRuns t u) (hwf : Tab.wf Core.reset u.cores = true)
    (hcore : ∀ c, (u.core c).beyondWork = (t.core c).beyondWork) (hregions : u.regions = t.regions) (hkeys : u.keys = t.keys)
    (hstreams : u.streams = t.streams) : Settled s n p q r u where
  run := by
    obtain ⟨q₁, hruns, hq₁⟩ := ht.run
    obtain ⟨q', hruns', hq'⟩ := hsame.runs hruns
    exact ⟨q', hruns', hq'.trans hq₁⟩
  wf := hwf
  free c := by
    have hbusy : (u.core c).busy = (t.core c).busy := (congrArg Core.busy (hcore c) :)
    rw [hbusy]
    exact ht.free c
  sound c := ⟨(congrArg Core.condemned (hcore c) :).trans (ht.sound c).1, (congrArg Core.failed (hcore c) :).trans (ht.sound c).2⟩
  regions := hregions.trans ht.regions
  keys := hkeys.trans ht.keys
  streams := hstreams.trans ht.streams

theorem Settled.dealt {t u : State} (ht : Settled s n p q r t) (h : Dealt t u) : Settled s n p q r u :=
  ht.of_same h.runs h.wf h.core (congrArg State.regions h.rest :) (congrArg State.keys h.rest :) (congrArg State.streams h.rest :)

theorem Settled.dealt_refl {t : State} (ht : Settled s n p q r t) : Dealt t t := by
  obtain ⟨_, hruns, _⟩ := ht.run
  exact .refl hruns.wf ht.wf

theorem Settled.releaseHook (k inc src : Nat) (recorded : Bool) : (releaseHook k inc src recorded).Keeps (Settled s n p q r) := fun t ht => by
  have hrest := releaseHook_beyondReplies k inc src recorded t
  have hcores : (applyAll (Machine.releaseHook k inc src recorded t) t).cores = t.cores := (congrArg State.cores hrest :)
  exact ht.of_same (SameRuns.releaseHook k inc src recorded t ht.dealt_refl.runs) (hcores ▸ ht.wf)
    (fun c => congrArg (fun l => (Tab.look Core.reset l c).beyondWork) hcores) (congrArg State.regions hrest :) (congrArg State.keys hrest :)
    (congrArg State.streams hrest :)

theorem Settled.releaseRecord (k : Nat) : (releaseRecord n r k).Keeps (Settled s n p q r) :=
  Act.Keeps.seq (fun t ht => ht.dealt (Dealt.setRun (by exact fun _ => rfl) n t ht.dealt_refl)) (Settled.releaseHook _ _ _ _)

theorem Settled.listed {t : State} (ht : Settled s n p q r t) : Settled s n p q r t.listed := by
  obtain ⟨q', hruns, hq'⟩ := ht.run
  exact ⟨⟨q', hruns.of_slots rfl, hq'⟩, ht.wf, ht.free, ht.sound, ht.regions, ht.keys, ht.streams⟩

/-- A settled record's run, whose step has another record left, goes on. -/
theorem Settled.goesOn {t : State} (ht : Settled s n p q r t) (hactive : q.active = true)
    (hopen : ∃ rs, p.steps[q.step]? = some rs ∧ ∃ k ∈ rs, k ≠ r ∧ q.isDone p k = false) :
    let u := applyAll (redeal t) t
    applyAll (Act.all [retireCores, redeal, advance n] t) t = u.listed ∧ Dealt t u := by
  intro u
  have hdealt : Dealt t u := Dealt.redeal t ht.dealt_refl
  obtain ⟨q', hruns, hq'⟩ := (ht.dealt hdealt).run
  have hq_active : q'.active = true := (congrArg Run.active hq' :).trans hactive
  have hq_open : StepOpen p q' := by
    obtain ⟨rs, hrs, k, hk, hkr, hleft⟩ := hopen
    have hstep : q'.step = q.step := (congrArg Run.step hq' :)
    have hcompleted : q'.completed = q.completed ++ [r] := (congrArg Run.completed hq' :)
    have htier : q'.tier = q.tier := (congrArg Run.tier hq' :)
    refine ⟨rs, hstep ▸ hrs, k, hk, ?_⟩
    simp only [Run.isDone, hcompleted, htier, Bool.or_eq_false_iff] at hleft ⊢
    exact ⟨by simpa [hkr] using hleft.1, hleft.2⟩
  refine ⟨?_, hdealt⟩
  simp only [Act.all_cons, Act.all_nil, applyAll_seq, retireCores_sound ht.wf ht.sound, applyAll_nil, Act.none_apply]
  exact hruns.advance hq_active hq_open
end

/-- A record that completes leaves its run and its cores; hooks and the ledger stand. -/
theorem Runs.settleRecord {s : State} {n : Nat} {p : Plan} {q : Run} (h : Runs s n p q) (hw : Tab.wf Core.reset s.cores = true)
    (hsound : CoresSound s) (hwords : s.ecc = []) (r : Nat) (isOpen : Bool) :
    let t := applyAll (settleRecord s n r isOpen s) s
    Settled s n p q r t ∧ t.hooks = s.hooks ∧ t.ledger = s.ledger := by
  intro t
  let spoiled := applyAll (Act.when isOpen (spoilRecord n r) s) s
  have hspoiled : spoiled.beyondStores = s.beyondStores := by
    cases isOpen
    · rfl
    · exact spoilRecord_beyondStores hwords n r
  have hruns : Runs spoiled n p q := h.of_slots (congrArg State.slots hspoiled :)
  let completed := spoiled.withSlotRun n (q.completing r)
  have hcores : completed.cores = s.cores := (congrArg State.cores hspoiled :)
  obtain ⟨hleft, hwf, hcore⟩ := applyAll_leaveCores hw hcores (n, r)
  have ht : t = applyAll (restoreParked n r (applyAll (leaveCores s (n, r)) completed)) (applyAll (leaveCores s (n, r)) completed) := by
    have hset : applyAll (Machine.setRun n (Run.completing r) spoiled) spoiled = completed := hruns.setRun _
    simp only [t, Machine.settleRecord, Act.all_cons, Act.all_nil, applyAll_seq, Act.none_apply, applyAll_nil, Act.of_apply]
    rw [hset]
  generalize applyAll (leaveCores s (n, r)) completed = left at hleft hwf hcore ht
  have hslots : left.slots = completed.slots := (congrArg State.slots hleft :)
  have hsettled : Settled s n p q r left :=
    { run := ⟨_, (hruns.withSlotRun _).of_slots hslots, rfl⟩
      wf := hwf
      free := fun c hc => by
        rw [hcore] at hc
        exact absurd rfl (bne_iff_ne.1 (List.mem_filter.1 hc).2)
      sound := fun c => by
        rw [hcore]
        exact hsound.core c
      regions := (congrArg State.regions hleft :).trans (congrArg State.regions hspoiled :)
      keys := (congrArg State.keys hleft :).trans (congrArg State.keys hspoiled :)
      streams := (congrArg State.streams hleft :).trans (congrArg State.streams hspoiled :) }
  have hleft_words : left.ecc = [] := ((congrArg State.ecc hleft :).trans (congrArg State.ecc hspoiled :)).trans hwords
  have hdealt : Dealt left t := ht ▸ Dealt.restoreParked hleft_words n r left hsettled.dealt_refl
  exact ⟨hsettled.dealt hdealt,
    (congrArg State.hooks hdealt.rest :).trans ((congrArg State.hooks hleft :).trans (congrArg State.hooks hspoiled :)),
    (congrArg State.ledger hdealt.rest :).trans ((congrArg State.ledger hleft :).trans (congrArg State.ledger hspoiled :))⟩

/-- A record that completes while its step goes on: it settles, its hook is released at most once, and the run goes on. -/
theorem Runs.recordComplete {s : State} {slot : SlotId} {p : Plan} {q : Run} {r : Nat} (h : Runs s slot.val p q)
    (hw : Tab.wf Core.reset s.cores = true) (hflight : r ∈ q.inFlight) (hdone : r ∈ q.bodyDone) (hcoll : (p.record r).collective = false)
    (hactive : q.active = true) (hsound : CoresSound s) (hwords : s.ecc = [])
    (hopen : ∃ rs, p.steps[q.step]? = some rs ∧ ∃ k ∈ rs, k ≠ r ∧ q.isDone p k = false) :
    ∃ settled t, exec (.recordComplete slot r) s = .next t ∧ Settled s slot.val p q r t
      ∧ Settled s slot.val p q r settled ∧ settled.hooks = s.hooks ∧ settled.ledger = s.ledger
      ∧ let released := applyAll (Act.when (q.releases p r) (releaseRecord slot.val r (p.record r).signalHook) settled) settled
        t.hooks = released.hooks ∧ t.ledger = released.ledger := by
  obtain ⟨hsettled, hhooks, hledger⟩ := h.settleRecord hw hsound hwords r (outputsOpen s slot.val p q r)
  have hreleased := (Settled.releaseRecord (p.record r).signalHook).when (q.releases p r) _ hsettled
  obtain ⟨hend, hdealt⟩ := hreleased.goesOn hactive hopen
  have hexec := exec_recordComplete h hflight hdone hcoll
  rw [Act.all_cons, applyAll_seq, Act.all_cons, applyAll_seq] at hexec
  exact ⟨_, _, hexec.trans (congrArg _ hend), (hreleased.dealt hdealt).listed, hsettled, hhooks, hledger, (congrArg State.hooks hdealt.rest :),
    (congrArg State.ledger hdealt.rest :)⟩

/-- The newest record of the ledger. -/
theorem State.log_shows (s : State) (e src : Nat) (d : List Byte) :
    ∃ x ∈ (s.log e src d).ledger, x.event = BitVec.ofNat 16 e ∧ x.source = BitVec.ofNat 16 src :=
  ⟨_, List.mem_cons_self, rfl, rfl⟩

/-- The first release of a settled record on a hook that no one waits on. -/
theorem Settled.releaseRecord_free {s t : State} {n : Nat} {p : Plan} {q : Run} {r : Nat} (ht : Settled s n p q r t) {k : Nat}
    (hk : 64 ≤ k ∧ k < 4096) (hw : Tab.wf Hook.reset t.hooks = true) (hnone : (t.hook k).waiters = [])
    (hcount : (t.hook k).count.toNat < 0xFFFFFFFF) :
    let u := applyAll (Machine.releaseRecord n r k t) t
    (u.hook k).count = (t.hook k).count + 1 ∧ ∃ x ∈ u.ledger, x.event = 0x0301 ∧ x.source = BitVec.ofNat 16 (srcSlot n) := by
  intro u
  obtain ⟨q', hruns, _⟩ := ht.run
  let marked := t.withSlotRun n { q' with released := r :: q'.released }
  have hmark : applyAll (setRun n (fun q => { q with released := r :: q.released }) t) t = marked := hruns.setRun _
  obtain ⟨d, hd⟩ := applyAll_releaseHook_recorded (s := marked) hk (srcSlot n) hw hnone hcount
  have hu : u = applyAll (Machine.releaseHook k 1 (srcSlot n) true marked) marked := by
    simp only [u, Machine.releaseRecord, applyAll_seq, hmark]
  rw [hd] at hu
  have hhook : u.hook k = { t.hook k with count := (t.hook k).count + 1 } := by
    rw [hu]
    exact Tab.look_put_self _ _ _ _ hw
  refine ⟨congrArg Hook.count hhook, ?_⟩
  rw [hu]
  exact State.log_shows _ _ _ _

/-- Settles O26. A record settles in its run and on its cores (`Runs.settleRecord`), and the first time its hook is released
(`Settled.releaseRecord_free`); then the run goes on (`Settled.goesOn`). -/
theorem recordCompletion : Obligations.RecordCompletion := by
  unfold Obligations.RecordCompletion
  refine ⟨fun slot r p q s hinv hp hq hflight hdone hcoll hactive _ hsound hwords hopen => ?completes,
    fun slot r p q s hinv hp hq hflight hdone hcoll hactive _ hopen hlo hhi hnone hcount hsound hwords => ?releases⟩
  case completes =>
    have h : Runs s slot.val p q := ⟨hinv.canonical.slots, hp, hq⟩
    obtain ⟨_, t, hexec, ht, _⟩ := h.recordComplete hinv.canonical.cores hflight hdone hcoll hactive hsound hwords hopen
    obtain ⟨q', hruns, hq'⟩ := ht.run
    exact ⟨t, q', hexec, hruns.run, (congrArg Run.inFlight hq' :), (congrArg Run.completed hq' :), (congrArg Run.step hq' :),
      (congrArg Run.seed hq' :), ht.free, ht.regions, ht.keys, ht.streams⟩
  case releases =>
    have h : Runs s slot.val p q := ⟨hinv.canonical.slots, hp, hq⟩
    obtain ⟨settled, t, hexec, _, hsettled, hhooks, hledger, hhooks', hledger'⟩ :=
      h.recordComplete hinv.canonical.cores hflight hdone hcoll hactive hsound hwords hopen
    intro k
    have hhook : settled.hook k = s.hook k := congrArg (fun l => Tab.look Hook.reset l k) hhooks
    refine ⟨t, hexec, fun hfirst => ?first, fun hagain => ?again⟩
    case first =>
      have hgo : q.releases p r = true := by
        have hsignals : (p.record r).signalHook ≠ 0xFFFF := by omega
        simp [Run.releases, hsignals, hfirst]
      rw [hgo, Act.when_true] at hhooks' hledger'
      have hfree := hsettled.releaseRecord_free ⟨hlo, hhi⟩ (hhooks ▸ hinv.canonical.hooks) (hhook ▸ hnone) (hhook ▸ hcount)
      rw [hledger', State.hook, hhooks', ← hhook]
      exact hfree
    case again =>
      have hstay : q.releases p r = false := by simp [Run.releases, hagain]
      rw [hstay, Act.when_false] at hhooks' hledger'
      exact ⟨congrArg (fun l => (Tab.look Hook.reset l k).count) (hhooks'.trans hhooks), hledger'.trans hledger⟩

end Sys2Proof.Machine
end

section
/-! What every step keeps (R299, R403, R433, R439): each effect keeps it, and every step is a list of effects. -/
namespace Sys2Proof.Machine

/-! ### Increments of counters (R439) -/

/-- A state with a counter at a value. -/
def State.withCounter (s : State) (id : Nat) (v : Counter) : State := { s with counters := Tab.put Counter.reset s.counters id v }

theorem State.bump_fits {s : State} {id n : Nat} (h : (s.counter id).value + n ≤ counterMax) :
    s.bump id n = s.withCounter id ⟨(s.counter id).value + n, (s.counter id).sat⟩ := if_pos h

theorem State.bump_sticks {s : State} {id n : Nat} (h : ¬ (s.counter id).value + n ≤ counterMax) (hsat : (s.counter id).sat = true) :
    s.bump id n = s.withCounter id ⟨counterMax, true⟩ := (if_neg h).trans (if_pos hsat)

theorem State.bump_saturates {s : State} {id n : Nat} (h : ¬ (s.counter id).value + n ≤ counterMax) (hsat : (s.counter id).sat = false) :
    s.bump id n = (s.withCounter id ⟨counterMax, true⟩).log 0x0004 (id / 65536) (toLE 4 id) :=
  (if_neg h).trans (if_neg (by simp [hsat]))

/-- An increment leaves a counter within its bound, and may write a record. -/
theorem State.bump_inversion (s : State) (id n : Nat) :
    ∃ v : Counter, v.value ≤ counterMax
      ∧ (s.bump id n = s.withCounter id v ∨ s.bump id n = (s.withCounter id v).log 0x0004 (id / 65536) (toLE 4 id)) := by
  by_cases h : (s.counter id).value + n ≤ counterMax
  · exact ⟨_, h, .inl (State.bump_fits h)⟩
  · refine ⟨⟨counterMax, true⟩, Nat.le_refl _, ?_⟩
    cases hsat : (s.counter id).sat
    · exact .inr (State.bump_saturates h hsat)
    · exact .inl (State.bump_sticks h hsat)

/-! ### Canonical tables -/

theorem State.Canonical.log {s : State} (h : s.Canonical) (event source : Nat) (d : List Byte) : (s.log event source d).Canonical := { h with }

theorem State.Canonical.withCounter {s : State} (h : s.Canonical) (id : Nat) (v : Counter) : (s.withCounter id v).Canonical :=
  { h with counters := Tab.wf_put _ _ _ _ h.counters }

theorem State.Canonical.powerLost {s : State} (h : s.Canonical) : s.powerLost.Canonical where
  mem := rfl
  host := h.host
  ports := Tab.wf_remap _ _ h.ports
  chutes := rfl
  rounds := rfl
  hooks := rfl
  marks := rfl
  ecc := rfl
  regions := rfl
  keys := rfl
  taint := rfl
  banks := Tab.wf_remap _ _ h.banks
  tiles := Tab.wf_remap _ _ h.tiles
  edges := Tab.wf_remap _ _ h.edges
  testedBanks := rfl
  hubs := h.hubs
  cores := rfl
  lanes := rfl
  rails := rfl
  slots := rfl
  links := Tab.wf_remap _ _ h.links
  colls := Tab.wf_remap _ _ h.colls
  engines := Tab.wf_remap _ _ h.engines
  streams := rfl
  counters := rfl
  sensors := h.sensors

theorem State.Canonical.deviceReset {s : State} (h : s.Canonical) : s.deviceReset.Canonical where
  mem := h.mem
  host := h.host
  ports := Tab.wf_remap _ _ h.ports
  chutes := Tab.wf_remap _ _ h.chutes
  rounds := rfl
  hooks := rfl
  marks := rfl
  ecc := h.ecc
  regions := rfl
  keys := rfl
  taint := h.taint
  banks := h.banks
  tiles := Tab.wf_remap _ _ h.tiles
  edges := h.edges
  testedBanks := h.testedBanks
  hubs := h.hubs
  cores := Tab.wf_remap _ _ h.cores
  lanes := rfl
  rails := h.rails
  slots := rfl
  links := Tab.wf_remap _ _ h.links
  colls := Tab.wf_remap _ _ h.colls
  engines := Tab.wf_remap _ _ h.engines
  streams := rfl
  counters := h.counters
  sensors := h.sensors

theorem applyEff_canonical {s : State} (h : s.Canonical) (e : Eff) : (applyEff s e).Canonical := by
  cases e with
  | port => exact { h with ports := Tab.wf_put _ _ _ _ h.ports }
  | chute => exact { h with chutes := Tab.wf_put _ _ _ _ h.chutes }
  | host => exact { h with host := putHost_wf _ _ _ _ h.host }
  | round => exact { h with rounds := Tab.wf_put _ _ _ _ h.rounds }
  | hook =>
    rw [applyEff_hook]
    split
    · exact { h with hooks := Tab.wf_put _ _ _ _ h.hooks }
    · exact h
  | mark => exact { h with marks := Tab.wf_put _ _ _ _ h.marks }
  | mem => exact { h with mem := putMem_wf _ _ _ h.mem }
  | ecc => exact { h with ecc := Tab.wf_put _ _ _ _ h.ecc }
  | region => exact { h with regions := Tab.wf_put _ _ _ _ h.regions }
  | key => exact { h with keys := Tab.wf_put _ _ _ _ h.keys }
  | taint => exact { h with taint := Tab.wf_put _ _ _ _ h.taint }
  | bank => exact { h with banks := Tab.wf_put _ _ _ _ h.banks }
  | tile => exact { h with tiles := Tab.wf_put _ _ _ _ h.tiles }
  | hub => exact { h with hubs := Tab.wf_put _ _ _ _ h.hubs }
  | edge => exact { h with edges := Tab.wf_put _ _ _ _ h.edges }
  | core => exact { h with cores := Tab.wf_put _ _ _ _ h.cores }
  | lane => exact { h with lanes := Tab.wf_put _ _ _ _ h.lanes }
  | rail => exact { h with rails := Tab.wf_put _ _ _ _ h.rails }
  | slot => exact { h with slots := Tab.wf_put _ _ _ _ h.slots }
  | link => exact { h with links := Tab.wf_put _ _ _ _ h.links }
  | coll => exact { h with colls := Tab.wf_put _ _ _ _ h.colls }
  | engine => exact { h with engines := Tab.wf_put _ _ _ _ h.engines }
  | stream => exact { h with streams := Tab.wf_put _ _ _ _ h.streams }
  | sensor => exact { h with sensors := Tab.wf_put _ _ _ _ h.sensors }
  | testedBanks => exact { h with testedBanks := Tab.wf_put _ _ _ _ h.testedBanks }
  | count id n =>
    rw [applyEff_count]
    obtain ⟨v, -, hv | hv⟩ := s.bump_inversion id n
    · exact hv ▸ h.withCounter id v
    · exact hv ▸ (h.withCounter id v).log _ _ _
  | countMax => exact h.withCounter _ _
  | clearCounter => exact h.withCounter _ _
  | powerLost => exact h.powerLost
  | deviceReset => exact h.deviceReset
  | _ => exact { h with }

/-! ### Patience, counters, the ledger and the steward firmware's hooks -/

/-- Both patiences come above 0 out of reset (R403). -/
theorem patient_of_reset {s : State} (hbg : s.status.bgPatience = Status.reset.bgPatience)
    (hbulk : s.status.bulkPatience = Status.reset.bulkPatience) : s.Patient := by
  unfold State.Patient
  rw [hbg, hbulk]
  decide

/-- A write of STATUS keeps a patience that it would make 0 (R403). -/
theorem applyEff_patient {s : State} (h : s.Patient) (e : Eff) : (applyEff s e).Patient := by
  obtain ⟨hbg, hbulk⟩ := h
  cases e with
  | status v =>
    rw [applyEff_status, State.Patient]
    dsimp only [keepPatience]
    exact ⟨by split <;> assumption, by split <;> assumption⟩
  | hook =>
    rw [applyEff_hook]
    split <;> exact ⟨hbg, hbulk⟩
  | count id n =>
    rw [applyEff_count]
    obtain ⟨v, -, hv | hv⟩ := s.bump_inversion id n <;> exact hv ▸ ⟨hbg, hbulk⟩
  | powerLost => exact patient_of_reset rfl rfl
  | deviceReset => exact patient_of_reset rfl rfl
  | _ => exact ⟨hbg, hbulk⟩

/-- Every counter that reads within its bound is listed so. -/
theorem State.Counted.counter {s : State} (h : s.Counted) (id : Nat) : (s.counter id).value ≤ counterMax := by
  rcases Tab.look_listed Counter.reset s.counters id with hreset | hlisted
  · rw [State.counter, hreset]
    exact Nat.zero_le _
  · exact h _ hlisted

theorem State.Counted.withCounter {s : State} (h : s.Counted) (id : Nat) {v : Counter} (hv : v.value ≤ counterMax) :
    (s.withCounter id v).Counted := fun x hx => (Tab.mem_put hx).elim (fun he => he ▸ hv) (h x)

theorem applyEff_counted {s : State} (h : s.Counted) (e : Eff) : (applyEff s e).Counted := by
  cases e with
  | hook =>
    rw [applyEff_hook]
    split <;> exact h
  | count id n =>
    rw [applyEff_count]
    obtain ⟨v, hv, hbump | hbump⟩ := s.bump_inversion id n <;> exact hbump ▸ h.withCounter id hv
  | countMax id n =>
    have hid := h.counter id
    exact h.withCounter id (v := ⟨max (s.counter id).value (min n counterMax), _⟩) (by dsimp only; omega)
  | clearCounter id => exact h.withCounter id (v := Counter.reset) (Nat.zero_le _)
  | powerLost => exact fun x hx => nomatch hx
  | _ => exact h

/-- A record takes the next number, and stands before those that are kept (R433). -/
theorem State.Recorded.log {s : State} (h : s.Recorded) (event source : Nat) (d : List Byte) : (s.log event source d).Recorded := by
  obtain ⟨-, hseq⟩ := h
  refine ⟨List.length_take_le _ _, fun i r hr => ?_⟩
  have hget : (_ :: s.ledger)[i]? = some r := List.getElem?_eq_some_iff.2 (by
    obtain ⟨hi, hr⟩ := List.getElem?_eq_some_iff.1 hr
    exact ⟨Nat.lt_of_lt_of_le hi (List.length_take_le' _ _), (List.getElem_take).symm.trans hr⟩)
  cases i with
  | zero =>
    cases Option.some.inj hget
    simp [State.log]
  | succ i =>
    rw [hseq i r hget]
    simp only [State.log]
    bv_omega

theorem applyEff_recorded {s : State} (h : s.Recorded) (e : Eff) : (applyEff s e).Recorded := by
  cases e with
  | ledger event source d => exact h.log event source d
  | hook =>
    rw [applyEff_hook]
    split <;> exact h
  | count id n =>
    rw [applyEff_count]
    obtain ⟨v, -, hv | hv⟩ := s.bump_inversion id n
    · exact hv ▸ h
    · exact hv ▸ State.Recorded.log (s := s.withCounter id v) h _ _ _
  | powerLost => exact ⟨Nat.zero_le _, fun i r hr => nomatch hr⟩
  | _ => exact h

theorem applyEff_stewardHooks {s : State} (h : s.StewardHooks) (e : Eff) : (applyEff s e).StewardHooks := by
  cases e with
  | hook k v =>
    rw [applyEff_hook]
    split
    next hk => exact fun x hx => (Tab.mem_put hx).elim (fun he => he ▸ hk) (h x)
    next => exact h
  | count id n =>
    rw [applyEff_count]
    obtain ⟨v, -, hv | hv⟩ := s.bump_inversion id n <;> exact hv ▸ h
  | powerLost => exact fun x hx => nomatch hx
  | deviceReset => exact fun x hx => nomatch hx
  | _ => exact h

/-! ### Steps -/

theorem applyEff_inv (s : State) (e : Eff) (h : s.Inv) : (applyEff s e).Inv where
  canonical := applyEff_canonical h.canonical e
  patient := applyEff_patient h.patient e
  counted := applyEff_counted h.counted e
  recorded := applyEff_recorded h.recorded e
  steward := applyEff_stewardHooks h.steward e

theorem applyAll_inv (es : List Eff) {s : State} (h : s.Inv) : (applyAll es s).Inv := applyAll_keeps applyEff_inv es s h

/-- No clause of the invariant is about the queue. -/
theorem State.Inv.pending {s : State} (h : s.Inv) (l : List Instr) : State.Inv { s with pending := l } where
  canonical := { h.canonical with }
  patient := h.patient
  counted := h.counted
  recorded := h.recorded
  steward := h.steward

/-- Settles O3. A step is a list of effects (`exec_effects`), each of which keeps the invariant (`applyEff_inv`). -/
theorem stepKeepsInvariant : Obligations.StepKeepsInvariant := by
  unfold Obligations.StepKeepsInvariant
  intro s t hinv hstep
  unfold step at hstep
  split at hstep
  next => exact Host.Outcome.next.inj hstep ▸ applyAll_inv (idle s) hinv
  next c rest _ =>
    obtain ⟨es, hexec⟩ := exec_effects c { s with pending := rest }
    rw [hexec] at hstep
    exact Host.Outcome.next.inj hstep ▸ applyAll_inv es (hinv.pending rest)

/-- Settles O4: every table is empty at reset but the tiles as shipped. -/
theorem resetMeetsInvariant : Obligations.ResetMeetsInvariant := by
  unfold Obligations.ResetMeetsInvariant
  exact {
    canonical := by constructor <;> rfl
    patient := ⟨by decide, by decide⟩
    counted := fun _ hx => nomatch hx
    recorded := ⟨Nat.zero_le _, fun _ _ hr => nomatch hr⟩
    steward := fun _ hx => nomatch hx }

/-- Settles O1. With nothing waiting the stewards have no message to serve. -/
theorem stepServesQueue : Obligations.StepServesQueue := by
  unfold Obligations.StepServesQueue
  refine ⟨fun c l s => rfl, fun s hpending hqueue => ?_⟩
  have hidle : idle s = [] := by rw [idle, serveOne, hqueue]
  rw [step, hpending]
  dsimp only
  rw [Act.run_eq, hidle, applyAll_nil]

end Sys2Proof.Machine
end

section
/-! Replies (R285, R289, R291, R303): what completing a command reaches, and the bytes of a reply. -/
namespace Sys2Proof.Machine

/-! ### What completing a command reaches -/

theorem CompletionInvariant.complete {P : State → Prop} (hP : CompletionInvariant P) (h : Hdr) (r : Reply) :
    (complete h r).Keeps P := fun s hs => by
  unfold Machine.complete
  split
  · exact hP.jobs _ s hs
  · exact hP.deliver h r s hs

theorem completionInvariant_beyondReplies (s : State) : CompletionInvariant (fun t => t.beyondReplies = s.beyondReplies) where
  eff he ht := (he.beyondReplies_eq _).trans ht
  chute _ ht := ht

/-- Settles O7: no write of a completion reaches further (`completionInvariant_beyondReplies`). -/
theorem completionKeepsRest : Obligations.CompletionKeepsRest := by
  unfold Obligations.CompletionKeepsRest
  exact fun h r s => (completionInvariant_beyondReplies s).complete h r s rfl

/-! ### A reply to this device's chute -/

section
variable {h : Hdr} {r : Reply} {s : State}

theorem complete_unsignalled (hsignal : (h.signal && signals r.status) = false) : complete h r = deliver h r :=
  if_neg (by simp [hsignal])

/-- A packet of this device alone is answered in its ring. -/
theorem deliver_own (hown : h.partner = none) (hsingle : ∀ f ∈ s.twin.forwarded, f.hdr ≠ h) : deliver h r s = replyEffs h r s := by
  have hfind : s.twin.forwarded.find? (fun f => decide (f.hdr = h)) = none :=
    List.find?_eq_none.2 fun f hf => by simpa using hsingle f hf
  simp only [deliver, hown, hfind]

theorem applyAll_replyEffs_replied (hclock : clocked s = true) (halive : replyAlive s h = true) (homit : replyOmitted h r = false) :
    applyAll (replyEffs h r s) s = replied h r s := by
  simp only [replyEffs, replied, hclock, halive, homit, Bool.not_true, Bool.false_eq_true, if_false]
  cases h.interrupt <;>
    simp only [if_true, if_false, Bool.false_eq_true, List.cons_append, List.nil_append, applyAll_cons, applyAll_nil, applyEff_host,
      applyEff_started, applyEff_chute, applyEff_port]

theorem applyAll_replyEffs_omitted (hclock : clocked s = true) (halive : replyAlive s h = true) (homit : replyOmitted h r = true) :
    applyAll (replyEffs h r s) s = { s with
      started := dropStarted h s.started
      chutes := Tab.put Chute.reset s.chutes (chuteIx h.port h.chute) { s.chute (chuteIx h.port h.chute) with
        owed := (s.chute (chuteIx h.port h.chute)).owed - 1 } } := by
  simp only [replyEffs, hclock, halive, homit, Bool.not_true, Bool.false_eq_true, if_false, if_true]
  rfl

theorem applyAll_replyEffs_dropped (hclock : clocked s = true) (halive : replyAlive s h = false) :
    applyAll (replyEffs h r s) s = ({ s with started := dropStarted h s.started }.log 0x0300 (srcChute (chuteIx h.port h.chute))
      (toLE 4 h.seq.toNat ++ toLE 2 r.status)).bump (counterId (srcHub h.port) 3) 1 := by
  simp only [replyEffs, hclock, halive, Bool.not_true, Bool.not_false, Bool.false_eq_true, if_false, if_true]
  rfl

theorem afterReply_own (hown : h.partner = none) (hsingle : ∀ f ∈ s.twin.forwarded, f.hdr ≠ h)
    (hsignal : (h.signal && signals r.status) = false) : afterReply h r s = applyAll (replyEffs h r s) s := by
  rw [afterReply, complete_unsignalled hsignal, deliver_own hown hsingle]

/-- A release changes nothing that a reply depends on. -/
theorem Answerable.releasedHook (ha : Answerable s h) (k inc src : Nat) : Answerable (s.releasedHook k inc src) h := by
  obtain ⟨hclock, hown, hsingle, halive⟩ := ha
  simp only [State.releasedHook]
  split <;> exact ⟨hclock, hown, hsingle, halive⟩

theorem run_release (k inc src : Nat) (s : State) (hk : 64 ≤ k ∧ k < 4096) :
    applyAll (jobStep s (.release k inc src false)).1 s = s.releasedHook k inc src := by
  simp only [jobStep, State.releasedHook, List.singleton_append, applyAll_cons, applyEff_hook, hk, and_self, if_true]
  split <;> rfl

theorem jobStep_signalled (hsignal : h.signal = true) (hsignals : signals r.status = true) : jobStep s (.complete h r) =
    ([], [.release h.signalHook.toNat h.signalInc.toNat (srcPort h.port) false, .reply h r]) := by
  simp [jobStep, hsignal, hsignals]

/-- A command that signals: its hook is released, which serves no one, and then its reply is delivered. -/
theorem afterReply_signalled (hw : Tab.wf Hook.reset s.hooks = true) (hsignal : h.signal = true) (hsignals : signals r.status = true)
    (hk : 64 ≤ h.signalHook.toNat) (hnone : (s.hook h.signalHook.toNat).waiters = []) :
    afterReply h r s =
      let t := s.releasedHook h.signalHook.toNat h.signalInc.toNat (srcPort h.port)
      applyAll (deliver h r t) t := by
  have hhook : ((s.releasedHook h.signalHook.toNat h.signalInc.toNat (srcPort h.port)).hook h.signalHook.toNat).waiters = [] := by
    rw [hook_releasedHook s _ _ _ hw, hnone]
  obtain ⟨n, hfuel⟩ : ∃ n, jobFuel s 1 = n + 5 := ⟨jobFuel s 1 - 5, by unfold jobFuel; omega⟩
  have hcomplete : complete h r = jobs [.complete h r] := if_pos (by simp [hsignal, hsignals])
  rw [afterReply, hcomplete, jobs, List.length_singleton, hfuel]
  simp only [runJobs, applyAll_seq, Act.of_apply, applyAll_nil, jobStep_signalled hsignal hsignals, List.append_nil,
    run_release _ _ _ _ ⟨hk, h.signalHook.isLt⟩]
  simp [jobStep, runJobs, hhook]

end

/-! ### The bytes of a reply (R291) -/

theorem fieldLE_after {k o : Nat} (hk : k ≤ o) (v n : Nat) (bs : List Byte) : fieldLE (toLE k v ++ bs) o n = fieldLE bs (o - k) n := by
  rw [fieldLE, fieldLE, slice, slice, List.drop_append, List.drop_eq_nil_of_le (by rw [length_toLE]; exact hk), length_toLE, List.nil_append]

theorem fieldLE_front (n v : Nat) (bs : List Byte) : fieldLE (toLE n v ++ bs) 0 n = v % 256 ^ n := by
  rw [fieldLE, slice, List.drop_zero, List.take_append_of_le_length (length_toLE n v).ge, List.take_of_length_le (length_toLE n v).le,
    leNat_toLE]

theorem fieldLE_toLE (n v : Nat) : fieldLE (toLE n v) 0 n = v % 256 ^ n := by
  simpa using fieldLE_front n v []

theorem replyFlags_lt (phase : Bool) (port : PortId) (r : Reply) : replyFlags phase port r < 256 := by
  have hport := port.isLt
  have hb (b : Bool) : b2n b ≤ 1 := by cases b <;> decide
  have h1 := hb phase
  have h2 := hb (decide (0 < r.restarts))
  have h3 := hb r.late
  unfold replyFlags
  omega

theorem length_replyBytes (h : Hdr) (phase : Bool) (r : Reply) : (replyBytes h phase r).length = 32 := by
  simp [replyBytes]

/-- Settles O6: a reply by the cases of `replyEffs`, after the hook's release where the status signals (`afterReply_signalled`). -/
theorem commandCompletion : Obligations.CommandCompletion := by
  unfold Obligations.CommandCompletion
  refine ⟨⟨fun h r s ha homit hsignal => ?_, fun h r s hinv ha homit hsignal hsignals hk hnone => ?_, fun h r s ha homit hsignal => ?_,
    fun h r s hclock hown hsingle halive hsignal => ?_⟩, fun h phase r => ?_⟩
  · exact (afterReply_own ha.own ha.single hsignal).trans (applyAll_replyEffs_replied ha.clock ha.alive homit)
  · have ht := ha.releasedHook h.signalHook.toNat h.signalInc.toNat (srcPort h.port)
    rw [afterReply_signalled hinv.canonical.hooks hsignal hsignals hk hnone]
    dsimp only
    rw [deliver_own ht.own ht.single]
    exact applyAll_replyEffs_replied ht.clock ht.alive homit
  · exact (afterReply_own ha.own ha.single hsignal).trans (applyAll_replyEffs_omitted ha.clock ha.alive homit)
  · exact (afterReply_own hown hsingle hsignal).trans (applyAll_replyEffs_dropped hclock halive)
  · have hflags := replyFlags_lt phase h.port r
    have hchute := h.chute.isLt
    refine ⟨length_replyBytes h phase r, ?_⟩
    simp only [replyBytes, List.append_assoc, fieldLE_front, fieldLE_toLE, fieldLE_after, Nat.reduceLeDiff, Nat.reduceSub, Nat.sub_self,
      Nat.reducePow]
    refine ⟨?_, fun _ => ?_, ?_, ?_, ?_, ?_, fun _ => ?_, fun _ => ?_, fun _ => ?_, fun _ => ?_⟩
    all_goals refine Nat.mod_eq_of_lt ?_
    all_goals omega

end Sys2Proof.Machine
end

section
/-! Hook commands (R292, R295, R299, R300): what they do to a hook without waiters that can be served, and that a hook whose head waiter
could be served is served. -/
namespace Sys2Proof.Machine

/-! ### Activities by the writes they hold -/

/-- An activity whose writes are all of a kind. -/
def Act.Only (f : Eff → Bool) (a : Act) : Prop := ∀ s, (a s).all f = true

section
variable {f : Eff → Bool} {a b : Act}

theorem Act.Only.none : Act.none.Only f := fun _ => rfl

theorem Act.Only.seq (ha : a.Only f) (hb : b.Only f) : (Act.seq a b).Only f := fun s => by
  rw [Act.seq, List.all_append, ha, hb, Bool.and_true]

theorem Act.Only.mono {g : Eff → Bool} (h : a.Only f) (hfg : ∀ e, f e = true → g e = true) : a.Only g := fun s =>
  List.all_eq_true.2 fun e he => hfg e (List.all_eq_true.1 (h s) e he)

/-- What every write of the kind leaves, the activity leaves. -/
theorem Act.Only.leaves {α : Type} {g : State → α} (h : a.Only f) (hf : ∀ e, f e = true → ∀ s, g (applyEff s e) = g s) (s : State) :
    g (applyAll (a s) s) = g s :=
  applyAll_keeps_of (P := fun t => g t = g s) (a s) (fun e he t ht => (hf e (List.all_eq_true.1 (h s) e he) t).trans ht) s rfl
end

/-- The writes of a reply, once its hook is released. -/
def Eff.replies : Eff → Bool
  | .started .. | .chute .. | .host .. | .port .. | .ledger .. | .count .. | .twin .. | .link .. | .held .. | .outbox .. => true
  | _ => false

theorem Act.Sends.replies {a : Act} (h : a.Sends) : a.Only Eff.replies := Act.Only.mono h fun e he => by
  cases e with
  | link | count | held | outbox | twin => rfl
  | _ => cases he

theorem replyEffs_replies (h : Hdr) (r : Reply) : (replyEffs h r).Only Eff.replies := fun s => by
  unfold replyEffs
  extract_lets i c gone
  split
  · rfl
  · split
    · rfl
    · split
      · rfl
      · rw [List.all_append]
        split <;> rfl

theorem deliver_replies (h : Hdr) (r : Reply) : (deliver h r).Only Eff.replies := fun s => by
  unfold deliver
  split
  · exact Act.Only.seq (fun _ => rfl) (sendTwin_sends _ _ _).replies s
  · split
    · exact replyEffs_replies h r s
    · split
      · split
        · rfl
        · exact Act.Only.seq (fun _ => rfl) (replyEffs_replies h r) s
      · refine Act.Only.seq (fun _ => ?_) (replyEffs_replies h _) s
        rw [Act.of_apply, List.all_append]
        split <;> rfl

theorem Eff.replies_hooks (e : Eff) (he : e.replies = true) (s : State) : (applyEff s e).hooks = s.hooks := by
  cases e with
  | started | chute | host | port | ledger | twin | link | held | outbox => rfl
  | count id n =>
    rw [applyEff_count]
    obtain ⟨c, h | ⟨e, src, d, h⟩⟩ := s.bump_cases id n <;> exact h ▸ rfl
  | _ => cases he

theorem deliver_hooks (h : Hdr) (r : Reply) (s : State) : (applyAll (deliver h r s) s).hooks = s.hooks :=
  (deliver_replies h r).leaves Eff.replies_hooks s

theorem grant_hooks (k : Nat) (after : Word) (w : Waiter) (s t : State) : (applyAll (grant k after w s).1 t).hooks = t.hooks := by
  cases w with
  | packet | command | partner => rfl
  | record n r =>
    simp only [grant]
    split <;> rfl

/-! ### Waiters -/

/-- The waiter at the head of a hook's queue, if any, asks for more than the count. -/
def State.Short (s : State) (j : Nat) : Prop := ∀ w ∈ (s.hook j).waiters.head?, (s.hook j).count < w.amount

/-- The waiters of all hooks. -/
def State.waiting (s : State) : Nat := (s.hooks.map (fun x => x.2.waiters.length)).sum

section
variable {α : Type} (f : α → Nat) {d : α} (hd : f d = 0)
include hd

theorem Tab.sum_ins (t : Tab α) (k : Nat) (v : α) :
    ((Tab.ins t k v).map (fun x => f x.2)).sum + f (Tab.look d t k) = (t.map (fun x => f x.2)).sum + f v := by
  fun_induction Tab.ins t k v with
  | case1 => simp [Tab.look, hd]
  | case2 => simp [Tab.look]; omega
  | case3 i w t k v hne hlt => simp [Tab.look, hne, hlt, hd]; omega
  | case4 i w t k v hne hlt ih => simp [Tab.look, hne, hlt]; omega

theorem Tab.sum_drop (t : Tab α) (k : Nat) :
    ((Tab.drop t k).map (fun x => f x.2)).sum + f (Tab.look d t k) = (t.map (fun x => f x.2)).sum := by
  fun_induction Tab.drop t k with
  | case1 => simp [Tab.look, hd]
  | case2 => simp [Tab.look]; omega
  | case3 i w t k hne hlt => simp [Tab.look, hne, hlt, hd]
  | case4 i w t k hne hlt ih => simp [Tab.look, hne, hlt]; omega

/-- A sum over the entries of a table changes by the entry that is written. -/
theorem Tab.sum_put [DecidableEq α] (t : Tab α) (k : Nat) (v : α) :
    ((Tab.put d t k v).map (fun x => f x.2)).sum + f (Tab.look d t k) = (t.map (fun x => f x.2)).sum + f v := by
  unfold Tab.put
  split
  next hv => rw [hv, hd, Tab.sum_drop f hd, Nat.add_zero]
  next => exact Tab.sum_ins f hd t k v
end

theorem State.waiting_withHook (s : State) (k : Nat) (v : Hook) :
    (s.withHook k v).waiting + (s.hook k).waiters.length = s.waiting + v.waiters.length :=
  Tab.sum_put (fun x : Hook => x.waiters.length) rfl s.hooks k v

/-- A hook that holds anything is not the steward firmware's (R299). -/
theorem State.StewardHooks.range {s : State} (h : s.StewardHooks) {k : Nat} (hk : s.hook k ≠ Hook.reset) : 64 ≤ k ∧ k < 4096 :=
  (Tab.look_listed Hook.reset s.hooks k).elim (fun he => absurd he hk) (fun he => h _ he)

theorem applyEff_hook_in {k : Nat} (hk : 64 ≤ k ∧ k < 4096) (v : Hook) (s : State) : applyEff s (.hook k v) = s.withHook k v := if_pos hk

/-- A hook of the steward firmware stays as it is (R299). -/
theorem applyEff_hook_out {k : Nat} (hk : ¬ (64 ≤ k ∧ k < 4096)) (v : Hook) (s : State) : applyEff s (.hook k v) = s := if_neg hk

/-! ### Jobs -/

/-- The hook that a job serves or leads to. -/
def Job.hook? : Job → Option Nat
  | .release k _ _ _ | .serve k => some k
  | _ => none

/-- The jobs that one job leads to, itself among them, but for those of the waiters it serves. -/
def Job.weight : Job → Nat
  | .release .. => 3
  | .complete .. => 5
  | _ => 1

theorem Job.weight_pos (b : Job) : 1 ≤ b.weight := by cases b <;> simp [Job.weight]

theorem Job.weight_le (b : Job) : b.weight ≤ 5 := by cases b <;> simp [Job.weight]

/-- The jobs' weights and 6 for every waiter: the completion that serving it may lead to, and the next serving. -/
def load (l : List Job) (s : State) : Nat := (l.map Job.weight).sum + 6 * s.waiting

theorem load_append (front l : List Job) (s : State) : load (front ++ l) s = (front.map Job.weight).sum + load l s := by
  rw [load, load, List.map_append, List.sum_append, Nat.add_assoc]

theorem load_cons (b : Job) (l : List Job) (s : State) : load (b :: l) s = b.weight + load l s := load_append [b] l s

/-- Every hook whose head waiter could be served is about to be. -/
structure Serving (l : List Job) (s : State) : Prop where
  wf : Tab.wf Hook.reset s.hooks = true
  steward : s.StewardHooks
  short : ∀ j, (∃ b ∈ l, b.hook? = some j) ∨ s.Short j

section
variable {s t : State} {l : List Job}

theorem Serving.of_hooks (h : Serving l s) (heq : t.hooks = s.hooks) : Serving l t where
  wf := heq ▸ h.wf
  steward := fun x hx => h.steward x (heq ▸ hx)
  short := fun j => (h.short j).imp_right fun hs => by
    have hhook : t.hook j = s.hook j := congrArg (fun l => Tab.look Hook.reset l j) heq
    unfold State.Short
    rwa [hhook]

theorem State.waiting_of_hooks (heq : t.hooks = s.hooks) : t.waiting = s.waiting := by rw [State.waiting, State.waiting, heq]

theorem load_of_waiting (heq : t.waiting = s.waiting) (l : List Job) : load l t = load l s := by rw [load, load, heq]

/-- A job that serves no hook is over. -/
theorem Serving.tail {b : Job} (h : Serving (b :: l) s) (hb : ∀ j, b.hook? = some j → s.Short j) : Serving l s where
  wf := h.wf
  steward := h.steward
  short := fun j => by
    rcases h.short j with ⟨c, hc, hj⟩ | hs
    · rcases List.mem_cons.1 hc with rfl | hc
      · exact .inr (hb j hj)
      · exact .inl ⟨c, hc, hj⟩
    · exact .inr hs

theorem Serving.mono (h : Serving l s) {l' : List Job} (hl : ∀ b ∈ l, b ∈ l') : Serving l' s where
  wf := h.wf
  steward := h.steward
  short := fun j => (h.short j).imp_left fun ⟨b, hb, hj⟩ => ⟨b, hl b hb, hj⟩

theorem Serving.append (h : Serving l s) (front : List Job) : Serving (front ++ l) s := h.mono fun _ => List.mem_append_right _

/-- A hook is written and is to be served. -/
theorem Serving.withHook {b : Job} (h : Serving (b :: l) s) {k : Nat} (hb : b.hook? = none ∨ b.hook? = some k) (hk : 64 ≤ k ∧ k < 4096)
    (v : Hook) : Serving (.serve k :: l) (s.withHook k v) where
  wf := Tab.wf_put _ _ _ _ h.wf
  steward := fun x hx => (Tab.mem_put hx).elim (fun he => he ▸ hk) (h.steward x)
  short := fun j => by
    by_cases hj : j = k
    · exact .inl ⟨.serve k, List.mem_cons_self, hj ▸ rfl⟩
    · have hhook : (s.withHook k v).hook j = s.hook j := Tab.look_put_other _ _ _ h.wf hj
      rcases h.short j with ⟨c, hc, hcj⟩ | hs
      · rcases List.mem_cons.1 hc with rfl | hc
        · rcases hb with hb | hb <;> rw [hb] at hcj <;> simp_all
        · exact .inl ⟨c, List.mem_cons_of_mem _ hc, hcj⟩
      · right
        unfold State.Short
        rwa [hhook]

theorem Serving.releaseHook {b : Job} {k : Nat} (h : Serving (b :: l) s) (hb : b.hook? = some k) (c : Word) :
    Serving (.serve k :: l) (applyEff s (.hook k { s.hook k with count := c }))
      ∧ (applyEff s (.hook k { s.hook k with count := c })).waiting = s.waiting := by
  by_cases hk : 64 ≤ k ∧ k < 4096
  · have hsum := s.waiting_withHook k { s.hook k with count := c }
    rw [applyEff_hook_in hk]
    exact ⟨h.withHook (.inr hb) hk _, Nat.add_right_cancel hsum⟩
  · have hreset : s.hook k = Hook.reset := Decidable.byContradiction fun hne => hk (h.steward.range hne)
    rw [applyEff_hook_out hk]
    refine ⟨(h.tail fun j hj => ?_).append [.serve k], rfl⟩
    obtain rfl : k = j := Option.some.inj (hb.symm.trans hj)
    rw [State.Short, hreset]
    exact fun _ hw => nomatch hw

/-- A job leads to jobs of less load, and no hook is forgotten. -/
def Job.Leads (b : Job) (l : List Job) (s : State) : Prop :=
  Serving ((jobStep s b).2 ++ l) (applyAll (jobStep s b).1 s) ∧ load ((jobStep s b).2 ++ l) (applyAll (jobStep s b).1 s) < load (b :: l) s

theorem Serving.release {k inc src : Nat} {rec : Bool} (h : Serving (.release k inc src rec :: l) s) :
    (Job.release k inc src rec).Leads l s := by
  obtain ⟨hserving, hwaiting⟩ := h.releaseHook rfl (releasedCount (s.hook k).count inc)
  have hhooks : (applyAll (Machine.jobStep s (.release k inc src rec)).1 s).hooks =
      (applyEff s (.hook k { s.hook k with count := releasedCount (s.hook k).count inc })).hooks := by
    simp only [Machine.jobStep, List.singleton_append, applyAll_cons]
    split <;> rfl
  have hload := load_of_waiting ((State.waiting_of_hooks hhooks).trans hwaiting)
  refine ⟨(hserving.of_hooks hhooks).mono fun b hb => ?_, ?_⟩
  · simp only [Machine.jobStep, List.mem_append]
    exact (List.mem_cons.1 hb).imp (fun he => .inl (List.mem_singleton.2 he)) id
  · rw [load_append, load_cons, hload, Machine.jobStep]
    dsimp only
    split <;> simp [Job.weight]

theorem Serving.serve {k : Nat} (h : Serving (.serve k :: l) s) : (Job.serve k).Leads l s := by
  unfold Job.Leads
  simp only [Machine.jobStep]
  have hover (hs : s.Short k) : Serving ([] ++ l) s ∧ load ([] ++ l) s < load (.serve k :: l) s :=
    ⟨h.tail fun j hj => Option.some.inj hj ▸ hs, by simp [load_cons, Job.weight]⟩
  split
  next hnil => exact hover (by rw [State.Short, hnil]; exact fun _ hw => nomatch hw)
  next w ws hws =>
    split
    next hle =>
      have hk : 64 ≤ k ∧ k < 4096 := h.steward.range (by rintro he; rw [he] at hws; cases hws)
      let v : Hook := ⟨(s.hook k).count - w.amount, ws⟩
      have hhooks : (applyAll ([Eff.hook k v] ++ (grant k ((s.hook k).count - w.amount) w s).1) s).hooks = (s.withHook k v).hooks := by
        rw [List.singleton_append, applyAll_cons, applyEff_hook_in hk, grant_hooks]
      have hsum := s.waiting_withHook k v
      have hv : v.waiters.length = ws.length := rfl
      have hgrant : ((grant k ((s.hook k).count - w.amount) w s).2.map Job.weight).sum ≤ 5 := by
        cases w with
        | packet | partner | command => simp [grant, Job.weight]
        | record n r =>
          simp only [grant]
          split <;> simp
      rw [List.append_assoc]
      refine ⟨Serving.append ((h.withHook (.inr rfl) hk v).of_hooks hhooks) _, ?_⟩
      rw [hws, List.length_cons] at hsum
      rw [load_append, List.singleton_append, load_cons, load_cons, load_of_waiting (State.waiting_of_hooks hhooks), load, load]
      simp only [Job.weight]
      omega
    next hle =>
      refine hover fun w' hw' => ?_
      rw [hws] at hw'
      cases Option.some.inj hw'
      exact BitVec.not_le.1 hle

theorem Serving.jobStep {b : Job} (h : Serving (b :: l) s) : b.Leads l s := by
  cases b with
  | release k inc src rec => exact h.release
  | serve k => exact h.serve
  | record k inc src =>
    have hload : load (.record k inc src :: l) s = 1 + load l s := load_cons _ _ _
    exact ⟨(h.tail fun j hj => nomatch hj).of_hooks rfl, by rw [hload]; exact Nat.lt_add_of_pos_left Nat.one_pos⟩
  | complete c r =>
    refine ⟨(h.tail fun j hj => nomatch hj).append _, ?_⟩
    rw [load_append, load_cons, Machine.jobStep]
    dsimp only
    split <;> simp [Job.weight]
  | reply c r =>
    have hhooks := deliver_hooks c r s
    refine ⟨(h.tail fun j hj => nomatch hj).of_hooks hhooks, ?_⟩
    rw [load_append, load_cons, Machine.jobStep, load_of_waiting (State.waiting_of_hooks hhooks)]
    simp [Job.weight]

/-- With steps enough for the jobs' load no waiter is left that could be served. -/
theorem Serving.runJobs {n : Nat} (h : Serving l s) (hn : load l s ≤ n) : Serving [] (applyAll (runJobs n l s) s) := by
  induction n generalizing l s with
  | zero =>
    cases l with
    | nil => exact h
    | cons b l =>
      have hb := b.weight_pos
      simp only [load, List.map_cons, List.sum_cons] at hn
      omega
  | succ n ih =>
    cases l with
    | nil => exact h
    | cons b l =>
      obtain ⟨hserving, hload⟩ := h.jobStep
      rw [Machine.runJobs, applyAll_seq, Act.of_apply]
      exact ih hserving (by omega)

theorem Serving.jobs (h : Serving l s) : Serving [] (applyAll (jobs l s) s) := by
  refine h.runJobs ?_
  have hweights : (l.map Job.weight).sum ≤ l.length * 5 := by
    simpa using List.sum_le_card_nsmul (l.map Job.weight) 5 (by simpa using fun b _ => b.weight_le)
  have hfuel : jobFuel s l.length = 8 * (l.length + 2 + s.started.length + s.waiting) := rfl
  rw [hfuel, load]
  omega

theorem Serving.complete (h : Serving [] s) (c : Hdr) (r : Reply) : Serving [] (applyAll (complete c r s) s) := by
  unfold Machine.complete
  split
  · exact (h.append [.complete c r]).jobs
  · exact h.of_hooks (deliver_hooks c r s)

/-- A hook is written, and its waiters are served. -/
theorem Serving.write (h : Serving [] s) {k : Nat} (hk : 64 ≤ k ∧ k < 4096) (v : Hook) :
    Serving [] (applyAll (Act.seq (Act.of [.hook k v]) (Machine.jobs [.serve k]) s) s) := by
  rw [applyAll_seq, Act.of_apply, applyAll_cons, applyAll_nil, applyEff_hook_in hk]
  exact ((h.append [.record 0 0 0]).withHook (.inl rfl) hk v).jobs

/-! ### Hook commands -/

theorem Serving.hookCommand {a : Act} (c : Hdr) (k : Half) (ha : 64 ≤ k.toNat ∧ k.toNat < 4096 → a.Keeps (Serving [])) :
    (hookCommand c k a).Keeps (Serving []) := fun s h => by
  unfold Machine.hookCommand
  split
  · exact h.complete c _
  next hk => exact ha (by omega) s h

theorem Serving.command {a : Act} (c : Hdr) (inRecovery : Bool) (ha : a.Keeps (Serving [])) :
    (command c inRecovery a).Keeps (Serving []) := fun s h => by
  unfold Machine.command
  split
  · exact h
  · split
    · exact h.complete c _
    · split
      · exact h.complete c _
      · exact ha s h

theorem Serving.exec_hookSet (h : Serving [] s) (c : Hdr) (k : Half) (v : Word) (ht : exec (.hookSet c k v) s = .next t) : Serving [] t :=
  Host.Outcome.next.inj ht ▸ Serving.command c false (Serving.hookCommand c k fun hk u hu => by
    rw [applyAll_seq]
    exact (hu.write hk _).complete c _) s h

theorem Serving.exec_hookRelease (h : Serving [] s) (c : Hdr) (k : Half) (v : Word) (ht : exec (.hookRelease c k v) s = .next t) :
    Serving [] t :=
  Host.Outcome.next.inj ht ▸ Serving.command c false (Serving.hookCommand c k fun hk u hu => by
    split
    · exact hu.complete c _
    · have hwritten := hu.write hk { u.hook k.toNat with count := releasedCount (u.hook k.toNat).count v.toNat }
      rw [applyAll_seq] at hwritten
      simp only [Act.all_cons, Act.all_nil, applyAll_seq, Act.none_apply, applyAll_nil]
      exact hwritten.complete c _) s h

theorem Serving.exec_hookAcquire (h : Serving [] s) (c : Hdr) (k : Half) (v : Word) (ht : exec (.hookAcquire c k v) s = .next t) :
    Serving [] t :=
  Host.Outcome.next.inj ht ▸ Serving.command c false (Serving.hookCommand c k fun hk u hu => by
    split
    · exact hu.complete c _
    · exact hu.write hk _) s h
end

/-- Settles O9. Each command writes one hook and carries out its serving, which ends with no waiter that could be served
(`Serving.runJobs`). -/
theorem headWaiterServed : Obligations.HeadWaiterServed := by
  unfold Obligations.HeadWaiterServed
  intro h k v c s t hinv hshort hc hexec j
  have hs : Serving [] s := ⟨hinv.canonical.hooks, hinv.steward, fun j => .inr (hshort j)⟩
  have ht : Serving [] t := by
    rcases hc with rfl | rfl | rfl
    · exact hs.exec_hookSet h k v hexec
    · exact hs.exec_hookRelease h k v hexec
    · exact hs.exec_hookAcquire h k v hexec
  exact (ht.short j).resolve_left fun ⟨_, hb, _⟩ => nomatch hb

section
variable {s : State} {k : Half} {h : Hdr}

theorem hookCommand_in (hlo : 64 ≤ k.toNat) (hhi : k.toNat ≤ 4095) (a : Act) : hookCommand h k a = a := if_neg (by omega)

theorem run_hookCommand (hs : Serves s false) (hlo : 64 ≤ k.toNat) (hhi : k.toNat ≤ 4095) (a : Act) :
    (command h false (hookCommand h k a)).run s = .next (applyAll (a s) s) := by
  rw [Act.run_eq, command_of_serves hs, hookCommand_in hlo hhi]

theorem run_hookCommand_wrong (hs : Serves s false) (hk : k.toNat < 64 ∨ 4095 < k.toNat) (a : Act) :
    (command h false (hookCommand h k a)).run s = .next (afterReply h (Reply.badField 32) s) := by
  rw [Act.run_eq, command_of_serves hs, hookCommand, if_pos hk, applyAll_badField]

theorem State.hook_withHook (hw : Tab.wf Hook.reset s.hooks = true) (n : Nat) (v : Hook) : (s.withHook n v).hook n = v :=
  Tab.look_put_self _ _ _ _ hw

/-- A hook is written that holds no waiter who could be served. -/
theorem applyAll_write_short (hw : Tab.wf Hook.reset s.hooks = true) {n : Nat} (hn : 64 ≤ n ∧ n < 4096) {v : Hook}
    (hshort : ∀ w ∈ v.waiters.head?, v.count < w.amount) :
    applyAll (Act.seq (Act.of [.hook n v]) (jobs [.serve n]) s) s = s.withHook n v := by
  rw [applyAll_seq, Act.of_apply, applyAll_cons, applyAll_nil, applyEff_hook_in hn]
  refine applyAll_serve_short ?_
  rw [State.hook_withHook hw]
  exact fun w hmem => BitVec.not_le.2 (hshort w hmem)

/-- A command that waits alone is served at once where the count holds its value: the hook is left without it, and it completes. -/
theorem applyAll_acquireHook_granted {n : Nat} (hw : Tab.wf Hook.reset s.hooks = true) (hn : 64 ≤ n ∧ n < 4096) (hsignal : h.signal = false)
    (hnone : (s.hook n).waiters = []) {v : Word} (hv : v ≤ (s.hook n).count) : applyAll (acquireHook n (.command h v) s) s =
      afterReply h (Reply.done ((s.hook n).count - v).toNat 0 0) (s.withHook n ⟨(s.hook n).count - v, []⟩) := by
  let joined := s.withHook n ⟨(s.hook n).count, [.command h v]⟩
  let granted := s.withHook n ⟨(s.hook n).count - v, []⟩
  let r := Reply.done ((s.hook n).count - v).toNat 0 0
  have hjoined : joined.hook n = ⟨(s.hook n).count, [.command h v]⟩ := State.hook_withHook hw _ _
  have hgranted : applyEff joined (.hook n ⟨(s.hook n).count - v, []⟩) = granted := by
    rw [applyEff_hook_in hn]
    exact congrArg (fun t => { s with hooks := t }) (Tab.put_put (d := Hook.reset) (v := ⟨(s.hook n).count, [.command h v]⟩) (by simp [Hook.reset]) s.hooks n _)
  have hserve : jobStep joined (.serve n) = ([.hook n ⟨(s.hook n).count - v, []⟩], [.complete h r, .serve n]) := by
    simp only [jobStep, hjoined, Waiter.amount, hv, if_true, grant, List.append_nil, List.singleton_append]
    rfl
  have hcomplete (t : State) : jobStep t (.complete h r) = ([], [.reply h r]) := by simp [jobStep, hsignal]
  have hreply : afterReply h r granted = applyAll (deliver h r granted) granted := by
    rw [afterReply, complete_unsignalled (by simp [hsignal])]
  have hempty : ((applyAll (deliver h r granted) granted).hook n).waiters = [] := by
    rw [State.hook, deliver_hooks]
    exact congrArg Hook.waiters (State.hook_withHook hw n _)
  obtain ⟨f, hfuel⟩ : ∃ f, jobFuel joined 1 = f + 5 := ⟨jobFuel joined 1 - 5, by unfold jobFuel; omega⟩
  rw [acquireHook, applyAll_seq, Act.of_apply, applyAll_cons, applyAll_nil, applyEff_hook_in hn, hnone, List.nil_append, hreply]
  show applyAll (jobs [.serve n] joined) joined = _
  rw [jobs, List.length_singleton, hfuel, runJobs, applyAll_seq, hserve, Act.of_apply, applyAll_cons, applyAll_nil, hgranted]
  simp only [List.append_nil, runJobs, applyAll_seq, hcomplete, Act.of_apply, applyAll_nil, List.singleton_append]
  simp [jobStep, hempty, runJobs]
end

theorem toNat_releasedCount (c : Word) (i : Nat) : (releasedCount c i).toNat = min (c.toNat + i) 0xFFFFFFFF := by
  rw [releasedCount, BitVec.toNat_ofNat]
  omega

/-- Settles O8, each command by its write of the hook (`applyAll_write_short`, `applyAll_acquireHook_granted`). -/
theorem hookCommands : Obligations.HookCommands := by
  unfold Obligations.HookCommands
  refine ⟨fun h k s hs hk => ?_, fun h k v s hinv hs hlo hhi hnone => ?_, fun h k i s hinv hs hlo hhi hi hnone => ?_,
    fun h k v s hinv hs hlo hhi hv hsignal hnone hle => ?_, fun h k v s hinv hs hlo hhi hv hwaits hhead => ?_, fun h k v s hs hk => ?_⟩
  · show (command h false _).run s = _
    rw [Act.run_eq, command_of_serves hs, if_neg (by omega), applyAll_done3]
  · refine (run_hookCommand hs hlo hhi _).trans ?_
    rw [applyAll_seq, setHook]
    dsimp only
    rw [hnone, applyAll_write_short hinv.canonical.hooks (by omega) (by simp), applyAll_done3]
  · have hwritten := applyAll_write_short (v := { s.hook k.toNat with count := releasedCount (s.hook k.toNat).count i.toNat })
      hinv.canonical.hooks (n := k.toNat) (by omega) (by simp [hnone])
    dsimp only at hwritten
    rw [applyAll_seq, hnone] at hwritten
    refine (run_hookCommand hs hlo hhi _).trans ?_
    rw [if_neg hi]
    simp only [Act.all_cons, Act.all_nil, applyAll_seq, Act.none_apply, applyAll_nil, hnone, hwritten, State.hook_withHook hinv.canonical.hooks,
      toNat_releasedCount, applyAll_complete, overflows, decide_eq_true_eq]
    rfl
  · refine (run_hookCommand hs hlo hhi _).trans ?_
    rw [if_neg hv, applyAll_acquireHook_granted hinv.canonical.hooks (by omega) hsignal hnone hle]
  · refine (run_hookCommand hs hlo hhi _).trans ?_
    rw [if_neg hv, acquireHook]
    refine congrArg _ (applyAll_write_short hinv.canonical.hooks (by omega) fun w hw => ?_)
    cases hws : (s.hook k.toNat).waiters with
    | nil =>
      rw [hws] at hw
      cases Option.some.inj hw
      exact hwaits.resolve_right (fun hne => hne hws)
    | cons x xs =>
      rw [hws] at hw
      exact hhead w (by rw [hws]; exact hw)
  · exact ⟨run_hookCommand_wrong hs hk _, run_hookCommand_wrong hs hk _, run_hookCommand_wrong hs hk _⟩

end Sys2Proof.Machine
end

section
/-! Reports (R292, R293, R379, R402, R430) and the ledger (R432 to R435). -/
namespace Sys2Proof.Machine

/-! ### Reports -/

section
variable {h : Hdr} {s : State} {inRecovery : Bool}

/-- Bytes for the host of this device's packet, while the DMA of its port runs. -/
theorem applyAll_toHost (hdma : dmaStopped s h = false) (hown : h.partner = none) (a : Nat) (bs : List Byte) :
    applyAll (toHost h a bs s) s = s.withHost h.port a bs := by
  cases bs with
  | nil => simp [toHost, State.withHost, putHost]
  | cons b bs =>
    simp only [toHost, hdma, hown, Option.isSome_none, List.isEmpty_cons, Bool.or_false, Bool.false_eq_true, if_false]
    rfl

theorem run_hostCommand (hs : ServesHost s h inRecovery) (a : Act) : (hostCommand h inRecovery a).run s = .next (applyAll (a s) s) := by
  rw [Act.run_eq, hostCommand_of_servesHost hs]

/-- Data and then a result. -/
theorem applyAll_toHost_done3 (hs : ServesHost s h inRecovery) (hown : h.partner = none) (a : Nat) (bs : List Byte) (w0 w1 w2 : Nat) :
    applyAll (Act.seq (toHost h a bs) (done3 h w0 w1 w2) s) s = afterReply h (Reply.done w0 w1 w2) (s.withHost h.port a bs) := by
  rw [applyAll_seq, applyAll_toHost hs.dma hown, applyAll_done3]
end

/-- Settles O10. -/
theorem reportsAnswer : Obligations.ReportsAnswer := by
  unfold Obligations.ReportsAnswer
  refine ⟨fun h s hs => ?_, fun h s hs hown => ⟨fun a => ?_, fun a cap hcap => ?_, fun a cap nonce hcap => ?_, fun a cap nonce hcap => ⟨?_, ?_⟩⟩⟩
  · show (command h true _).run s = _
    rw [Act.run_eq, command_of_serves hs, applyAll_finish]
  · exact (run_hostCommand hs _).trans (congrArg _ (applyAll_toHost_done3 hs hown _ _ _ _ _))
  · refine (run_hostCommand hs _).trans ?_
    rw [if_neg (Nat.not_lt.2 hcap), applyAll_toHost_done3 hs hown]
  · refine (run_hostCommand hs _).trans ?_
    rw [if_neg (Nat.not_lt.2 hcap), applyAll_toHost_done3 hs hown]
  · refine (run_hostCommand hs _).trans ?_
    rw [if_pos hcap]
    rfl
  · refine (run_hostCommand hs _).trans ?_
    rw [if_pos (by omega)]
    rfl

/-! ### Serial-number order (R435) -/

theorem seqEarlier_iff (a b : Word) : seqEarlier a b = true ↔ a ≠ b ∧ (b - a).toNat < 2 ^ 31 := by
  have hsub : (b.toNat + 2 ^ 32 - a.toNat % 2 ^ 32) % 2 ^ 32 = (b - a).toNat := by
    rw [BitVec.toNat_sub]
    omega
  have hne : a.toNat % 2 ^ 32 ≠ b.toNat % 2 ^ 32 ↔ a ≠ b := by
    rw [Nat.mod_eq_of_lt a.isLt, Nat.mod_eq_of_lt b.isLt, ne_eq, BitVec.toNat_inj]
  simp only [seqEarlier, earlier, hsub, Bool.and_eq_true, bne_iff_ne, decide_eq_true_eq, hne, Nat.reduceSub]

/-- Of the two distances between different numbers one is below 2^31, or both are 2^31. -/
theorem toNat_sub_swap {a b : Word} (h : a ≠ b) : (b - a).toNat + (a - b).toNat = 2 ^ 32 := by
  bv_omega

/-! ### Records (R432, R433) -/

theorem length_ledgerData (d : List Byte) : (ledgerData d).length = 24 := by
  simp [ledgerData, padTo]
  omega

/-- The data of a record stand at its front, and the rest is 0. -/
theorem ledgerData_eq {d : List Byte} (hd : d.length ≤ 24) : ledgerData d = d ++ List.replicate (24 - d.length) 0 := by
  rw [ledgerData, padTo, List.take_of_length_le (by simp; omega)]

theorem length_recordBytes {r : LedgerRec} (h : r.data.length = 24) : (recordBytes r).length = 32 := by
  simp [recordBytes, h]

theorem recordBytes_data (r : LedgerRec) : ∃ head : List Byte, head.length = 8 ∧ recordBytes r = head ++ r.data :=
  ⟨toLE 4 r.seq.toNat ++ toLE 2 r.event.toNat ++ toLE 2 r.source.toNat, by simp, rfl⟩

theorem slice_append_right (l m : List Byte) (o n : Nat) : slice (l ++ m) (l.length + o) n = slice m o n := by
  rw [slice, slice, List.drop_append, List.drop_eq_nil_of_le (Nat.le_add_right _ _), List.nil_append, Nat.add_sub_cancel_left]

theorem slice_append_left (l m : List Byte) : slice (l ++ m) 0 l.length = l := by
  rw [slice, List.drop_zero, List.take_left]

theorem log_record (s : State) {event source : Nat} {d : List Byte} (hevent : event < 2 ^ 16) (hsource : source < 2 ^ 16)
    (hd : d.length ≤ 24) : ∃ r, (s.log event source d).ledger = (r :: s.ledger).take 16384 ∧ r.seq = s.ledgerNext
      ∧ (recordBytes r).length = 32 ∧ fieldLE (recordBytes r) 0 4 = s.ledgerNext.toNat ∧ fieldLE (recordBytes r) 4 2 = event
      ∧ fieldLE (recordBytes r) 6 2 = source ∧ slice (recordBytes r) 8 d.length = d
      ∧ allZero (slice (recordBytes r) (8 + d.length) (24 - d.length)) = true := by
  refine ⟨⟨s.ledgerNext, BitVec.ofNat 16 event, BitVec.ofNat 16 source, ledgerData d⟩, rfl, rfl,
    length_recordBytes (length_ledgerData d), ?_, ?_, ?_, ?_, ?_⟩
  · simp only [recordBytes, List.append_assoc, fieldLE_front]
    exact Nat.mod_eq_of_lt s.ledgerNext.isLt
  · simp only [recordBytes, List.append_assoc, fieldLE_after, fieldLE_front, Nat.reduceLeDiff, Nat.sub_self, BitVec.toNat_ofNat]
    omega
  · simp only [recordBytes, List.append_assoc, fieldLE_after, fieldLE_front, Nat.reduceLeDiff, Nat.reduceSub, Nat.sub_self,
      BitVec.toNat_ofNat]
    omega
  · obtain ⟨head, hlen, heq⟩ := recordBytes_data ⟨s.ledgerNext, BitVec.ofNat 16 event, BitVec.ofNat 16 source, ledgerData d⟩
    have hslice := slice_append_right head (d ++ List.replicate (24 - d.length) 0) 0 d.length
    rw [heq, ledgerData_eq hd]
    rwa [hlen, slice_append_left] at hslice
  · obtain ⟨head, hlen, heq⟩ := recordBytes_data ⟨s.ledgerNext, BitVec.ofNat 16 event, BitVec.ofNat 16 source, ledgerData d⟩
    have hslice := slice_append_right (head ++ d) (List.replicate (24 - d.length) 0) 0 (24 - d.length)
    rw [List.length_append, hlen, List.append_assoc, Nat.add_zero] at hslice
    rw [heq, ledgerData_eq hd, hslice]
    simp [allZero, slice]

/-! ### LEDGER_READ (R434) -/

/-- Where a copy from a number on starts, and how many records it holds. -/
def copyStart (s : State) (first : Word) : Word := if first ≠ oldest s ∧ (oldest s - first).toNat < 2 ^ 31 then oldest s else first
def copyCount (s : State) (first : Word) (count : Nat) : Nat := min count ((newest s - copyStart s first).toNat + 1)

/-- A ledger has records for a copy: from a held one, and up to the newest. -/
theorem copy_held {s : State} {first : Word} (hheld : s.ledger ≠ []) (hmax : s.ledger.length ≤ 16384)
    (hnewer : ¬ (newest s ≠ first ∧ (first - newest s).toNat < 2 ^ 31)) (hfar : (first - newest s).toNat ≠ 2 ^ 31) (count : Nat) :
    (copyStart s first - oldest s).toNat + copyCount s first count ≤ s.ledger.length := by
  have hpos := List.length_pos_iff.2 hheld
  have hspan : (copyStart s first - oldest s).toNat + ((newest s - copyStart s first).toNat + 1) = s.ledger.length := by
    rw [copyStart]
    split
    all_goals
      simp only [newest, oldest] at *
      bv_omega
  rw [copyCount]
  omega

section
variable {s : State} {start : Word} {n : Nat} (hlen : (start - oldest s).toNat + n ≤ s.ledger.length)
include hlen

theorem length_ledgerSlice : (ledgerSlice s start n).length = n := by
  rw [ledgerSlice, List.length_take, List.length_drop, List.length_reverse]
  omega

/-- Held records from a sequence number on carry the numbers from there. -/
theorem ledgerSlice_getElem (hrec : s.Recorded) {i : Nat} {r : LedgerRec} (hr : (ledgerSlice s start n)[i]? = some r) :
    r ∈ s.ledger ∧ r.seq = start + BitVec.ofNat 32 i := by
  obtain ⟨hmax, hseq⟩ := hrec
  have hi : i < n := by
    have hlt := (List.getElem?_eq_some_iff.1 hr).1
    rwa [length_ledgerSlice hlen] at hlt
  rw [ledgerSlice, List.getElem?_take_of_lt hi, List.getElem?_drop, List.getElem?_reverse (by omega)] at hr
  refine ⟨List.mem_of_getElem? hr, (hseq _ _ hr).trans ?_⟩
  simp only [oldest] at hlen ⊢
  generalize s.ledger.length = len at hlen hmax
  bv_omega
end

section
variable {s : State} {first count : Word}

/-- The records that a LEDGER_READ asks for: none, or those from a held one up to the newest. -/
theorem ledgerSpan_none (h : s.ledger = [] ∨ newest s ≠ first ∧ (first - newest s).toNat < 2 ^ 31) (n : Nat) :
    ledgerSpan s first n = (s.ledgerNext, 0) := by
  refine if_pos ?_
  rw [Bool.or_eq_true, seqEarlier_iff, List.isEmpty_iff]
  exact h

theorem ledgerSpan_some (h : ¬ (s.ledger = [] ∨ newest s ≠ first ∧ (first - newest s).toNat < 2 ^ 31)) (n : Nat) :
    ledgerSpan s first n = (copyStart s first, copyCount s first n) := by
  rw [ledgerSpan, if_neg (by rwa [Bool.or_eq_true, seqEarlier_iff, List.isEmpty_iff])]
  simp only [seqEarlier_iff]
  rfl

theorem exec_ledgerRead {h : Hdr} {a : Dword} (hs : ServesHost s h true) (hown : h.partner = none)
    (hcount : 1 ≤ count.toNat) (hmax : count.toNat ≤ 16384) : exec (.ledgerRead h first count a) s =
      let x := ledgerSpan s first count.toNat
      let rs := ledgerSlice s x.1 x.2
      .next (afterReply h (Reply.done rs.length x.1.toNat (oldest s).toNat) (s.withHost h.port a.toNat (rs.flatMap recordBytes))) := by
  have hin : ¬ (count = 0 ∨ 16384 < count.toNat) := by
    rintro (rfl | hgt)
    · exact absurd hcount (by decide)
    · omega
  refine (run_hostCommand hs _).trans ?_
  rw [if_neg hin]
  exact congrArg _ (applyAll_toHost_done3 hs hown _ _ _ _ _)

end

/-- Settles O11: the span of a copy lies in what is held (`start_held`), whose records are numbered without gaps. -/
theorem ledger : Obligations.Ledger := by
  unfold Obligations.Ledger
  refine ⟨fun h first count a s hs hown hinv hcount hmax hfar => ⟨fun hnone => ?_, fun hsome => ?_⟩,
    fun s event source d hevent hsource hd => ?_, fun a b => ?_⟩
  · rw [exec_ledgerRead hs hown hcount hmax, ledgerSpan_none hnone]
    rfl
  · obtain ⟨hheld, hnewer⟩ := not_or.1 hsome
    have hcopy := copy_held hheld hinv.recorded.1 hnewer hfar count.toNat
    refine ⟨ledgerSlice s (copyStart s first) (copyCount s first count.toNat), length_ledgerSlice hcopy,
      fun i r hr => ledgerSlice_getElem hcopy hinv.recorded hr, ?_⟩
    rw [exec_ledgerRead hs hown hcount hmax, ledgerSpan_some hsome]
    dsimp only
    rw [length_ledgerSlice hcopy]
    rfl
  · exact ⟨rfl, log_record s hevent hsource hd, rfl, rfl, rfl⟩
  · refine ⟨seqEarlier_iff a b, fun hab => ?_, fun hne hfar => ?_⟩
    · obtain ⟨hne, hlt⟩ := (seqEarlier_iff a b).1 hab
      have hswap := toNat_sub_swap hne
      exact Bool.eq_false_iff.2 fun hba => by
        have hlt' := ((seqEarlier_iff b a).1 hba).2
        omega
    · have hswap := toNat_sub_swap hne
      rcases Nat.lt_or_ge (b - a).toNat (2 ^ 31) with hlt | hge
      · exact .inl ((seqEarlier_iff a b).2 ⟨hne, hlt⟩)
      · exact .inr ((seqEarlier_iff b a).2 ⟨Ne.symm hne, by omega⟩)

end Sys2Proof.Machine
end

section
/-! Counters (R410, R437, R439): increments, the counts of waves and holds, COUNTER_READ and COUNTER_CLEAR. -/
namespace Sys2Proof.Machine

/-! ### Increments -/

/-- A counter after an increment (R439). -/
def Counter.plus (c : Counter) (n : Nat) : Counter := if c.value + n ≤ counterMax then ⟨c.value + n, c.sat⟩ else ⟨counterMax, true⟩

theorem Counter.plus_fits {c : Counter} {n : Nat} (h : c.value + n ≤ counterMax) : c.plus n = ⟨c.value + n, c.sat⟩ := if_pos h
theorem Counter.plus_sticks {c : Counter} {n : Nat} (h : ¬ c.value + n ≤ counterMax) : c.plus n = ⟨counterMax, true⟩ := if_neg h

theorem counterNow_eq (s : State) (id : Nat) : counterNow s id = (s.counter id).plus (activityOf s id) := rfl

theorem State.counter_withCounter {s : State} (hw : Tab.wf Counter.reset s.counters = true) (id j : Nat) (v : Counter) :
    (s.withCounter id v).counter j = if j = id then v else s.counter j := Tab.look_put _ _ _ _ _ hw

/-- An increment writes a record only where it saturates the counter for the first time. -/
theorem State.bump_plus (s : State) (id n : Nat) :
    s.bump id n = s.withCounter id ((s.counter id).plus n)
      ∨ ((s.counter id).sat = false ∧ ((s.counter id).plus n).sat = true
        ∧ s.bump id n = (s.withCounter id ((s.counter id).plus n)).log 0x0004 (id / 65536) (toLE 4 id)) := by
  by_cases h : (s.counter id).value + n ≤ counterMax
  · rw [Counter.plus_fits h]
    exact .inl (State.bump_fits h)
  · rw [Counter.plus_sticks h]
    cases hsat : (s.counter id).sat
    · exact .inr ⟨rfl, rfl, State.bump_saturates h hsat⟩
    · exact .inl (State.bump_sticks h hsat)

/-! ### Several increments -/

/-- A state without its counters and its ledger. -/
def State.beyondCounters (s : State) : State :=
  { s with
    counters := []
    ledger := []
    ledgerNext := 0 }

theorem State.eq_of_beyondCounters {s t : State} (h : t.beyondCounters = s.beyondCounters) :
    t = { s with
      counters := t.counters
      ledger := t.ledger
      ledgerNext := t.ledgerNext } :=
  congrArg (fun u : State => { u with
    counters := t.counters
    ledger := t.ledger
    ledgerNext := t.ledgerNext }) h

theorem State.beyondCounters_log (s : State) (event source : Nat) (d : List Byte) : (s.log event source d).beyondCounters = s.beyondCounters :=
  rfl

/-- The counters of `t` are `g`, and nothing else changes from `s` but the ledger, and that only where a counter has saturated. -/
structure CountersAre (s t : State) (g : Nat → Counter) : Prop where
  wf : Tab.wf Counter.reset t.counters = true
  rest : t.beyondCounters = s.beyondCounters
  counter : ∀ id, t.counter id = g id
  ledger : (∀ id, (g id).sat = (s.counter id).sat) → t.ledger = s.ledger ∧ t.ledgerNext = s.ledgerNext

theorem countersAre_bump {s : State} (hw : Tab.wf Counter.reset s.counters = true) (id n : Nat) :
    CountersAre s (s.bump id n) (fun j => if j = id then (s.counter id).plus n else s.counter j) := by
  have hwf : Tab.wf Counter.reset (s.withCounter id ((s.counter id).plus n)).counters = true := Tab.wf_put _ _ _ _ hw
  have hcounter := fun j => State.counter_withCounter hw id j ((s.counter id).plus n)
  rcases s.bump_plus id n with hbump | ⟨hsat, hsat', hbump⟩
  · rw [hbump]
    exact ⟨hwf, rfl, hcounter, fun _ => ⟨rfl, rfl⟩⟩
  · rw [hbump]
    refine ⟨hwf, State.beyondCounters_log _ _ _ _, hcounter, fun hall => ?_⟩
    have hid := hall id
    rw [if_pos rfl, hsat, hsat'] at hid
    cases hid

/-- Different counters are incremented one after another. -/
theorem countersAre_counts (f : Nat → Nat) {l : List Nat} (hl : l.Nodup) {s : State} (hw : Tab.wf Counter.reset s.counters = true) :
    CountersAre s (applyAll (l.map fun id => .count id (f id)) s)
      (fun id => if id ∈ l then (s.counter id).plus (f id) else s.counter id) := by
  induction l generalizing s with
  | nil => exact ⟨hw, rfl, fun _ => rfl, fun _ => ⟨rfl, rfl⟩⟩
  | cons k l ih =>
    obtain ⟨hk, hl⟩ := List.nodup_cons.1 hl
    have hfirst := countersAre_bump hw k (f k)
    have hrest := ih hl hfirst.wf
    have hcounter (id : Nat) : (if id ∈ l then ((s.bump k (f k)).counter id).plus (f id) else (s.bump k (f k)).counter id) =
        if id ∈ k :: l then (s.counter id).plus (f id) else s.counter id := by
      simp only [hfirst.counter, List.mem_cons]
      by_cases hid : id = k
      · subst hid
        simp [hk]
      · simp [hid]
    rw [List.map_cons, applyAll_cons, applyEff_count]
    refine ⟨hrest.wf, hrest.rest.trans hfirst.rest, fun id => (hrest.counter id).trans (hcounter id), fun hall => ?_⟩
    have hsame (id : Nat) : ((s.bump k (f k)).counter id).sat = (s.counter id).sat := by
      rw [hfirst.counter]
      split
      next hid =>
        have hid' := hall k
        rw [if_pos List.mem_cons_self] at hid'
        exact hid ▸ hid'
      next => rfl
    obtain ⟨hledger, hnext⟩ := hfirst.ledger fun id => hfirst.counter id ▸ hsame id
    obtain ⟨hledger', hnext'⟩ := hrest.ledger fun id => (congrArg Counter.sat (hcounter id)).trans ((hall id).trans (hsame id).symm)
    exact ⟨hledger'.trans hledger, hnext'.trans hnext⟩

/-- Counters are cleared. -/
theorem applyAll_clears (l : List Nat) {s : State} (hw : Tab.wf Counter.reset s.counters = true) :
    applyAll (l.map fun id => .clearCounter id) s = { s with counters := (applyAll (l.map fun id => .clearCounter id) s).counters }
      ∧ ∀ id, (applyAll (l.map fun id => .clearCounter id) s).counter id = if id ∈ l then Counter.reset else s.counter id := by
  induction l generalizing s with
  | nil => exact ⟨rfl, fun _ => rfl⟩
  | cons k l ih =>
    obtain ⟨hrest, hcounter⟩ := ih (s := s.withCounter k Counter.reset) (Tab.wf_put _ s.counters k Counter.reset hw)
    rw [List.map_cons, applyAll_cons, applyEff_clearCounter]
    refine ⟨hrest, fun id => (hcounter id).trans ?_⟩
    rw [State.counter_withCounter hw]
    by_cases hid : id = k <;> simp [hid]

/-! ### Activity counters (R438, R440) -/

theorem counterSpan_le (src : Nat) : counterSpan src ≤ 32768 := by
  unfold counterSpan
  extract_lets i
  split
  all_goals first | split <;> omega | omega

/-- The sources are listed in ascending order. -/
theorem nodup_counterSources : counterSources.Nodup := by
  have hascending : counterSources.IsChain (· < ·) := by decide +kernel
  exact hascending.pairwise.imp Nat.ne_of_lt

theorem nodup_activityIds : activityIds.Nodup := by
  refine List.nodup_flatMap.2 ⟨fun src _ => (List.Nodup.map (fun a b hab => Nat.add_left_cancel hab) List.nodup_range).filter _, ?_⟩
  refine (nodup_counterSources.filter _).imp fun {a b} hab => ?_
  refine List.disjoint_left.2 fun id ha hb => hab ?_
  obtain ⟨m, hm, hma⟩ := List.mem_map.1 (List.mem_filter.1 ha).1
  obtain ⟨n, hn, hnb⟩ := List.mem_map.1 (List.mem_filter.1 hb).1
  have hm' := Nat.lt_of_lt_of_le (List.mem_range.1 hm) (counterSpan_le a)
  have hn' := Nat.lt_of_lt_of_le (List.mem_range.1 hn) (counterSpan_le b)
  omega

/-- The sources with counters, below 0x9000: PEC clusters, hubs, routers and links. -/
theorem mem_counterSources {src : Nat} (hspan : 0 < counterSpan src) (hsrc : src / 4096 ∈ [1, 2, 4, 7]) :
    src ∈ counterSources ∧ src < 0x9000 := by
  have hsplit : src = 4096 * (src / 4096) + src % 4096 := (Nat.div_add_mod _ _).symm
  have hif {p : Prop} [Decidable p] {n : Nat} (h : 0 < if p then n else 0) : p := by
    by_contra hp
    rw [if_neg hp] at h
    cases h
  simp only [List.mem_cons, List.not_mem_nil, or_false] at hsrc
  simp only [counterSources, List.mem_append, List.mem_map, List.mem_range, List.mem_cons, List.not_mem_nil, or_false, or_assoc]
  rcases hsrc with h | h | h | h <;> simp only [counterSpan, h] at hspan <;> replace hspan := hif hspan
  · have hpec : ∃ a, a < 320 ∧ 0x1000 + a = src := ⟨src % 4096, by omega, by omega⟩
    exact ⟨.inl hpec, by omega⟩
  · have hhub : ∃ a, a < 16 ∧ 0x2000 + a = src := ⟨src % 4096, by omega, by omega⟩
    exact ⟨.inr (.inl hhub), by omega⟩
  · have hcodec : src = 0x4000 ∨ src = 0x4001 := by omega
    exact ⟨.inr (.inr (.inr (hcodec.imp_right .inl))), by omega⟩
  · have hengine : ∃ a, a < 20 ∧ 0x7000 + a = src := ⟨src % 4096, by omega, by omega⟩
    exact ⟨.inr (.inr (.inr (.inr (.inr (.inr (.inl hengine)))))), by omega⟩

theorem mem_activityIds (id : Nat) : id ∈ activityIds ↔ isCounter id = true ∧ isActivity id = true := by
  simp only [activityIds, List.mem_flatMap, List.mem_filter, List.mem_map, List.mem_range, decide_eq_true_eq, isCounter]
  constructor
  · rintro ⟨src, -, ⟨n, hn, rfl⟩, hactivity⟩
    have hn' := Nat.lt_of_lt_of_le hn (counterSpan_le src)
    rw [show (src * 65536 + n) % 65536 = n by omega, show (src * 65536 + n) / 65536 = src by omega]
    exact ⟨hn, hactivity⟩
  · rintro ⟨hspan, hactivity⟩
    have hsrc : id / 65536 / 4096 ∈ [1, 2, 4, 7] := by
      unfold isActivity at hactivity
      extract_lets n at hactivity
      split at hactivity <;> simp_all
    obtain ⟨hmem, hlt⟩ := mem_counterSources (Nat.zero_lt_of_lt hspan) hsrc
    exact ⟨id / 65536, ⟨hmem, hlt⟩, ⟨id % 65536, hspan, by omega⟩, hactivity⟩

/-- What waves and holds have counted in a range joins their counters. -/
theorem countersAre_countActivity (first count : Nat) {s : State} (hw : Tab.wf Counter.reset s.counters = true) :
    CountersAre s (applyAll (countActivity first count s) s) (fun id =>
      if first ≤ id ∧ id < first + count ∧ isCounter id = true ∧ isActivity id = true then counterNow s id else s.counter id) := by
  have h := countersAre_counts (activityOf s) (nodup_activityIds.filter (fun id => decide (first ≤ id) && decide (id < first + count))) hw
  refine ⟨h.wf, h.rest, fun id => (h.counter id).trans ?_, fun hall => h.ledger fun id => (congrArg Counter.sat ?_).trans (hall id)⟩
  all_goals
    simp only [List.mem_filter, mem_activityIds, Bool.and_eq_true, decide_eq_true_eq, counterNow_eq]
    exact if_congr (by tauto) rfl rfl

theorem countActivity_free (first count : Nat) (s : State) : (applyAll (countActivity first count s) s).free = s.free :=
  applyAll_keeps_of (P := fun t => t.free = s.free) _ (fun e he t ht => by
    obtain ⟨id, -, rfl⟩ := List.mem_map.1 he
    rw [applyEff_count]
    obtain ⟨c, h | ⟨event, src, d, h⟩⟩ := t.bump_cases id (activityOf s id) <;> exact h ▸ ht) s rfl

/-! ### The bytes of a counter (R410) -/

theorem leNat_append (l m : List Byte) : leNat (l ++ m) = leNat l + 256 ^ l.length * leNat m := by
  induction l with
  | nil => simp [leNat]
  | cons b l ih =>
    rw [List.cons_append, leNat, leNat, ih, List.length_cons, Nat.pow_succ']
    ring

theorem isSensor_of_isCounter {id : Nat} (h : isCounter id = true) : isSensor id = false := by
  refine Bool.eq_false_iff.2 fun hsensor => ?_
  have hsource : id / 65536 = 0xC000 := by
    rw [isSensor, Bool.and_eq_true, beq_iff_eq] at hsensor
    exact hsensor.1
  rw [isCounter, hsource] at h
  exact absurd (of_decide_eq_true h) (Nat.not_lt_zero _)

theorem counterNow_le (s : State) (id : Nat) : (counterNow s id).value ≤ counterMax := by
  rw [counterNow_eq, Counter.plus]
  split
  next hle => exact hle
  next => exact Nat.le_refl _

theorem counterBytes_of_isCounter (s : State) {id : Nat} (h : isCounter id = true) :
    counterBytes s id = toLE 6 (counterNow s id).value ++ toLE 2 (b2n (counterNow s id).sat * 2 ^ 15) := by
  rw [counterBytes, isSensor_of_isCounter h, h]
  rfl

theorem b2n_le (b : Bool) : b2n b ≤ 1 := by cases b <;> decide

/-- The whole entry as one number: the value, and SAT above it. -/
theorem fieldLE_counterBytes (s : State) {id : Nat} (h : isCounter id = true) :
    fieldLE (counterBytes s id) 0 8 = (counterNow s id).value + 2 ^ 63 * b2n (counterNow s id).sat := by
  have hle : (counterNow s id).value ≤ 0xFFFFFFFFFFFF := counterNow_le s id
  have hsat := b2n_le (counterNow s id).sat
  rw [counterBytes_of_isCounter s h, fieldLE, slice, List.drop_zero, List.take_of_length_le (by simp), leNat_append, leNat_toLE, leNat_toLE,
    length_toLE]
  omega

/-! ### COUNTER_READ and COUNTER_CLEAR (R439) -/

theorem exec_counterRead {h : Hdr} {first count : Word} {a : Dword} {s : State} (hs : ServesHost s h false) (hown : h.partner = none)
    (hlo : 1 ≤ count.toNat) (hhi : count.toNat ≤ 4096) :
    let u := s.withHost h.port a.toNat ((List.range count.toNat).flatMap (fun k =>
      if first.toNat + k < 2 ^ 32 then counterBytes s (first.toNat + k) else toLE 8 0))
    exec (.counterRead h first count a) s = .next (afterReply h (Reply.done count.toNat 0 0)
      { applyAll (countActivity first.toNat count.toNat u) u with free := s.free + 1 }) := by
  have hin : ¬ (count = 0 ∨ 4096 < count.toNat) := by
    rintro (rfl | hgt)
    · exact absurd hlo (by decide)
    · omega
  refine (run_hostCommand hs _).trans ?_
  rw [if_neg hin]
  simp only [Act.all_cons, Act.all_nil, applyAll_seq, applyAll_toHost hs.dma hown, Act.of_apply, applyAll_cons, applyAll_nil, applyEff_fresh,
    applyAll_done3, Act.none_apply, countActivity_free]
  rfl

/-- The counters of a range that are listed. -/
def listedIn (s : State) (a b : Nat) : List Nat := (s.counters.filter (fun x => decide (a ≤ x.1) && decide (x.1 < b))).map (·.1)

theorem look_of_not_listedIn {s : State} {a b id : Nat} (h : id ∉ listedIn s a b) (ha : a ≤ id) (hb : id < b) : s.counter id = Counter.reset :=
  (Tab.look_listed Counter.reset s.counters id).resolve_right fun hmem =>
    h (List.mem_map.2 ⟨_, List.mem_filter.2 ⟨hmem, by simp [ha, hb]⟩, rfl⟩)

theorem listedIn_range {s : State} {a b id : Nat} (h : id ∈ listedIn s a b) : a ≤ id ∧ id < b := by
  obtain ⟨x, hx, rfl⟩ := List.mem_map.1 h
  simpa using (List.mem_filter.1 hx).2

/-- A range of counters cleared: what waves and holds have counted joins them, and then every one that is listed reads 0. -/
def State.clearing (s : State) (a b : Nat) : State :=
  let u := applyAll (countActivity a (b - a) s) s
  { applyAll ((listedIn u a b).map fun id => .clearCounter id) u with free := s.free + 1 }

theorem clears_eq (u : State) (a b : Nat) :
    (u.counters.filter (fun x => decide (a ≤ x.1) && decide (x.1 < b))).map (fun x => Eff.clearCounter x.1) =
      (listedIn u a b).map fun id => .clearCounter id := by
  rw [listedIn, List.map_map]
  rfl

theorem applyAll_clears_free (l : List Nat) (u : State) : (applyAll (l.map fun id => .clearCounter id) u).free = u.free :=
  applyAll_keeps_of (P := fun t => t.free = u.free) _ (fun e he t ht => by
    obtain ⟨id, -, rfl⟩ := List.mem_map.1 he
    exact ht) u rfl

theorem exec_counterClear {h : Hdr} {first count : Word} {s : State} (hs : Serves s false) :
    exec (.counterClear h first count) s = .next (afterReply h
      (Reply.done (countersIn first.toNat (min (first.toNat + count.toNat) (2 ^ 32) - first.toNat)) 0 0)
      (s.clearing first.toNat (min (first.toNat + count.toNat) (2 ^ 32)))) := by
  show (command h false _).run s = _
  rw [Act.run_eq, command_of_serves hs]
  simp only [Act.all_cons, Act.all_nil, applyAll_seq, Act.of_apply, applyAll_cons, applyAll_nil, applyEff_fresh, applyAll_done3,
    Act.none_apply, State.clearing, clears_eq, applyAll_clears_free, countActivity_free]

/-- What clearing leaves: a counter of the range reads 0, and the ledger changes only where one had saturated. -/
theorem clearing_spec {s : State} (hs : s.Inv) {a b : Nat} (hab : a ≤ b) :
    (s.clearing a b) = { s with
        counters := (s.clearing a b).counters
        ledger := (s.clearing a b).ledger
        ledgerNext := (s.clearing a b).ledgerNext
        free := s.free + 1 }
      ∧ ((∀ id, a ≤ id → id < b → (counterNow s id).sat = (s.counter id).sat) →
        (s.clearing a b).ledger = s.ledger ∧ (s.clearing a b).ledgerNext = s.ledgerNext)
      ∧ ∀ id, (s.clearing a b).counter id = if a ≤ id ∧ id < b then Counter.reset else s.counter id := by
  have hu := countersAre_countActivity a (b - a) hs.canonical.counters
  rw [State.clearing]
  generalize applyAll (countActivity a (b - a) s) s = u at hu
  obtain ⟨hrest, hcounter⟩ := applyAll_clears (listedIn u a b) hu.wf
  dsimp only
  generalize applyAll ((listedIn u a b).map fun id => .clearCounter id) u = v at hrest hcounter
  have hledger : v.ledger = u.ledger := (congrArg State.ledger hrest :)
  have hnext : v.ledgerNext = u.ledgerNext := (congrArg State.ledgerNext hrest :)
  refine ⟨?_, fun hall => ?_, fun id => (hcounter id).trans ?_⟩
  · have hbeyond : v.beyondCounters = s.beyondCounters := (congrArg State.beyondCounters hrest).trans hu.rest
    exact congrArg (fun w : State => { w with free := s.free + 1 }) (State.eq_of_beyondCounters hbeyond)
  · obtain ⟨hl, hn⟩ := hu.ledger fun id => by
      split
      next hid => exact hall id hid.1 (by omega)
      next => rfl
    exact ⟨hledger.trans hl, hnext.trans hn⟩
  · by_cases hid : a ≤ id ∧ id < b
    · rw [if_pos hid]
      split
      next => rfl
      next hlisted => exact look_of_not_listedIn hlisted hid.1 hid.2
    · rw [if_neg hid, if_neg fun hlisted => hid (listedIn_range hlisted), hu.counter, if_neg fun h => hid ⟨h.1, by omega⟩]

/-- Settles O12: increments by `State.bump_plus`, what waves and holds have counted by `countersAre_countActivity`. -/
theorem counters : Obligations.Counters := by
  unfold Obligations.Counters
  refine ⟨fun s id n hinv => ⟨fun j hj => ?_, fun hle => ?_, fun hlt => ?_⟩,
    fun h first count a s hs hown hlo hhi => exec_counterRead hs hown hlo hhi,
    fun s first count hinv => ?_, fun s id hinv hid => ⟨?_, ?_, fun hactivity => ?_⟩, fun h first count s hinv hs => ?_,
    fun h first count a s hs hcount => ?_⟩
  · exact ((countersAre_bump hinv.canonical.counters id n).counter j).trans (if_neg hj)
  · exact State.bump_fits hle ▸ ⟨(State.counter_withCounter hinv.canonical.counters id id _).trans (if_pos rfl), rfl⟩
  · have hcounter := ((countersAre_bump hinv.canonical.counters id n).counter id).trans (if_pos rfl)
    rw [Counter.plus_sticks (Nat.not_le.2 hlt)] at hcounter
    exact ⟨hcounter, fun hsat => State.bump_sticks (Nat.not_le.2 hlt) hsat ▸ rfl, fun hsat =>
      ⟨⟨s.ledgerNext, 0x0004, BitVec.ofNat 16 (id / 65536), ledgerData (toLE 4 id)⟩,
        State.bump_saturates (Nat.not_le.2 hlt) hsat ▸ rfl, rfl, rfl⟩⟩
  · have hactivity := countersAre_countActivity first count hinv.canonical.counters
    exact ⟨State.eq_of_beyondCounters hactivity.rest, hactivity.counter⟩
  · have hle : (counterNow s id).value ≤ 0xFFFFFFFFFFFF := counterNow_le s id
    rw [counterBytes_of_isCounter s hid, fieldLE_front]
    exact Nat.mod_eq_of_lt (by omega)
  · have hle : (counterNow s id).value ≤ 0xFFFFFFFFFFFF := counterNow_le s id
    have hsat := b2n_le (counterNow s id).sat
    rw [fieldLE_counterBytes s hid, bits]
    omega
  · have hle := hinv.counted.counter id
    rw [counterNow_eq, activityOf, hactivity]
    exact Counter.plus_fits hle
  · obtain ⟨hrest, hledger, hcounter⟩ := clearing_spec hinv (a := first.toNat) (b := min (first.toNat + count.toNat) (2 ^ 32)) (by omega)
    refine ⟨_, exec_counterClear hs, hrest, fun hall => hledger fun id hlo hhi => hall id hlo (by omega), fun id => (hcounter id).trans ?_⟩
    exact if_congr (by omega) rfl rfl
  · refine (run_hostCommand hs _).trans ?_
    rw [if_pos hcount, applyAll_badField]

end Sys2Proof.Machine
end

section
/-! Intake (R287, R291): a packet that fails its checks completes under its own header, which a started packet may bear too. -/
namespace Sys2Proof.Machine
open Sys2Proof.Tests

/-- The header of a packet of zeros at chute 0 of port 0. -/
def zeroHdr : Hdr := ⟨0, 0, 0, 0, false, false, false, false, 0, 0, 0, none⟩

/-- A HOOK_ACQUIRE with that header waits for hook 64, and an entry of zeros stands at the head of its chute. -/
def headerTwice : State := { enabled with
  chutes := [(0, { chute0 with tail := 1 })]
  started := [.hookAcquire zeroHdr 64 1]
  hooks := [(64, ⟨0, [.command zeroHdr 1]⟩)] }

theorem headerTwice_inv : headerTwice.Inv := inv_of_ok (by decide)

/-- The entry of zeros is refused (R287), and its reply ends the first command of its header. -/
theorem exec_packetStart_headerTwice : (match exec .packetStart headerTwice with
    | .next t => t.started == []
    | _ => false) = true := by decide +kernel

/-- Refutes O58: no packet starts at `headerTwice`, and yet a started one is gone, for the refused packet at the chute's head completes
under the header that the started one bears. -/
theorem not_packetIntake : ¬ Obligations.PacketIntake := by
  unfold Obligations.PacketIntake
  rintro ⟨-, hstart, -⟩
  obtain ⟨t, hexec, -, hstarted⟩ := hstart headerTwice headerTwice_inv rfl rfl rfl
  have hnone : t.started = [] := by
    have h := exec_packetStart_headerTwice
    rw [hexec] at h
    exact eq_of_beq h
  rcases hstarted with h | ⟨i, n, b, c, -, -, -, h, -⟩
  · rw [hnone] at h
    cases h
  · rw [hnone] at h
    exact absurd h.symm (List.append_ne_nil_of_right_ne_nil _ (List.cons_ne_nil _ _))

end Sys2Proof.Machine
end

section
/-! ABORT (R294): a core that giving an array back condemns goes under its dust sheet behind the reply of the run that ends. -/
namespace Sys2Proof.Machine
open Sys2Proof.Tests

/-! ### What a reply writes to the ledger -/

/-- The events of replies: one dropped, a counter saturated, and two that the twins disagree about. -/
def replyEvents : List Half := [0x0300, 0x0004, 0x0114]

/-- The newest `n` records of a ledger are of replies. -/
def RepliesInFront (n : Nat) (s : State) : Prop := ∀ i < n, ∀ r ∈ s.ledger[i]?, r.event ∈ replyEvents

section
variable {n : Nat} {s : State}

theorem repliesInFront_zero : RepliesInFront 0 s := fun _ hi => absurd hi (Nat.not_lt_zero _)

theorem RepliesInFront.of_succ (hs : RepliesInFront (n + 1) s) : RepliesInFront n s := fun i hi => hs i (Nat.lt_succ_of_lt hi)

theorem RepliesInFront.log (hs : RepliesInFront n s) {event : Nat} (he : BitVec.ofNat 16 event ∈ replyEvents) (source : Nat)
    (d : List Byte) : RepliesInFront (n + 1) (s.log event source d) := fun i hi r hr => by
  rw [State.log, List.getElem?_take] at hr
  split at hr
  next =>
    cases i with
    | zero => exact Option.some.inj hr ▸ he
    | succ i => exact hs i (Nat.lt_of_succ_lt_succ hi) r hr
  next => cases hr

theorem RepliesInFront.bump (hs : RepliesInFront n s) (id m : Nat) : RepliesInFront n (s.bump id m) := by
  obtain ⟨v, -, hv | hv⟩ := s.bump_inversion id m
  · exact hv ▸ hs
  · exact hv ▸ (RepliesInFront.log (s := s.withCounter id v) hs (by decide) _ _).of_succ
end

theorem Tab.ins_ne_nil {α : Type} (t : Tab α) (k : Nat) (v : α) : Tab.ins t k v ≠ [] := by
  cases t with
  | nil => exact List.cons_ne_nil _ _
  | cons x t =>
    unfold Tab.ins
    split
    · exact List.cons_ne_nil _ _
    · split <;> exact List.cons_ne_nil _ _

/-- The islands run, the twin is alone, and no chute is enabled: every reply is dropped. -/
structure NoChutes (s : State) : Prop where
  clock : clocked s = true
  alone : s.twin.bound = false
  chutes : s.chutes = []

/-- An activity after which replies are dropped, and which has dropped one. -/
def Act.DropsReply (a : Act) : Prop :=
  ∀ s, NoChutes (applyAll (a s) s) → NoChutes s ∧ ∀ n, RepliesInFront n s → RepliesInFront (n + 1) (applyAll (a s) s)

/-- A reply to a chute that is alive leaves an entry for it. -/
theorem chutes_of_replyAlive {h : Hdr} (r : Reply) {s : State} (hclock : clocked s = true) (halive : replyAlive s h = true) :
    (applyAll (replyEffs h r s) s).chutes ≠ [] := by
  have henable : (s.chute (chuteIx h.port h.chute)).enable = true := by
    simp only [replyAlive, Bool.and_eq_true] at halive
    exact halive.1.1.2
  have hins (v : Chute) (hv : v.enable = true) : Tab.put Chute.reset s.chutes (chuteIx h.port h.chute) v ≠ [] := by
    rw [Tab.put, if_neg (fun he => by rw [he] at hv; cases hv)]
    exact Tab.ins_ne_nil _ _ _
  cases homit : replyOmitted h r
  · rw [applyAll_replyEffs_replied hclock halive homit]
    exact hins _ henable
  · rw [applyAll_replyEffs_omitted hclock halive homit]
    exact hins _ henable

/-- The writes of a reply that raises no vector, in its ring. -/
def Eff.silentReply : Eff → Bool
  | .started .. | .ledger .. | .count .. | .host .. | .chute .. => true
  | _ => false

section
variable {h : Hdr} (hint : h.interrupt = false)
include hint

theorem replyEffs_silentReply (r : Reply) : (replyEffs h r).Only Eff.silentReply := fun s => by
  unfold replyEffs
  extract_lets i c gone
  rw [hint]
  split
  · rfl
  · split
    · rfl
    · split <;> rfl

theorem replyEffs_frame (r : Reply) (s : State) : (applyAll (replyEffs h r s) s).power = s.power
    ∧ (applyAll (replyEffs h r s) s).ports = s.ports ∧ (applyAll (replyEffs h r s) s).twin = s.twin := by
  have hkeeps := (replyEffs_silentReply hint r).leaves (g := fun s => (s.power, s.ports, s.twin)) (fun e he s => by
    cases e with
    | started | ledger | host | chute => rfl
    | count id n =>
      rw [applyEff_count]
      obtain ⟨c, h | ⟨event, src, d, h⟩⟩ := s.bump_cases id n <;> exact h ▸ rfl
    | _ => cases he) s
  exact ⟨congrArg (·.1) hkeeps, congrArg (·.2.1) hkeeps, congrArg (·.2.2) hkeeps⟩

theorem replyEffs_dropsReply (r : Reply) : (replyEffs h r).DropsReply := fun s hs => by
  obtain ⟨hpower, hports, htwin⟩ := replyEffs_frame hint r s
  have hclock : clocked s = true := by
    have hclock := hs.clock
    rwa [clocked, State.port, State.port, hpower, hports] at hclock
  cases halive : replyAlive s h with
  | true => exact absurd hs.chutes (chutes_of_replyAlive r hclock halive)
  | false =>
    have heq := applyAll_replyEffs_dropped (r := r) hclock halive
    have hchutes : (applyAll (replyEffs h r s) s).chutes = s.chutes := by
      rw [heq]
      obtain ⟨v, -, hv | hv⟩ := State.bump_inversion ({ s with started := dropStarted h s.started }.log 0x0300
        (srcChute (chuteIx h.port h.chute)) (toLE 4 h.seq.toNat ++ toLE 2 r.status)) (counterId (srcHub h.port) 3) 1 <;> rw [hv] <;> rfl
    exact ⟨⟨hclock, htwin ▸ hs.alone, hchutes ▸ hs.chutes⟩, fun n hn => heq ▸
      (RepliesInFront.log (s := { s with started := dropStarted h s.started }) hn (by decide) _ _).bump _ _⟩

theorem deliver_dropsReply (hown : h.partner = none) (r : Reply) : (deliver h r).DropsReply := fun s => by
  have hprefix (T : Twin) (hT : T.bound = s.twin.bound) (r' : Reply) (u : State) (hu : u = { s with twin := T } ∨
      ∃ src d, u = { s with twin := T }.log 0x0114 src d) (hdrop : NoChutes (applyAll (replyEffs h r' u) u)) :
      NoChutes s ∧ ∀ n, RepliesInFront n s → RepliesInFront (n + 1) (applyAll (replyEffs h r' u) u) := by
    obtain ⟨hnone, hfront⟩ := replyEffs_dropsReply hint r' u hdrop
    rcases hu with rfl | ⟨src, d, rfl⟩
    · exact ⟨⟨hnone.clock, hT ▸ hnone.alone, hnone.chutes⟩, fun n hn => hfront n hn⟩
    · exact ⟨⟨hnone.clock, hT ▸ hnone.alone, hnone.chutes⟩, fun n hn =>
        hfront n (RepliesInFront.log (s := { s with twin := T }) hn (by decide) _ _).of_succ⟩
  simp only [deliver, hown]
  split
  next => exact hprefix s.twin rfl r s (.inl rfl)
  next f _ =>
    split
    next =>
      split
      next hpaired =>
        intro hs
        have hbound : s.twin.bound = false := hs.alone
        rw [State.paired, hbound] at hpaired
        cases hpaired
      next =>
        rw [applyAll_seq]
        exact hprefix { s.twin with forwarded := s.twin.forwarded.filter (fun g => decide (g.hdr ≠ h)) } rfl r _ (.inl rfl)
    next q _ =>
      rw [applyAll_seq]
      refine hprefix { s.twin with forwarded := s.twin.forwarded.filter (fun g => decide (g.hdr ≠ h)) } rfl _ _ ?_
      rw [Act.of_apply, applyAll_append]
      split
      · exact .inl rfl
      · exact .inr ⟨_, _, rfl⟩

theorem complete_dropsReply (hown : h.partner = none) (hsignal : h.signal = false) (r : Reply) : (complete h r).DropsReply := by
  rw [complete_unsignalled (by simp [hsignal])]
  exact deliver_dropsReply hint hown r
end

/-! ### The counterexample -/

/-- A LIVE run of slot 0 has the array of core 0 from a record of slot 1; what was parked lies in a word of the core's own shelf whose next
reading fails once, which is the core's third fault. The chutes of both headers have been reset. -/
def faultyParking : State := { ready with
  slots := [(0, runningSlot)]
  cores := [(0, { Core.reset with
    health := ⟨0, [0, 0]⟩
    live := some (0, 0)
    array := { MatArray.reset with parked := [parkedOnShelf] } })]
  ecc := [(shelfBase / 8, some .transient)] }

theorem faultyParking_inv : faultyParking.Inv := inv_of_ok (by decide)

/-- The state after an ABORT of the run. -/
def parkingAborted : State := applyAll (command hdr false (abortCommand hdr 0) faultyParking) faultyParking

theorem exec_abort_faultyParking : exec (.abort hdr (BitVec.ofNat 8 (0 : SlotId).val)) faultyParking = .next parkingAborted := rfl

/-- Both replies are dropped, and the core's dust sheet is recorded between them. -/
theorem parkingAborted_events : parkingAborted.ledger.map (·.event) = [0x0300, 0x0101, 0x0300, 0x0100] := by decide +kernel

theorem parkingAborted_noChutes : NoChutes parkingAborted where
  clock := by decide +kernel
  alone := by decide +kernel
  chutes := List.isEmpty_iff.1 (by decide +kernel)

/-- Refutes O23: of the two newest records after the ABORT of `faultyParking` one is not of a reply, for the core that the array's return
condemns goes under its dust sheet between the run's reply and the ABORT's. -/
theorem not_abortEndsRun : ¬ Obligations.AbortEndsRun := by
  unfold Obligations.AbortEndsRun
  intro h
  have hsound : CoresSound faultyParking := by simp [CoresSound, faultyParking, Core.reset]
  obtain ⟨-, hends⟩ := h hdr 0 onePlan faultyParking faultyParking_inv (serves_of rfl rfl rfl _) rfl
  obtain ⟨t, hexec, -⟩ := hends _ rfl rfl rfl rfl hsound (by simp [faultyParking, Core.reset])
  have heq := Host.Outcome.next.inj (exec_abort_faultyParking.symm.trans hexec)
  have hlast := complete_dropsReply (h := hdr) rfl rfl rfl (Reply.of stDone) _ (heq ▸ parkingAborted_noChutes)
  obtain ⟨hnone, hfront⟩ := hlast
  obtain ⟨-, hfirst⟩ := complete_dropsReply (by decide) (by decide) (by decide) _ t hnone
  have htwo : RepliesInFront 2 parkingAborted := heq ▸ hfront 1 (hfirst 0 repliesInFront_zero)
  have hevent : (parkingAborted.ledger[1]?).map (·.event) = some 0x0101 := by
    rw [← List.getElem?_map, parkingAborted_events]
    rfl
  obtain ⟨r, hr, hevent⟩ := Option.map_eq_some_iff.1 hevent
  have hin := htwo 1 (by decide) r hr
  rw [hevent] at hin
  exact absurd hin (by decide)

end Sys2Proof.Machine
end

section
/-! PAUSE, PAUSE_COMPLETE and RESUME (R294). -/
namespace Sys2Proof.Machine

section
variable {s : State} {slot : SlotId} {p : Plan} {h : Hdr}

/-- A command of a slot that holds a plan. -/
theorem run_slotCommand (hs : Serves s false) (hp : (s.slot slot.val).plan = some p) (off : Nat) (f : Nat → Slot → Plan → Act) :
    (command h false (slotCommand h (BitVec.ofNat 8 slot.val) off f)).run s =
      .next (applyAll (f slot.val (s.slot slot.val) p s) s) := by
  rw [Act.run_eq, command_of_serves hs, slotCommand_of_slotId hp]

theorem exec_pause (hs : Serves s false) (hp : (s.slot slot.val).plan = some p) :
    exec (.pause h (BitVec.ofNat 8 slot.val)) s = .next (match (s.slot slot.val).run with
      | none => afterReply h (Reply.of stDone) s
      | some q => if q.paused then afterReply h (Reply.done q.step 0 0) s else s.withSlotRun slot.val { q with
        paused := true
        pauses := q.pauses ++ [⟨h, q.inFlight, q.restarts⟩] }) := by
  refine (run_slotCommand hs hp 32 _).trans ?_
  cases (s.slot slot.val).run with
  | none => rfl
  | some q =>
    dsimp only
    split <;> rfl

/-- RESUME of a slot that is not paused does nothing. -/
theorem exec_resume_idle (hs : Serves s false) (hp : (s.slot slot.val).plan = some p)
    (hidle : ∀ q, (s.slot slot.val).run = some q → q.paused = false) :
    exec (.resume h (BitVec.ofNat 8 slot.val)) s = .next (afterReply h (Reply.of stDone) s) := by
  refine (run_slotCommand hs hp 32 _).trans ?_
  cases hrun : (s.slot slot.val).run with
  | none => rfl
  | some q =>
    dsimp only
    rw [hidle q hrun]
    rfl

/-- No lane splits wait for a lane. -/
theorem redeal_none (hlanes : ∀ x ∈ s.cores, x.2.laneRuns = []) : redeal s = [] := by
  have hnone : s.cores.filter (fun x => !x.2.laneRuns.isEmpty) = [] := List.filter_eq_nil_iff.2 fun x hx => by simp [hlanes x hx]
  rw [redeal, hnone]
  rfl

variable {q : Run} (hruns : Runs s slot.val p q)
include hruns

theorem exec_resume (hs : Serves s false) (hpaused : q.paused = true) (hcase : degradedCase s p = none)
    (hlanes : ∀ x ∈ s.cores, x.2.laneRuns = []) :
    let t := s.withSlotRun slot.val { q with paused := false }
    exec (.resume h (BitVec.ofNat 8 slot.val)) s = .next (afterReply h (Reply.of stDone) (applyAll (advance slot.val t) t)) := by
  refine (run_slotCommand hs hruns.plan 32 _).trans ?_
  have hredeal : redeal (s.withSlotRun slot.val { q with paused := false }) = [] := redeal_none hlanes
  simp only [hruns.run, hpaused, hcase, Bool.not_true, Bool.false_eq_true, if_false, Act.all_cons, Act.all_nil, applyAll_seq, hruns.setRun,
    hredeal, applyAll_nil, applyAll_finish, Act.none_apply]

theorem exec_pauseComplete {x : PauseReq} (hstopped : q.stopped = none) (hpauses : q.pauses = [x])
    (hleft : x.left.all (settled s slot.val p q) = true) :
    exec (.pauseComplete slot) s = .next (afterReply x.hdr ⟨stDone, 0, q.step, 0, 0, false, q.restarts - x.restarts⟩
      (s.withSlotRun slot.val { q with pauses := [] })) := by
  refine (Act.run_eq _ s).trans ?_
  have hover : (q.stopped.isNone && x.left.all (settled s slot.val p q)) = true := by rw [hstopped, hleft]; rfl
  rw [hruns.act, hpauses]
  simp only [List.filter_cons, List.filter_nil, hover, Bool.not_true, Bool.false_eq_true, if_true, if_false, List.map_nil, applyAll_seq,
    hruns.setRun, finishPauses, Act.each_cons, Act.each_nil, applyAll_complete, Act.none_apply, applyAll_nil]

/-- A run that is not under way goes nowhere. -/
theorem Runs.advance_inactive (hactive : q.active = false) : applyAll (Machine.advance slot.val s) s = s := by
  rw [Machine.advance, hruns.runOf_eq]
  simp [hactive]
end

/-- Settles O22. -/
theorem pauseAndResume : Obligations.PauseAndResume := by
  unfold Obligations.PauseAndResume
  intro h slot p s hinv hs hp
  have hruns {q : Run} (hq : (s.slot slot.val).run = some q) : Runs s slot.val p q := ⟨hinv.canonical.slots, hp, hq⟩
  refine ⟨fun hnone => ⟨?_, exec_resume_idle hs hp fun q hq => ?_⟩, fun q hq hpaused => ?_,
    fun q hq hpaused => ⟨?_, exec_resume_idle hs hp fun q' hq' => ?_⟩,
    fun q x hq hstopped hpauses hleft => exec_pauseComplete (hruns hq) hstopped hpauses hleft,
    fun q hq hpaused hcase hlanes => ⟨fun hactive => ?_, fun hactive _ hopen => ?_⟩⟩
  · rw [exec_pause hs hp, hnone]
  · rw [hnone] at hq
    cases hq
  · rw [exec_pause hs hp, hq]
    dsimp only
    rw [if_pos hpaused]
  · rw [exec_pause hs hp, hq]
    dsimp only
    rw [if_neg (by simp [hpaused])]
    rfl
  · rw [hq] at hq'
    exact Option.some.inj hq' ▸ hpaused
  · have hresumed := (hruns hq).withSlotRun { q with paused := false }
    rw [exec_resume (hruns hq) hs hpaused hcase hlanes, hresumed.advance_inactive hactive]
    rfl
  · have hresumed := (hruns hq).withSlotRun { q with paused := false }
    rw [exec_resume (hruns hq) hs hpaused hcase hlanes, hresumed.advance hactive hopen]
    rfl

end Sys2Proof.Machine
end

section
/-! Lengths of 0 (R293): commands that move nothing, and those whose own rules fix the length of what they read. -/
namespace Sys2Proof.Machine

/-! ### Memory commands that disturb no one (R70, R293) -/

section
variable {s : State} {h : Hdr} {i : Instr}

theorem spoilBytes_nil : spoilBytes [] s = [] := rfl

/-- A memory command that shares no byte with anything in no order with it is what it would be alone. -/
theorem applyAll_memCommand (hu : Undisturbed s h i) (hi : instrHdr i = some h) (a : Act) : applyAll (memCommand i a s) s = applyAll (a s) s := by
  obtain ⟨hcommands, hruns⟩ := hu
  have hnone (b : Bool) (t : State) : applyAll (spoilBytes (if b then [] else []) t) t = t := by cases b <;> rfl
  have hhost : applyAll (hostAccess (commandTouches s i) a s) s = applyAll (a s) s := by
    simp only [hostAccess, hruns, List.flatMap_nil, Act.each_nil, Act.all_cons, Act.all_nil, applyAll_seq, Act.none_apply, applyAll_nil,
      spoilBytes_nil, hnone]
  simp only [memCommand, hi, hcommands, List.isEmpty_nil, Bool.not_true, Act.when_false, Act.all_cons, Act.all_nil, applyAll_seq,
    Act.none_apply, applyAll_nil, spoilBytes_nil, hhost, hnone]

theorem touchLocal_zero (s : State) (w : Bool) (d : Dword) : touchLocal s w d 0 = [] := by
  unfold touchLocal
  split <;> rfl

theorem wholeSlot_zero (s : State) (a : Nat) : wholeSlot s a 0 = none := if_neg fun ⟨_, _, _, hzero, _⟩ => absurd hzero (by decide)

/-- A command that touches nothing disturbs no one. -/
theorem undisturbed_of_touches (hnone : commandTouches s i = []) (hraces : ∀ x ∈ s.races, x.1 ≠ h) : Undisturbed s h i where
  commands := by
    have hfilter : s.races.filter (fun x => x.1 == h) = [] := List.filter_eq_nil_iff.2 fun x hx => by simpa using hraces x hx
    simp [commandRaces, sharedBytes, hnone, hfilter]
  runs := List.filterMap_eq_nil_iff.2 fun x _ => by
    split
    · rfl
    · split
      · rfl
      · simp [sharedBytes, hnone]
end

/-! ### Commands without a length -/

section
variable {s : State} {h : Hdr} {a b : Dword}

theorem ServesHost.recovery (hs : ServesHost s h false) : ServesHost s h true :=
  ⟨⟨hs.serves.1, fun _ => rfl, hs.serves.2.2⟩, hs.dma⟩

/-- A memory command of length 0 that is no part of a race. -/
theorem applyAll_memCommand_zero (i : Instr) (c : Act) (hi : instrHdr i = some h) (hnone : commandTouches s i = []) (hraces : ∀ x ∈ s.races, x.1 ≠ h)
    (hc : c s = finish h stDone s) : applyAll (memCommand i c s) s = afterReply h (Reply.of stDone) s := by
  rw [applyAll_memCommand (undisturbed_of_touches hnone hraces) hi, hc, applyAll_finish]

variable (hs : ServesHost s h false)
include hs

theorem exec_writeMem_zero (hraces : ∀ x ∈ s.races, x.1 ≠ h) : exec (.writeMem h a b 0) s = .next (afterReply h (Reply.of stDone) s) :=
  (run_hostCommand hs _).trans (congrArg _ (applyAll_memCommand_zero (.writeMem h a b 0) (writeMemCommand h a b 0) rfl
    (touchLocal_zero s true a) hraces rfl))

theorem exec_readMem_zero (hraces : ∀ x ∈ s.races, x.1 ≠ h) : exec (.readMem h a b 0) s = .next (afterReply h (Reply.of stDone) s) :=
  (run_hostCommand hs _).trans (congrArg _ (applyAll_memCommand_zero (.readMem h a b 0) (readMemCommand h a b 0) rfl
    (touchLocal_zero s false a) hraces rfl))

theorem exec_fillMem_zero (hraces : ∀ x ∈ s.races, x.1 ≠ h) : exec (.fillMem h a 0 b) s = .next (afterReply h (Reply.of stDone) s) := by
  have hnone : commandTouches s (.fillMem h a 0 b) = [] := by
    have hslot : (if isLocal s a.toNat then wholeSlot s (localPart a.toNat) (0 : Dword).toNat else none) = none := by
      split
      · exact wholeSlot_zero _ _
      · rfl
    rw [commandTouches, hslot]
    exact touchLocal_zero ..
  show (command h false _).run s = _
  rw [Act.run_eq, command_of_serves hs.serves]
  exact congrArg _ (applyAll_memCommand_zero (.fillMem h a 0 b) (fillMemCommand h a 0 b) rfl hnone hraces rfl)

theorem exec_copyMem_zero (hraces : ∀ x ∈ s.races, x.1 ≠ h) : exec (.copyMem h a b 0) s = .next (afterReply h (Reply.of stDone) s) := by
  have hnone : commandTouches s (.copyMem h a b 0) = [] := by
    rw [commandTouches]
    exact List.append_eq_nil_iff.2 ⟨touchLocal_zero .., touchLocal_zero ..⟩
  show (command h false _).run s = _
  rw [Act.run_eq, command_of_serves hs.serves]
  exact congrArg _ (applyAll_memCommand_zero (.copyMem h a b 0) (copyMemCommand h a b 0) rfl hnone hraces rfl)

theorem exec_loadPlan_zero {k : Byte} (hk : k.toNat ≤ 15) : exec (.loadPlan h a 0 k) s = .next (afterReply h (Reply.of stDone) s) := by
  refine (run_hostCommand hs _).trans ?_
  rw [loadPlan, if_neg (Nat.not_lt.2 hk)]
  rfl

theorem exec_restoreContext_zero {k : Byte} : exec (.restoreContext h a 0 k k) s = .next (afterReply h (Reply.of stDone) s) := by
  show (command h false _).run s = _
  rw [Act.run_eq, command_of_serves hs.serves]
  rfl

/-- A domain block without bytes is none (R337). -/
theorem exec_domainJoin_zero (hbound : s.twin.bound = false) (hmember : s.member = none) (hjoining : s.joining = none)
    (hbinding : s.twin.binding = none) : exec (.domainJoin h 0 a) s = .next (afterReply h (Reply.of stBadParameter) s) := by
  have hblock (bs : List Byte) : parseDomain bs (0 : Word).toNat = none := by
    rw [parseDomain]
    exact if_pos (.inl (by decide))
  refine (run_hostCommand hs _).trans ?_
  simp only [hbound, hmember, hjoining, hbinding, hblock, Option.isSome_none, Bool.or_self, Bool.false_eq_true, if_false, applyAll_finish]

theorem exec_linkConfigure_zero {k : Byte} (hk : k.toNat ≤ 15) : exec (.linkConfigure h k 0 a) s = .next (afterReply h (Reply.badField 36) s) := by
  refine (run_hostCommand hs _).trans ?_
  rw [if_neg (Nat.not_lt.2 hk)]
  rfl
end

/-- Settles O16. -/
theorem lengthZeroDoesNothing : Obligations.LengthZeroDoesNothing := by
  unfold Obligations.LengthZeroDoesNothing
  refine ⟨fun h a b w k s hs hraces => ⟨exec_writeMem_zero hs hraces, exec_readMem_zero hs hraces, exec_fillMem_zero hs hraces,
    exec_copyMem_zero hs hraces, exec_loadPlan_zero hs, ?_, ?_, ?_, exec_restoreContext_zero hs⟩,
    fun h a k s hs => ⟨?_, ?_, exec_linkConfigure_zero hs, exec_domainJoin_zero hs⟩⟩
  · exact run_hostCommand hs _
  · exact run_hostCommand hs _
  · exact run_hostCommand hs.recovery _
  · exact run_hostCommand hs _
  · exact run_hostCommand hs _

end Sys2Proof.Machine
end

section
/-! What messages leave (R320 to R333): they go out of ports and come into them, and all else stays, the ports' states among it. -/
namespace Sys2Proof.Machine

/-- Writes that keep a property, and then an activity that does. -/
theorem Act.Keeps.after {P : State → Prop} {a : Act} (ha : a.Keeps P) {es : List Eff} {t : State} (h : P (applyAll es t)) :
    P (applyAll (Act.seq (Act.of es) a t) t) := by
  rw [applyAll_seq]
  exact ha _ h

/-! ### The state of a port (R334) -/

/-- What flits and messages never change in a port: its state, and whether it is enabled or sheeted. -/
def Link.phase (l : Link) : LinkState × Bool × Bool := (l.state, l.enable, l.sheeted)

theorem Link.phase_emitData (l : Link) (vc : Nat) (upper : Bool) (ms : List Routed) (body : List Byte) :
    (l.emitData vc upper ms body).phase = l.phase := rfl

theorem Link.phase_fill (ring : Bool) (v : Nat) (upper : Bool) (n room : Nat) (l : Link) :
    (Link.fill ring v upper n room l).2.2.phase = l.phase := by
  induction n generalizing room l with
  | zero => rfl
  | succ n ih =>
    unfold Link.fill
    split
    · rfl
    · split
      · rfl
      · split
        · exact (ih _ _).trans rfl
        · rfl

theorem Link.phase_sendFrom (l : Link) (ring : Bool) (v : Nat) (m : LinkMsg) : (l.sendFrom ring v m).phase = l.phase :=
  (Link.phase_emitData ..).trans (Link.phase_fill ..)

theorem Link.phase_slot {l l' : Link} {ring : Bool} (h : l.slot ring = some l') : l'.phase = l.phase := by
  have hshared (v : Nat) (m : LinkMsg) : ((if v = 2 then l else l.share ring (some v)).sendFrom ring v m).phase = l.phase := by
    rw [Link.phase_sendFrom]
    split <;> rfl
  unfold Link.slot at h
  extract_lets live at h
  split at h
  · split at h
    · exact Option.some.inj h ▸ rfl
    · split at h
      · exact Option.some.inj h ▸ hshared _ _
      · exact Option.some.inj h ▸ rfl
  · exact Option.some.inj h ▸ hshared _ _
  · cases h

theorem Link.phase_pump (ring : Bool) (n : Nat) (l : Link) : (Link.pump ring n l).1.phase = l.phase := by
  induction n generalizing l with
  | zero => rfl
  | succ n ih =>
    unfold Link.pump
    split
    · rfl
    next l' hslot => exact (ih l').trans (Link.phase_slot hslot)

/-! ### Messages -/

/-- A state without its ports' queues, what waits for a port, the messages handed over, the counters and the ledger. -/
def State.beyondLinks (s : State) : State :=
  { s with
    links := []
    held := []
    outbox := []
    counters := []
    ledger := []
    ledgerNext := 0 }

/-- Messages have gone or come: nothing else has changed, and every port is as enabled and as trained as it was. -/
structure Passed (s t : State) : Prop where
  rest : t.beyondLinks = s.beyondLinks
  wf : Tab.wf Link.reset t.links = true
  phase : ∀ p, (t.link p).phase = (s.link p).phase

theorem Passed.refl {s : State} (hw : Tab.wf Link.reset s.links = true) : Passed s s := ⟨rfl, hw, fun _ => rfl⟩

section
variable {s t : State}

theorem Passed.twin (h : Passed s t) : t.twin = s.twin := (congrArg State.twin h.rest :)
theorem Passed.mem (h : Passed s t) : t.mem = s.mem := (congrArg State.mem h.rest :)
theorem Passed.host (h : Passed s t) : t.host = s.host := (congrArg State.host h.rest :)
theorem Passed.chutes (h : Passed s t) : t.chutes = s.chutes := (congrArg State.chutes h.rest :)
theorem Passed.started (h : Passed s t) : t.started = s.started := (congrArg State.started h.rest :)
theorem Passed.slots (h : Passed s t) : t.slots = s.slots := (congrArg State.slots h.rest :)
theorem Passed.ports (h : Passed s t) : t.ports = s.ports := (congrArg State.ports h.rest :)
theorem Passed.regions (h : Passed s t) : t.regions = s.regions := (congrArg State.regions h.rest :)

theorem Passed.up (h : Passed s t) (p : Nat) : t.up p = s.up p := by
  rw [State.up, State.up, show (t.link p).state = (s.link p).state from congrArg Prod.fst (h.phase p)]

/-- A port is written with the state that it has. -/
theorem Passed.link (h : Passed s t) {p : Nat} {v : Link} (hv : v.phase = (t.link p).phase) : Passed s (applyEff t (.link p v)) where
  rest := h.rest
  wf := Tab.wf_put _ _ _ _ h.wf
  phase := fun j => by
    have hlook : (applyEff t (.link p v)).link j = if j = p then v else t.link j := Tab.look_put _ _ _ _ _ h.wf
    rw [hlook]
    split
    next hj => exact hj ▸ hv.trans (h.phase p)
    next => exact h.phase j

theorem Passed.count (h : Passed s t) (id n : Nat) : Passed s (applyEff t (.count id n)) := by
  rw [applyEff_count]
  obtain ⟨c, hc | ⟨e, src, d, hc⟩⟩ := t.bump_cases id n <;> exact hc ▸ ⟨h.rest, h.wf, h.phase⟩

theorem Passed.held (h : Passed s t) (l : List Routed) : Passed s (applyEff t (.held l)) := ⟨h.rest, h.wf, h.phase⟩
theorem Passed.outbox (h : Passed s t) (l : List Sent) : Passed s (applyEff t (.outbox l)) := ⟨h.rest, h.wf, h.phase⟩
end

section
variable {s : State}

theorem Passed.pumpPort (p : Nat) (owed : Bool) : (pumpPort p owed).Keeps (Passed s) := fun t h => by
  unfold Machine.pumpPort
  extract_lets l r idle l' n
  split
  · exact h
  · have hl : l'.phase = (t.link p).phase := by
      have hr : r.1.phase = (t.link p).phase := Link.phase_pump _ _ _
      show (if idle then r.1.emit 0 0 2 [] else r.1).phase = _
      split
      · exact hr
      · exact hr
    rw [applyAll_cons]
    split
    · exact h.link hl
    · exact (h.link hl).count _ _

theorem Passed.pushPort (p : Nat) (m : LinkMsg) : (pushPort p m).Keeps (Passed s) := fun t h =>
  (Passed.pumpPort p false).after (h.link (p := p) (v := { t.link p with waiting := (t.link p).waiting ++ [m] }) rfl)

theorem Passed.route (r : Routed) : (route r).Keeps (Passed s) := fun t h => by
  unfold Machine.route
  extract_lets ps
  split
  · exact h.held _
  · exact Passed.pushPort _ _ t h

/-- What a port sends does not depend on the messages handed over before. -/
theorem pushPort_outbox (p : Nat) (m : LinkMsg) (t : State) (l : List Sent) : pushPort p m (applyEff t (.outbox l)) = pushPort p m t := rfl

theorem Passed.sendFrom (cls : Nat) (came : Option Nat) (m : Sent) : (sendFrom cls came m).Keeps (Passed s) := fun t h => by
  have houtbox := h.outbox (t.outbox ++ [m])
  unfold Machine.sendFrom Machine.route
  extract_lets ps
  rw [applyAll_cons]
  split
  · exact houtbox.held _
  next p _ => exact pushPort_outbox p _ t _ ▸ Passed.pushPort p _ _ houtbox

theorem Passed.send (m : Sent) : (send m).Keeps (Passed s) := Passed.sendFrom 1 none m

theorem Passed.sendTwin (kind value : Nat) (body : List Byte) : (sendTwin kind value body).Keeps (Passed s) := Act.Keeps.each Passed.send _

theorem Passed.routeHeld : routeHeld.Keeps (Passed s) := fun t h => (Act.Keeps.each Passed.route t.held).after (h.held _)

theorem Passed.rerouteFrom (p : Nat) : (rerouteFrom p).Keeps (Passed s) := fun t h => by
  unfold Machine.rerouteFrom
  extract_lets l moves back ms
  exact (Act.Keeps.each Passed.route _).after (h.link rfl)

theorem Passed.replayPort (p : Nat) : (replayPort p).Keeps (Passed s) := fun t h => by
  unfold Machine.replayPort replayAfter
  extract_lets l fs l' n
  split
  · exact h
  · have hl : l'.phase = l.phase := by
      have hfold (fs : List Unacked) (a : Link) : (fs.foldl (fun a x => a.emit x.seq.toNat x.vc 0 x.body) a).phase = a.phase := by
        induction fs generalizing a with
        | nil => rfl
        | cons x fs ih => exact (ih _).trans rfl
      exact hfold _ _
    exact ((h.link hl).count _ _).count _ _

theorem Passed.takeMessage (port : LinkId) (m : Sent) : (takeMessage port m).Keeps (Passed s) := fun t h => by
  unfold Machine.takeMessage takeBytes
  extract_lets p l front
  split
  · exact h
  · exact (Passed.pumpPort p true).after (h.link rfl)

theorem Passed.identify (p : Nat) : (identify p).Keeps (Passed s) := fun t h => by
  unfold Machine.identify
  extract_lets twinPort mode m
  rw [applyAll_cons]
  exact pushPort_outbox p _ t _ ▸ Passed.pushPort p _ _ (h.outbox _)

theorem Passed.dropHeldTwin : dropHeldTwin.Keeps (Passed s) := fun _ h => h.held _
end

theorem State.passed_took {s : State} (hw : Tab.wf Link.reset s.links = true) (port : LinkId) (m : Sent) : Passed s (s.took port m) :=
  Passed.takeMessage port m s (.refl hw)

end Sys2Proof.Machine
end

section
/-! Twin messages and pairs (R391 to R397): what each kind of message does, and what a message handed over leaves. -/
namespace Sys2Proof.Machine

/-! ### Messages of a twin as they come (R328) -/

/-- A state with another pair. -/
def State.withTwin (s : State) (w : Twin) : State := { s with twin := w }

@[simp] theorem State.withTwin_twin (s : State) (w : Twin) : (s.withTwin w).twin = w := rfl

@[simp] theorem State.withTwin_withTwin (s : State) (w v : Twin) : (s.withTwin w).withTwin v = s.withTwin v := rfl

theorem State.withTwin_self (s : State) : s.withTwin s.twin = s := rfl

@[simp] theorem applyAll_twin (s : State) (w : Twin) : applyAll [.twin w] s = s.withTwin w := rfl

/-- A message that leaves a receive buffer leaves the pair as it is. -/
theorem State.twin_took (s : State) (port : LinkId) (m : Sent) : (s.took port m).twin = s.twin :=
  Act.Only.leaves (f := Eff.ofLinks) (g := State.twin) (takeMessage_ofLinks port m) (fun e he t => by
    cases e with
    | link => rfl
    | count id n =>
      rw [applyEff_count]
      obtain ⟨c, h | ⟨e, src, d, h⟩⟩ := t.bump_cases id n <;> rw [h]
      rfl
    | _ => cases he) s

section
variable {s : State} {port : LinkId} {k : Byte} {n : Dword} {body : List Byte}

theorem toNat_ne_zero (hk : k ≠ 0) : k.toNat ≠ 0 := fun h => hk (BitVec.eq_of_toNat_eq h)

/-- Messages from other ports than the twin ports of a pair say nothing. -/
theorem exec_twin_apart {more : Bool} (hclock : clocked s = true) (hk : k ≠ 0)
    (hapart : s.twin.bound = false ∨ port.val ≠ 7 ∧ port.val ≠ 15) :
    exec (.twin port k n ⟨more, body⟩) s = .next (s.took port (.twin k.toNat n.toNat more body)) := by
  have hown : (s.twin.bound && (port.val == 7 || port.val == 15)) = false := by
    rcases hapart with h | ⟨h7, h15⟩
    · rw [h, Bool.false_and]
    · rw [beq_false_of_ne h7, beq_false_of_ne h15, Bool.or_self, Bool.and_false]
  simp only [exec, execTwin, Act.run_eq, hclock, hown, toNat_ne_zero hk, Bool.not_true, Bool.not_false, Bool.false_eq_true, if_true,
    if_false, applyAll_seq, Act.none_apply, applyAll_nil, applyAll_takeMessage]

theorem ownPort_eq (hbound : s.twin.bound = true) (hport : port.val = 7 ∨ port.val = 15) :
    (s.twin.bound && (port.val == 7 || port.val == 15)) = true := by
  rcases hport with h | h <;> rw [hbound, h] <;> rfl

/-- One of several messages with a body between them is kept. -/
theorem exec_twin_more (hclock : clocked s = true) (hk : k ≠ 0) (hbound : s.twin.bound = true) (hport : port.val = 7 ∨ port.val = 15) :
    exec (.twin port k n ⟨true, body⟩) s = .next { s.took port (.twin k.toNat n.toNat true body) with twin := { s.twin with
      part := s.twin.part ++ body } } := by
  simp only [exec, execTwin, Act.run_eq, hclock, ownPort_eq hbound hport, toNat_ne_zero hk, Bool.not_true, Bool.false_eq_true, if_true,
    if_false, applyAll_seq, applyAll_takeMessage, applyAll_twin, State.twin_took]
  rfl

/-- A message with a body of its own. -/
theorem exec_twin_whole (hclock : clocked s = true) (hk : k ≠ 0) (hbound : s.twin.bound = true) (hport : port.val = 7 ∨ port.val = 15)
    (hpart : s.twin.part = []) :
    exec (.twin port k n ⟨false, body⟩) s = .next (applyAll (twinMessage k.toNat n body (s.took port (.twin k.toNat n.toNat false body)))
      (s.took port (.twin k.toNat n.toNat false body))) := by
  have hparts : ({ s.twin with part := [] } : Twin) = s.twin := by rw [← hpart]
  simp only [exec, execTwin, Act.run_eq, hclock, ownPort_eq hbound hport, toNat_ne_zero hk, Bool.not_true, Bool.false_eq_true, if_false,
    applyAll_seq, applyAll_takeMessage, applyAll_twin, State.twin_took, hparts, hpart, List.nil_append]
  rw [← State.twin_took s port (.twin k.toNat n.toNat false body), State.withTwin_self]

/-! ### What each kind says (R392, R393, R397) -/

theorem twinReply_of_status {o r : Reply} (h : o.status = r.status) : twinReply o r = o := if_neg (h ▸ Nat.lt_irrefl _)

/-- The partner's reply to a packet that has completed here too. -/
theorem applyAll_partnerReply {u : State} {f : Forwarded} {o r : Reply} (hfind : u.twin.forwarded.find? (fun f => f.order == n) = some f)
    (hown : f.own = some o) (hstatus : o.status = r.status) {t : State}
    (ht : u.withTwin { u.twin with forwarded := u.twin.forwarded.filter (fun g => g.order != n) } = t) :
    applyAll (partnerReply n r u) u = applyAll (replyEffs f.hdr o t) t := by
  simp only [partnerReply, hfind, hown, hstatus, if_true, applyAll_seq, Act.of_apply, applyAll_twin, twinReply_of_status hstatus, ht]

/-- A request for a number, at the twin that orders. -/
theorem applyAll_packetRequest {u : State} (horder : orderer u = true) :
    applyAll (twinMessage 4 n body u) u = u.withTwin { u.twin with requests := u.twin.requests ++
      [⟨n.toNat, toLE 2 (fieldLE body 0 2) ++ (splitBody body).1, (splitBody body).2, .idle, 0, 0⟩] } := by
  simp only [twinMessage, horder, Act.when, if_true, applyAll_twin]

/-- The partner's word on a TWIN_RELEASE that this twin has not come to. -/
theorem applyAll_releaseWord {u : State} (hpaired : u.paired = true) (hn : n.toNat ≠ 2) (hreleasing : u.twin.releasing = none) :
    applyAll (twinMessage 10 n body u) u = u.withTwin { u.twin with partnerBusy := some (n.toNat == 1) } := by
  simp only [twinMessage, hpaired, hn, Act.when, if_true, if_false, applyAll_seq, Act.of_apply, applyAll_twin, tryRelease,
    State.withTwin_twin, hreleasing, applyAll_nil]

/-- Work with a number that is not the next waits. -/
theorem applyAll_partnerWrite_waits {u : State} {v : TwinWork} (hwork : parseWork body = some v) (hin : u.twin.steppedOut = false)
    (hwaiting : u.twin.waiting = []) (hask : n ≠ BitVec.allOnes 64) (hwrite : n ≠ BitVec.allOnes 64 - 1) (hn : n ≠ u.twin.order) :
    applyAll (twinMessage 5 n body u) u = u.withTwin { u.twin with waiting := [(n, v)] } := by
  have hnot : (n == u.twin.order) = false := beq_false_of_ne hn
  simp only [twinMessage, hin, Act.when, Bool.not_false, if_true, partnerWrite, hwork, hask, hwrite, if_false, applyAll_seq, applyAll_twin,
    State.withTwin_twin, hwaiting, List.nil_append, drainAll, List.length_singleton, drain, startNext, List.find?_cons, hnot, List.find?_nil,
    ite_self, List.isEmpty_nil, applyAll_nil]
end

end Sys2Proof.Machine
end

section
/-! The step-out of a twin (R395): the one that stops has no run left, and the one that goes on is marked so. -/
namespace Sys2Proof.Machine

/-- A step-out of a device without a pair does nothing. -/
theorem exec_stepOut_unbound {s : State} (hbound : s.twin.bound = false) (own : Bool) : exec (.stepOut own) s = .next s := by
  simp only [exec, execStepOut, Act.run_eq, stepOutAct, hbound, Bool.not_false, Bool.true_or, if_true, applyAll_nil]

/-- What the record and the event of a step-out leave. -/
def State.toldOut (s : State) (which : Nat) : State :=
  { s.log 0x0113 0 (toLE 1 which) with
    ports := Tab.put Port.reset (Tab.put Port.reset s.ports 0 ((s.port 0).event 2)) 1 ((s.port 1).event 2) }

/-- A twin whose partner has stepped out, while no packet waits for the partner's completion. -/
def State.goesOnAlone (s : State) : State :=
  (s.toldOut (b2n (s.twin.mode == false))).withTwin { s.twin with
    partnerOut := true
    releasing := none
    asked := [] }

/-- Landings that wait for the partner's word are confirmed. -/
def confirmWaiting (l : List Nat) : Act :=
  Act.each (fun n => withRun n (fun _ q => match q.landings.waiting with
    | some (k, _) => confirm n k
    | none => Act.none)) l

/-- Slots with a run. -/
def State.running (s : State) : List Nat := (List.range 16).filter (fun n => (s.slot n).run.isSome)

theorem State.running_nil {s : State} (h : ∀ n, n < 16 → (s.slot n).run = none) : s.running = [] :=
  List.filter_eq_nil_iff.2 fun n hn => by simp [h n (List.mem_range.1 hn)]

section
variable {s : State} (hbound : s.twin.bound = true) (hin : s.twin.steppedOut = false) (hpartner : s.twin.partnerOut = false)
include hbound hin hpartner

theorem applyAll_stepOut_partner (hforwarded : s.twin.forwarded = []) :
    applyAll (stepOutAct false s) s = applyAll (confirmWaiting s.running s.goesOnAlone) s.goesOnAlone := by
  have hsettle (u : State) (hu : u.twin.forwarded = []) : applyAll (settleTwin false u) u = u.withTwin { u.twin with asked := [] } := by
    simp only [settleTwin, hu, List.filter_nil, Bool.false_eq_true, if_false, applyAll_seq, Act.of_apply, applyAll_twin]
    rfl
  simp only [stepOutAct, hbound, hin, hpartner, Bool.not_true, Bool.or_self, Bool.false_eq_true, if_false, Act.all_cons, Act.all_nil,
    applyAll_seq, Act.none_apply, applyAll_nil, applyAll_twin]
  rw [hsettle _ (by exact hforwarded)]
  rfl

theorem exec_stepOut_partner (hforwarded : s.twin.forwarded = []) (hruns : ∀ n, n < 16 → (s.slot n).run = none) :
    exec (.stepOut false) s = .next s.goesOnAlone := by
  rw [exec, execStepOut, Act.run_eq, applyAll_stepOut_partner hbound hin hpartner hforwarded, State.running_nil hruns]
  rfl
end

end Sys2Proof.Machine
end

section
/-! TWIN_BIND (R391): it waits with its ports enabled, and the pair forms once both are UP and the partner names the other mode. -/
namespace Sys2Proof.Machine

/-! ### Ports that are needed -/

theorem State.link_withLink {s : State} (hw : Tab.wf Link.reset s.links = true) (p j : Nat) (v : Link) :
    (s.withLink p v).link j = if j = p then v else s.link j := Tab.look_put _ _ _ _ _ hw

theorem State.withLink_wf {s : State} (hw : Tab.wf Link.reset s.links = true) (p : Nat) (v : Link) :
    Tab.wf Link.reset (s.withLink p v).links = true := Tab.wf_put _ _ _ _ hw

/-- Nothing has changed but ports, what they send, and the ledger; no port but `p` has changed its state, and `p` is UP as before. -/
structure Opened (p : Nat) (s t : State) : Prop where
  rest : t.beyondLinks = s.beyondLinks
  wf : Tab.wf Link.reset t.links = true
  others : ∀ j, j ≠ p → (t.link j).phase = (s.link j).phase
  up : t.up p = s.up p

theorem Passed.opened {s t : State} (h : Passed s t) (p : Nat) : Opened p s t := ⟨h.rest, h.wf, fun j _ => h.phase j, h.up p⟩

section
variable {p : Nat} {s t : State}

theorem Opened.twin (h : Opened p s t) : t.twin = s.twin := (congrArg State.twin h.rest :)
theorem Opened.mem (h : Opened p s t) : t.mem = s.mem := (congrArg State.mem h.rest :)
theorem Opened.host (h : Opened p s t) : t.host = s.host := (congrArg State.host h.rest :)
theorem Opened.chutes (h : Opened p s t) : t.chutes = s.chutes := (congrArg State.chutes h.rest :)

theorem Opened.trans {u : State} (h : Opened p s t) (h' : Opened p t u) : Opened p s u where
  rest := h'.rest.trans h.rest
  wf := h'.wf
  others j hj := (h'.others j hj).trans (h.others j hj)
  up := h'.up.trans h.up

theorem Opened.up_eq (h : Opened p s t) (j : Nat) : t.up j = s.up j := by
  by_cases hj : j = p
  · exact hj ▸ h.up
  · rw [State.up, State.up, show (t.link j).state = (s.link j).state from congrArg Prod.fst (h.others j hj)]

@[simp] theorem State.log_links (s : State) (e src : Nat) (d : List Byte) : (s.log e src d).links = s.links := rfl

theorem State.log_link (s : State) (e src : Nat) (d : List Byte) (j : Nat) : (s.log e src d).link j = s.link j := rfl

/-- A port is written with a state that is UP where the one it had is. -/
theorem opened_withLink (hw : Tab.wf Link.reset s.links = true) {v : Link} (hv : (v.state == .up) = s.up p) : Opened p s (s.withLink p v) where
  rest := rfl
  wf := Tab.wf_put _ _ _ _ hw
  others j hj := by rw [State.link_withLink hw, if_neg hj]
  up := by rw [State.up, State.link_withLink hw, if_pos rfl, hv]

/-- A port that is not UP changes to another state than UP: its state, and a record. -/
theorem applyAll_linkTo {x : LinkState} (hx : x ≠ .up) (hup : (s.link p).state ≠ .up) (hne : (s.link p).state ≠ x) :
    applyAll (linkTo p x s) s = (s.withLink p { s.link p with state := x }).log 0x0400 (srcLink p)
      (toLE 1 (s.link p).state.code ++ toLE 1 x.code) := by
  unfold linkTo
  simp only [hne, hup, if_false, applyAll_seq, Act.of_apply]
  cases x with
  | up => exact absurd rfl hx
  | _ => rfl

theorem applyAll_linkTo_same {x : LinkState} (h : (s.link p).state = x) : applyAll (linkTo p x s) s = s := by
  simp only [linkTo, h, if_true, applyAll_nil]

theorem linkTo_opened (hw : Tab.wf Link.reset s.links = true) {x : LinkState} (hx : x ≠ .up) (hup : (s.link p).state ≠ .up) :
    Opened p s (applyAll (linkTo p x s) s) ∧ ((applyAll (linkTo p x s) s).link p).phase = (x, (s.link p).enable, (s.link p).sheeted) := by
  by_cases hne : (s.link p).state = x
  · rw [applyAll_linkTo_same hne]
    exact ⟨(Passed.refl hw).opened p, congrArg (·, _) hne⟩
  · have hwrite : Opened p s (s.withLink p { s.link p with state := x }) :=
      opened_withLink hw (by rw [State.up, beq_false_of_ne hup, beq_false_of_ne hx])
    rw [applyAll_linkTo hx hup hne, State.log_link, State.link_withLink hw, if_pos rfl]
    exact ⟨{ hwrite with }, rfl⟩

/-- A port as it starts training. -/
def Link.opening (l : Link) : Link := { l.cleared with enable := true }

theorem trainPort_opened (hw : Tab.wf Link.reset s.links = true) (hup : (s.link p).state ≠ .up) :
    Opened p s (applyAll (trainPort p s) s)
      ∧ (((applyAll (trainPort p s) s).link p).enable = true ∨ ((applyAll (trainPort p s) s).link p).sheeted = true) := by
  by_cases hsheeted : (s.link p).sheeted = true
  · simp only [trainPort, hsheeted, if_true, applyAll_nil]
    exact ⟨(Passed.refl hw).opened p, .inr trivial⟩
  · have htrain : applyAll (trainPort p s) s = applyAll (linkTo p .training (s.withLink p (s.link p).opening))
        (s.withLink p (s.link p).opening) := by
      simp only [trainPort, hsheeted]
      exact applyAll_seq ..
    have hwrite : Opened p s (s.withLink p (s.link p).opening) := opened_withLink hw rfl
    have hlink : (s.withLink p (s.link p).opening).link p = (s.link p).opening := by
      rw [State.link_withLink hw, if_pos rfl]
    obtain ⟨hopened, hphase⟩ := linkTo_opened (x := .training) hwrite.wf (by decide) (by rw [hlink]; exact hup)
    rw [htrain]
    refine ⟨hwrite.trans hopened, .inl ((congrArg (fun x => x.2.1) hphase).trans (congrArg Link.enable hlink))⟩
end

/-- A port that is needed: the one that verifies or is UP names this device, and another is enabled. -/
def needPort (p : Nat) : Act := fun s => if (s.link p).state = .verify ∨ s.up p = true then identify p s else enablePort p s

theorem needPort_opened {s : State} (hw : Tab.wf Link.reset s.links = true) (p : Nat)
    (hlive : (s.link p).state = .verify ∨ s.up p = true → (s.link p).enable = true) :
    Opened p s (applyAll (needPort p s) s)
      ∧ (((applyAll (needPort p s) s).link p).enable = true ∨ ((applyAll (needPort p s) s).link p).sheeted = true) := by
  have hrefl : Passed s s := .refl hw
  unfold needPort
  split
  next h =>
    have hpassed := Passed.identify p s hrefl
    exact ⟨hpassed.opened p, .inl ((congrArg (fun x => x.2.1) (hpassed.phase p)).trans (hlive h))⟩
  next h =>
    unfold enablePort
    split
    next henable => exact ⟨hrefl.opened p, .inl henable⟩
    next => exact trainPort_opened hw fun hu => h (.inr (by rw [State.up, hu]; rfl))

/-! ### The command -/

theorem tryBind_waits {s : State} (h : (s.up 7 && s.up 15) = false) : tryBind s = [] := by
  unfold tryBind
  split
  · rw [h]
    rfl
  · rfl

/-- Both ports are UP and the partner has named a mode: the pair forms, or the modes are equal. -/
theorem applyAll_tryBind {s : State} {h : Hdr} {mode other : Bool} (hbinding : s.twin.binding = some (h, mode))
    (hpartner : s.twin.partnerBind = some other) (h7 : s.up 7 = true) (h15 : s.up 15 = true) :
    applyAll (tryBind s) s = if mode = other then
        afterReply h ⟨stBadParameter, 0, 0, 1, 0, false, 0⟩ (s.withTwin { s.twin with
          binding := none
          partnerBind := none })
      else afterReply h (Reply.done (b2n mode) 0 0) (s.withTwin { Twin.reset with
        bound := true
        mode := mode }) := by
  simp only [tryBind, hbinding, hpartner, h7, h15, Bool.and_self, Bool.not_true, Bool.false_eq_true, if_false]
  split <;> (rw [applyAll_seq]; rfl)

/-- A device that asks for a pair. -/
def State.asking (s : State) (h : Hdr) (mode : Byte) : State := s.withTwin { s.twin with binding := some (h, mode == 1) }

section
variable {h : Hdr} {mode : Byte} {s : State} (hs : Serves s false) (hmode : mode.toNat ≤ 1)
include hs hmode

theorem exec_twinBind_member (hmember : s.member.isSome = true) :
    exec (.twinBind h mode) s = .next (afterReply h (Reply.of stBadParameter) s) := by
  simp only [exec, execTwinBind, Act.run_eq, command_of_serves hs, Nat.not_lt.2 hmode, hmember, if_false, if_true, applyAll_finish]

/-- What keeps a device from a pair. -/
theorem exec_twinBind_busy (hmember : s.member = none)
    (hbusy : s.twin.bound = true ∨ s.twin.binding.isSome = true ∨ s.joining.isSome = true ∨ (∃ x ∈ s.slots, x.2.plan.isSome = true)
      ∨ (∃ x ∈ s.streams, x.2.opened = true)) :
    exec (.twinBind h mode) s = .next (afterReply h (Reply.of stBusy) s) := by
  have hany : (s.twin.bound || s.twin.binding.isSome || s.joining.isSome || s.slots.any (fun x => x.2.plan.isSome)
      || s.streams.any (fun x => x.2.opened)) = true := by
    simpa only [Bool.or_eq_true, List.any_eq_true, or_assoc] using hbusy
  simp only [exec, execTwinBind, Act.run_eq, command_of_serves hs, Nat.not_lt.2 hmode, hmember, hany, Option.isSome_none, Bool.false_eq_true,
    if_false, if_true, applyAll_finish]

/-- The device asks for a pair. -/
theorem exec_twinBind (hmember : s.member = none) (hbound : s.twin.bound = false) (hbinding : s.twin.binding = none)
    (hjoining : s.joining = none) (hplans : ∀ x ∈ s.slots, x.2.plan = none) (hstreams : ∀ x ∈ s.streams, x.2.opened = false)
    {u v : State} (hu : applyAll (needPort 7 (s.asking h mode)) (s.asking h mode) = u) (hv : applyAll (needPort 15 u) u = v) :
    exec (.twinBind h mode) s = .next (applyAll (tryBind v) v) := by
  have hfree : (s.twin.bound || s.twin.binding.isSome || s.joining.isSome || s.slots.any (fun x => x.2.plan.isSome)
      || s.streams.any (fun x => x.2.opened)) = false := by
    simp only [hbound, hbinding, hjoining, Option.isSome_none, Bool.or_self, Bool.false_or, Bool.or_eq_false_iff, List.any_eq_false]
    exact ⟨fun x hx => by simp [hplans x hx], fun x hx => by simp [hstreams x hx]⟩
  simp only [exec, execTwinBind, Act.run_eq, command_of_serves hs, Nat.not_lt.2 hmode, hmember, hfree, Option.isSome_none, Bool.false_eq_true,
    if_false, Act.all_cons, Act.all_nil, applyAll_seq, Act.none_apply, applyAll_nil, Act.of_apply, applyAll_twin, Act.each, List.map_cons,
    List.map_nil, ← hv, ← hu]
  rfl
end

end Sys2Proof.Machine
end

section
/-! TWIN_BIND as the obligation states it, and the partner's identity (R334, R391). -/
namespace Sys2Proof.Machine

section
variable {h : Hdr} {mode : Byte} {s : State}

theorem b2n_mode (hmode : mode.toNat ≤ 1) : b2n (mode == 1) = mode.toNat := by
  rcases Nat.le_one_iff_eq_zero_or_eq_one.1 hmode with h0 | h1
  · rw [show mode = 0 from BitVec.eq_of_toNat_eq h0]; rfl
  · rw [show mode = 1 from BitVec.eq_of_toNat_eq h1]; rfl

theorem modes_differ (hmode : mode.toNat ≤ 1) (other : Bool) : (mode == 1) = other ↔ ¬ other = (mode == 0) := by
  rcases Nat.le_one_iff_eq_zero_or_eq_one.1 hmode with h0 | h1
  · rw [show mode = 0 from BitVec.eq_of_toNat_eq h0]; cases other <;> decide
  · rw [show mode = 1 from BitVec.eq_of_toNat_eq h1]; cases other <;> decide

variable (hs : Serves s false) (hmode : mode.toNat ≤ 1) (hmember : s.member = none) (hbound : s.twin.bound = false)
  (hbinding : s.twin.binding = none) (hjoining : s.joining = none) (hplans : ∀ x ∈ s.slots, x.2.plan = none)
  (hstreams : ∀ x ∈ s.streams, x.2.opened = false) (hw : Tab.wf Link.reset s.links = true)
include hs hmode hmember hbound hbinding hjoining hplans hstreams hw

/-- One of the two ports is not UP yet. -/
theorem exec_twinBind_waits (hdown : (s.up 7 && s.up 15) = false)
    (hlive : ∀ p ∈ [7, 15], (s.link p).state = .verify ∨ s.up p = true → (s.link p).enable = true) :
    ∃ t, exec (.twinBind h mode) s = .next t ∧ t.twin.binding = some (h, mode == 1) ∧ t.twin.bound = false
      ∧ (∀ p ∈ [7, 15], (t.link p).enable = true ∨ (t.link p).sheeted = true) ∧ t.mem = s.mem ∧ t.host = s.host ∧ t.chutes = s.chutes := by
  obtain ⟨hlive7, hlive15, -⟩ : _ ∧ _ ∧ _ := by simpa only [List.forall_mem_cons] using hlive
  obtain ⟨u, hueq⟩ : ∃ u, applyAll (needPort 7 (s.asking h mode)) (s.asking h mode) = u := ⟨_, rfl⟩
  obtain ⟨v, hveq⟩ : ∃ v, applyAll (needPort 15 u) u = v := ⟨_, rfl⟩
  have hask := exec_twinBind hs hmode hmember hbound hbinding hjoining hplans hstreams hueq hveq
  obtain ⟨hu, hu7⟩ := needPort_opened (s := s.asking h mode) hw 7 hlive7
  rw [hueq] at hu hu7
  have hphase15 := hu.others 15 (by decide)
  obtain ⟨hv, hv15⟩ := needPort_opened hu.wf 15 (by
    rw [hu.up_eq, show (u.link 15).state = (s.link 15).state from congrArg Prod.fst hphase15,
      show (u.link 15).enable = (s.link 15).enable from congrArg (fun x => x.2.1) hphase15]
    exact hlive15)
  rw [hveq] at hv hv15
  have hv7 : (v.link 7).enable = true ∨ (v.link 7).sheeted = true := by
    have hphase7 := hv.others 7 (by decide)
    rw [show (v.link 7).enable = (u.link 7).enable from congrArg (fun x => x.2.1) hphase7,
      show (v.link 7).sheeted = (u.link 7).sheeted from congrArg (fun x => x.2.2) hphase7]
    exact hu7
  have htwin := hv.twin.trans hu.twin
  have hstill : tryBind v = [] := tryBind_waits (by rw [hv.up_eq, hv.up_eq, hu.up_eq, hu.up_eq]; exact hdown)
  rw [hstill, applyAll_nil] at hask
  refine ⟨v, hask, by rw [htwin]; rfl, by rw [htwin]; exact hbound, ?_, hv.mem.trans hu.mem, hv.host.trans hu.host, hv.chutes.trans hu.chutes⟩
  exact List.forall_mem_cons.2 ⟨hv7, List.forall_mem_cons.2 ⟨hv15, fun _ hp => absurd hp List.not_mem_nil⟩⟩

/-- Both ports are UP, and the partner's identity has come. -/
theorem exec_twinBind_decided {other : Bool} (hup : ∀ p ∈ [7, 15], s.up p = true) (hpartner : s.twin.partnerBind = some other) :
    let asked : State := { s with twin := { s.twin with binding := some (h, mode == 1) } }
    let u := applyAll (Act.seq (identify 7) (identify 15) asked) asked
    exec (.twinBind h mode) s = .next (if other = (mode == 0) then
        afterReply h (Reply.done mode.toNat 0 0) { u with twin := { Twin.reset with
          bound := true
          mode := mode == 1 } }
      else afterReply h ⟨stBadParameter, 0, 0, 1, 0, false, 0⟩ { u with twin := { s.twin with
        binding := none
        partnerBind := none } }) := by
  intro asked u
  obtain ⟨h7, h15, -⟩ : _ ∧ _ ∧ _ := by simpa only [List.forall_mem_cons] using hup
  have hasked : Passed asked asked := .refl hw
  have hv := Passed.identify 7 asked hasked
  have hu : Passed asked u := (Passed.identify 7).seq (Passed.identify 15) asked hasked
  have hneed7 : needPort 7 asked = identify 7 asked := if_pos (.inr h7)
  have hneed15 : needPort 15 (applyAll (identify 7 asked) asked) = identify 15 (applyAll (identify 7 asked) asked) :=
    if_pos (.inr (by rw [hv.up]; exact h15))
  have hseq : applyAll (needPort 15 (applyAll (identify 7 asked) asked)) (applyAll (identify 7 asked) asked) = u :=
    hneed15 ▸ (applyAll_seq ..).symm
  have hask := exec_twinBind (h := h) hs hmode hmember hbound hbinding hjoining hplans hstreams (congrArg (applyAll · asked) hneed7) hseq
  rw [applyAll_tryBind (h := h) (mode := mode == 1) (other := other) (by rw [hu.twin]) (by rw [hu.twin]; exact hpartner)
    (by rw [hu.up]; exact h7) (by rw [hu.up]; exact h15), hu.twin, b2n_mode hmode] at hask
  rw [hask]
  simp only [modes_differ hmode, ite_not]
  rfl
end

/-! ### The partner's identity -/

/-- A port that has come UP from VERIFY, with its record. -/
def State.withUp (s : State) (p : Nat) : State :=
  (s.withLink p { s.link p with state := .up }).log 0x0400 (srcLink p) (toLE 1 LinkState.verify.code ++ toLE 1 LinkState.up.code)

@[simp] theorem State.mem_withUp (s : State) (p : Nat) : (s.withUp p).mem = s.mem := rfl
@[simp] theorem State.host_withUp (s : State) (p : Nat) : (s.withUp p).host = s.host := rfl

section
variable {s : State} (hw : Tab.wf Link.reset s.links = true)
include hw

theorem State.withUp_wf (p : Nat) : Tab.wf Link.reset (s.withUp p).links = true := by
  rw [State.withUp, State.log_links]
  exact State.withLink_wf hw _ _

theorem State.link_withUp (p j : Nat) : (s.withUp p).link j = if j = p then { s.link p with state := .up } else s.link j := by
  rw [State.withUp, State.log_link, State.link_withLink hw]

theorem State.up_withUp (p j : Nat) : (s.withUp p).up j = (j == p || s.up j) := by
  rw [State.up, State.link_withUp hw]
  by_cases hj : j = p
  · rw [if_pos hj, beq_iff_eq.2 hj, Bool.true_or, beq_self_eq_true]
  · rw [if_neg hj, beq_false_of_ne hj, Bool.false_or, State.up]

/-- A port that verifies comes UP, and takes what waits for it. -/
theorem linkTo_up {p : Nat} (hverify : (s.link p).state = .verify) : Passed (s.withUp p) (applyAll (linkTo p .up s) s) := by
  have hact : linkTo p .up s = Act.seq (Act.of [.link p { s.link p with state := .up },
      .ledger 0x0400 (srcLink p) (toLE 1 LinkState.verify.code ++ toLE 1 LinkState.up.code)])
      (Act.all [replayPort p, pumpPort p false, routeHeld]) s := by
    simp only [linkTo, hverify, reduceCtorEq, if_false]
  rw [hact, applyAll_seq]
  exact ((Passed.replayPort p).seq ((Passed.pumpPort p false).seq (Passed.routeHeld.seq .none))) _ (.refl (State.withUp_wf hw p))

end

/-- The port at which the partner's identity has agreed. -/
def State.identified (s : State) (p : Nat) : State := s.withLink p { s.link p with identityOk := some true }

@[simp] theorem State.mem_identified (s : State) (p : Nat) : (s.identified p).mem = s.mem := rfl
@[simp] theorem State.host_identified (s : State) (p : Nat) : (s.identified p).host = s.host := rfl

/-- What the identity of a partner with the other mode does at a port that verifies. -/
def agreeIdentity (p : Nat) (mode : Bool) : Act :=
  Act.seq (linkTo p .up) (Act.seq (fun s => if s.twin.bound then [] else [.twin { s.twin with partnerBind := some (!mode) }])
    (Act.seq tryBind Act.none))

theorem applyAll_twinIdentity {s : State} {p value : Nat} {h : Hdr} {mode : Bool} (hport : (p == 7 || p == 15) = true)
    (hverify : (s.link p).state = .verify) (hbound : s.twin.bound = false) (hbinding : s.twin.binding = some (h, mode))
    (hvalue : value = 1 + b2n (!mode)) :
    applyAll (twinIdentity p value s) s = applyAll (agreeIdentity p mode (s.identified p)) (s.identified p) := by
  have hmode : (if value = 1 then some false else if value = 2 then some true else none) = some (!mode) := by
    subst hvalue
    cases mode <;> rfl
  have hdown : s.up p = false := by rw [State.up, hverify]; rfl
  have hact : twinIdentity p value s = Act.seq (Act.of [.link p { s.link p with identityOk := some true }]) (agreeIdentity p mode) s := by
    simp only [twinIdentity, hbound, hbinding, hdown, hverify, hmode, hport, Bool.false_eq_true, if_false, Option.map_some,
      Option.isSome_some, Bool.and_self, Bool.not_false, Bool.true_or, if_true, false_and, ne_eq, not_true_eq_false, Option.some_or]
    rfl
  rw [hact, applyAll_seq]
  rfl

/-- The pair forms when its second port comes UP. -/
theorem applyAll_agreeIdentity {s : State} (hw : Tab.wf Link.reset s.links = true) {p other : Nat} {h : Hdr} {mode : Bool}
    (hports : p = 7 ∧ other = 15 ∨ p = 15 ∧ other = 7) (hverify : (s.link p).state = .verify) (hother : s.up other = true)
    (hbound : s.twin.bound = false) (hbinding : s.twin.binding = some (h, mode)) :
    ∃ v, Passed (s.withUp p) v ∧ applyAll (agreeIdentity p mode s) s = afterReply h (Reply.done (b2n mode) 0 0)
      (v.withTwin { Twin.reset with
        bound := true
        mode := mode }) := by
  have hpassed := linkTo_up hw hverify
  refine ⟨_, hpassed, ?_⟩
  unfold agreeIdentity
  rw [applyAll_seq]
  generalize applyAll (linkTo p .up s) s = v at hpassed
  have htwin : v.twin = s.twin := hpassed.twin
  have hup (j : Nat) (hj : j = p ∨ j = other) : v.up j = true := by
    rw [hpassed.up, State.up_withUp hw]
    rcases hj with rfl | rfl
    · rw [beq_self_eq_true, Bool.true_or]
    · rw [hother, Bool.or_true]
  have hpair := applyAll_tryBind (s := v.withTwin { v.twin with partnerBind := some (!mode) }) (h := h) (mode := mode) (other := !mode)
    (by rw [State.withTwin_twin, htwin]; exact hbinding) rfl (hup 7 (by omega)) (hup 15 (by omega))
  rw [if_neg (by cases mode <;> decide)] at hpair
  rw [applyAll_seq]
  rw [if_neg (by rw [htwin, hbound]; decide), applyAll_twin, applyAll_seq, Act.none_apply, applyAll_nil, hpair]
  rfl

/-- The partner's identity at the second port of a pair that is asked for. -/
theorem exec_twin_identity {s : State} (hw : Tab.wf Link.reset s.links = true) (hclock : clocked s = true) {port : LinkId} {other : Nat}
    {value : Dword} {h : Hdr} {mode : Bool} (more : Bool) (body : List Byte) (hports : port.val = 7 ∧ other = 15 ∨ port.val = 15 ∧ other = 7)
    (hverify : (s.link port.val).state = .verify) (hother : s.up other = true) (hbound : s.twin.bound = false)
    (hbinding : s.twin.binding = some (h, mode)) (hvalue : value.toNat = 1 + b2n (!mode)) :
    ∃ t : State, exec (.twin port 0 value ⟨more, body⟩) s = .next (afterReply h (Reply.done (b2n mode) 0 0) t)
      ∧ t.twin = { Twin.reset with
          bound := true
          mode := mode } ∧ (t.link port.val).state = .up ∧ t.mem = s.mem ∧ t.host = s.host := by
  have htook := State.passed_took hw port (.twin 0 value.toNat more body)
  have hexec : exec (.twin port 0 value ⟨more, body⟩) s = .next (applyAll (twinIdentity port.val value.toNat
      (s.took port (.twin 0 value.toNat more body))) (s.took port (.twin 0 value.toNat more body))) := by
    simp only [exec, execTwin, Act.run_eq, hclock, Bool.not_true, Bool.false_eq_true, if_false, applyAll_seq, applyAll_takeMessage,
      show (0 : Byte).toNat = 0 from rfl, if_true]
  generalize s.took port (.twin 0 value.toNat more body) = u at htook hexec
  have hport : (port.val == 7 || port.val == 15) = true := by rcases hports with ⟨h, -⟩ | ⟨h, -⟩ <;> rw [h] <;> rfl
  have hstate : (u.link port.val).state = .verify := (congrArg Prod.fst (htook.phase port.val)).trans hverify
  have hub : u.twin.bound = false := by rw [htook.twin, hbound]
  have huw : u.twin.binding = some (h, mode) := by rw [htook.twin, hbinding]
  have hlink (j : Nat) : (u.identified port.val).link j = if j = port.val then { u.link port.val with identityOk := some true } else u.link j :=
    State.link_withLink htook.wf _ _ _
  have hwi : Tab.wf Link.reset (u.identified port.val).links = true := State.withLink_wf htook.wf _ _
  obtain ⟨v, hv, hpair⟩ := applyAll_agreeIdentity (s := u.identified port.val) (h := h) (mode := mode) hwi hports
    (by rw [hlink, if_pos rfl]; exact hstate)
    (by rw [State.up, hlink, if_neg (by omega)]; exact (htook.up other).trans hother) hub huw
  have hidentity := applyAll_twinIdentity (s := u) (p := port.val) (value := value.toNat) hport hstate hub huw hvalue
  refine ⟨v.withTwin { Twin.reset with bound := true, mode := mode }, ?_, rfl, ?_, ?_, ?_⟩
  · rw [hexec, hidentity, hpair]
  · refine (congrArg Prod.fst (hv.phase port.val)).trans ?_
    rw [State.link_withUp hwi, if_pos rfl]
    rfl
  · exact hv.mem.trans (by rw [State.mem_withUp, State.mem_identified, htook.mem])
  · exact hv.host.trans (by rw [State.host_withUp, State.host_identified, htook.host])

end Sys2Proof.Machine
end

section
/-! The agreed order (R284, R392): packets of the partner start by their numbers, and an own packet's head passes as its number comes. -/
namespace Sys2Proof.Machine

theorem carry_eq (n : Dword) (i : Instr) (data : List Byte) (u : State) :
    ∃ l, applyAll (carry n i data u) u = u.withTwin { u.twin with carried := l } := by
  unfold carry
  split
  · exact ⟨_, rfl⟩
  · exact ⟨u.twin.carried, rfl⟩

/-! ### The next number -/

/-- A pair whose next piece of work, of number `n`, has started. -/
def Twin.pastNext (w : Twin) (n : Dword) : Twin :=
  { w with
    order := w.order + 1
    waiting := w.waiting.filter (fun x => x.1 != n)
    writes := w.writes.filter (fun x => x.2.1 != some n) }

section
variable {u : State} {n : Dword} {i : Instr} (hreleasing : u.twin.releasing = none) (hwaiting : u.twin.waiting = [(n, .packet i none)])
include hreleasing hwaiting

/-- The only piece of work is the next: its packet starts. -/
theorem applyAll_drainAll_next (hn : n = u.twin.order) :
    applyAll (drainAll u) u = { u.withTwin (u.twin.pastNext n) with started := u.started ++ [i] } := by
  have hfound : (n == u.twin.order) = true := beq_iff_eq.2 hn
  have hstart : startNext u = [.twin (u.twin.pastNext n), .started (u.started ++ [i])] := by
    simp only [startNext, Twin.pastNext, hreleasing, hwaiting, Option.isSome_none, Bool.false_eq_true, if_false, List.find?_cons, hfound,
      hookCovers, Bool.not_true]
    rfl
  simp only [drainAll, hwaiting, List.length_singleton, drain, hstart, List.isEmpty_cons, Bool.false_eq_true, if_false, applyAll_seq]
  rfl

/-- The only piece of work is not the next: it waits. -/
theorem applyAll_drainAll_later (hn : n ≠ u.twin.order) : applyAll (drainAll u) u = u := by
  have hnot : (n == u.twin.order) = false := beq_false_of_ne hn
  simp only [drainAll, hwaiting, List.length_singleton, drain, startNext, hreleasing, Option.isSome_none, Bool.false_eq_true, if_false,
    List.find?_cons, hnot, List.find?_nil, List.isEmpty_nil, if_true, applyAll_nil]
end

/-- A packet of the partner that waits for no hook. -/
theorem applyAll_orderedPacket {u : State} {n : Dword} {body : List Byte} {i : Instr}
    (hinstr : partnerInstr n (fieldLE body 0 1) (splitBody body).1 = some i) (hwait : packetWait (splitBody body).1 = none)
    (hwaiting : u.twin.waiting = []) :
    ∃ l, applyAll (orderedPacket n body u) u =
      applyAll (drainAll (u.withTwin { u.twin with carried := l, waiting := [(n, .packet i none)] }))
        (u.withTwin { u.twin with carried := l, waiting := [(n, .packet i none)] }) := by
  obtain ⟨l, hl⟩ := carry_eq n i (splitBody body).2 u
  refine ⟨l, ?_⟩
  simp only [orderedPacket, hinstr, Act.all_cons, Act.all_nil, applyAll_seq, Act.none_apply, applyAll_nil, applyAll_twin, hl, hwait,
    State.withTwin_twin, State.withTwin_withTwin, hwaiting, List.nil_append]

/-! ### Several pieces of work -/

/-- Packets have started: no memory, chute, or packet with its number has changed. -/
structure PacketsStart (s t : State) : Prop where
  mem : t.mem = s.mem
  host : t.host = s.host
  chutes : t.chutes = s.chutes
  asked : t.twin.asked = s.twin.asked
  forwarded : t.twin.forwarded = s.twin.forwarded
  packets : ∀ x ∈ t.twin.waiting, ∃ i k, x.2 = .packet i k

section
variable {s : State}

theorem PacketsStart.startNext : startNext.Keeps (PacketsStart s) := fun t ht => by
  unfold Machine.startNext
  extract_lets w
  split
  · exact ht
  next n v hfind =>
    obtain ⟨i, k, rfl⟩ : ∃ i k, v = .packet i k := by
      split at hfind
      · cases hfind
      · exact ht.packets (n, v) (List.mem_of_find?_eq_some hfind)
    have hrest : ∀ x ∈ w.waiting.filter (fun x => x.1 != n), ∃ i k, x.2 = .packet i k := fun x hx => ht.packets x (List.mem_filter.1 hx).1
    dsimp only
    split
    · exact ht
    · rw [applyAll_seq]
      cases k with
      | none => exact ⟨ht.mem, ht.host, ht.chutes, ht.asked, ht.forwarded, hrest⟩
      | some k =>
        dsimp only
        rw [List.singleton_append, applyAll_cons, applyEff_hook]
        split <;> exact ⟨ht.mem, ht.host, ht.chutes, ht.asked, ht.forwarded, hrest⟩

theorem PacketsStart.drain (n : Nat) : (drain n).Keeps (PacketsStart s) := by
  induction n with
  | zero => exact .none
  | succ n ih =>
    intro t ht
    unfold Machine.drain
    split
    · exact ht
    · exact PacketsStart.startNext.seq ih t ht

theorem PacketsStart.drainAll : drainAll.Keeps (PacketsStart s) := fun t => PacketsStart.drain _ t
end

/-! ### Own packets (R284) -/

/-- A chute whose head has passed a packet. -/
def Chute.pastHead (c : Chute) (n : Nat) : Chute :=
  { c with
    head := c.head + BitVec.ofNat 32 n
    owed := c.owed + 1
    granted := none
    passes := 0
    promoted := 0
    fetched := [] }

/-- The head of a chute has passed a packet. -/
structure HeadPassed (i n : Nat) (u v : State) : Prop where
  mem : v.mem = u.mem
  host : v.host = u.host
  twin : v.twin = u.twin
  chute : v.chute i = (u.chute i).pastHead n

theorem HeadPassed.count {i n : Nat} {u v : State} (h : HeadPassed i n u v) (id m : Nat) : HeadPassed i n u (v.bump id m) := by
  obtain ⟨c, hc | ⟨e, src, d, hc⟩⟩ := v.bump_cases id m <;> exact hc ▸ ⟨h.mem, h.host, h.twin, h.chute⟩

theorem headPassed {u : State} (hw : Tab.wf Chute.reset u.chutes = true) (i n src : Nat) :
    HeadPassed i n u (applyAll (Act.seq (passHead i n) (bumpAct src 2 1) u) u) := by
  have hpass : HeadPassed i n u (applyAll (passHead i n u) u) :=
    ⟨rfl, rfl, rfl, (Tab.look_put _ _ _ _ _ hw).trans (if_pos rfl)⟩
  rw [applyAll_seq, bumpAct, Act.of_apply, applyAll_cons, applyAll_nil, applyEff_count]
  exact hpass.count _ _

/-- The number of an own packet whose chute is as the packet left it: the head passes it, and it waits for the partner's completion. -/
theorem numbered_passes {u : State} {n : Dword} {id : Nat} {a : Asking} (hw : Tab.wf Chute.reset u.chutes = true)
    (hfind : u.twin.asked.find? (fun a => a.id == id) = some a) (hwaiting : u.twin.waiting = [])
    (hepoch : (u.chute (chuteIx a.hdr.port a.hdr.chute)).epoch = a.hdr.epoch)
    (henable : (u.chute (chuteIx a.hdr.port a.hdr.chute)).enable = true) {t : State} (ht : applyAll (numbered n id u) u = t) :
    t.mem = u.mem ∧ t.host = u.host
      ∧ t.chute (chuteIx a.hdr.port a.hdr.chute)
        = (u.chute (chuteIx a.hdr.port a.hdr.chute)).pastHead (packetEntries (u.chute (chuteIx a.hdr.port a.hdr.chute)) a.packet)
      ∧ t.twin.asked = u.twin.asked.filter (fun b => b.id != id)
      ∧ t.twin.forwarded = u.twin.forwarded ++ [⟨a.hdr, n, none, none⟩] := by
  subst ht
  have hlive : ((u.chute (chuteIx a.hdr.port a.hdr.chute)).epoch == a.hdr.epoch && (u.chute (chuteIx a.hdr.port a.hdr.chute)).enable) = true := by
    rw [hepoch, henable, beq_self_eq_true, Bool.and_self]
  simp only [numbered, hfind, hwaiting, List.nil_append, Act.when, hlive, if_true, Act.all_cons, Act.all_nil]
  rw [applyAll_seq, Act.of_apply, applyAll_twin, applyAll_seq, applyAll_seq, Act.none_apply, applyAll_nil]
  generalize hv : u.withTwin _ = v
  have hhead := headPassed (u := v) (by rw [← hv]; exact hw) (chuteIx a.hdr.port a.hdr.chute)
    (packetEntries (u.chute (chuteIx a.hdr.port a.hdr.chute)) a.packet) (srcHub a.hdr.port.val)
  generalize applyAll (Act.seq (passHead _ _) _ v) v = x at hhead
  have hpackets : ∀ y ∈ x.twin.waiting, ∃ i k, y.2 = .packet i k := by
    rw [hhead.twin, ← hv]
    intro y hy
    rw [State.withTwin_twin] at hy
    split at hy
    · split at hy
      · cases hy
      · exact List.mem_singleton.1 hy ▸ ⟨_, _, rfl⟩
    · cases hy
  have hall := PacketsStart.drainAll (s := x) x ⟨rfl, rfl, rfl, rfl, rfl, hpackets⟩
  subst hv
  refine ⟨hall.mem.trans hhead.mem, hall.host.trans hhead.host, ?_, ?_, ?_⟩
  · exact (congrArg (Tab.look Chute.reset · _) hall.chutes).trans hhead.chute
  · rw [hall.asked, hhead.twin]
    rfl
  · rw [hall.forwarded, hhead.twin]
    rfl

/-! ### The messages -/

section
variable {s : State} {port : LinkId} {n : Dword} {body : List Byte} (hinv : s.Inv) (hclock : clocked s = true)
  (hbound : s.twin.bound = true) (hport : port.val = 7 ∨ port.val = 15) (hpart : s.twin.part = []) (hwaiting : s.twin.waiting = [])
include hinv hclock hbound hport hpart hwaiting

/-- A packet of the partner with its number, where it waits for no hook. -/
theorem exec_twin_packet {i : Instr} (hreleasing : s.twin.releasing = none) (horder : orderer s = false) (hin : s.twin.steppedOut = false)
    (hinstr : partnerInstr n (fieldLE body 0 1) (splitBody body).1 = some i) (hwait : packetWait (splitBody body).1 = none) :
    ∃ t, exec (.twin port 1 n ⟨false, body⟩) s = .next t ∧ t.mem = s.mem ∧ t.host = s.host
      ∧ (n = s.twin.order → t.started = s.started ++ [i] ∧ t.twin.order = n + 1 ∧ t.twin.waiting = [])
      ∧ (n ≠ s.twin.order → t.started = s.started ∧ t.twin.order = s.twin.order ∧ t.twin.waiting = [(n, .packet i none)]) := by
  have hexec := exec_twin_whole (n := n) (body := body) hclock (show (1 : Byte) ≠ 0 by decide) hbound hport hpart
  have htook := State.passed_took hinv.canonical.links port (.twin (1 : Byte).toNat n.toNat false body)
  generalize s.took port (.twin (1 : Byte).toNat n.toNat false body) = u at htook hexec
  have horder' : orderer u = false := by rw [orderer, htook.twin]; exact horder
  have hmessage : twinMessage (1 : Byte).toNat n body u = orderedPacket n body u := by
    rw [show (1 : Byte).toNat = 1 from rfl, twinMessage, horder', htook.twin, hin]
    rfl
  obtain ⟨l, hl⟩ := applyAll_orderedPacket (u := u) hinstr hwait (by rw [htook.twin, hwaiting])
  rw [hmessage, hl] at hexec
  generalize hv : u.withTwin _ = v at hexec
  have hreleasing' : v.twin.releasing = none := by rw [← hv, State.withTwin_twin, htook.twin, hreleasing]
  have hwaiting' : v.twin.waiting = [(n, .packet i none)] := by rw [← hv, State.withTwin_twin]
  have horder'' : v.twin.order = s.twin.order := by rw [← hv, State.withTwin_twin, htook.twin]
  have hmem : v.mem = s.mem := by rw [← hv]; exact htook.mem
  have hhost : v.host = s.host := by rw [← hv]; exact htook.host
  have hstarted : v.started = s.started := by rw [← hv]; exact htook.started
  by_cases hn : n = s.twin.order
  · rw [applyAll_drainAll_next hreleasing' hwaiting' (hn.trans horder''.symm)] at hexec
    refine ⟨_, hexec, hmem, hhost, fun _ => ⟨congrArg (· ++ [i]) hstarted, ?_, ?_⟩, fun h => absurd hn h⟩
    · exact congrArg (· + 1) (horder''.trans hn.symm)
    · show v.twin.waiting.filter (fun x => x.1 != n) = []
      rw [hwaiting']
      simp
  · rw [applyAll_drainAll_later hreleasing' hwaiting' (horder'' ▸ hn)] at hexec
    exact ⟨v, hexec, hmem, hhost, fun h => absurd h hn, fun _ => ⟨hstarted, horder'', hwaiting'⟩⟩

/-- The number of an own packet. -/
theorem exec_twin_number {a : Asking} (hfind : s.twin.asked.find? (fun a => a.id == fieldLE body 0 8) = some a)
    (hepoch : (s.chute (chuteIx a.hdr.port a.hdr.chute)).epoch = a.hdr.epoch)
    (henable : (s.chute (chuteIx a.hdr.port a.hdr.chute)).enable = true) :
    ∃ t, exec (.twin port 2 n ⟨false, body⟩) s = .next t ∧ t.mem = s.mem ∧ t.host = s.host
      ∧ t.chute (chuteIx a.hdr.port a.hdr.chute)
        = (s.chute (chuteIx a.hdr.port a.hdr.chute)).pastHead (packetEntries (s.chute (chuteIx a.hdr.port a.hdr.chute)) a.packet)
      ∧ t.twin.asked = s.twin.asked.filter (fun b => b.id != fieldLE body 0 8)
      ∧ t.twin.forwarded = s.twin.forwarded ++ [⟨a.hdr, n, none, none⟩] := by
  have hexec := exec_twin_whole (n := n) (body := body) hclock (show (2 : Byte) ≠ 0 by decide) hbound hport hpart
  have htook := State.passed_took hinv.canonical.links port (.twin (2 : Byte).toNat n.toNat false body)
  generalize s.took port (.twin (2 : Byte).toNat n.toNat false body) = u at htook hexec
  have hchute (k : Nat) : u.chute k = s.chute k := congrArg (Tab.look Chute.reset · k) htook.chutes
  obtain ⟨hmem, hhost, hhead, hasked, hforwarded⟩ := numbered_passes (u := u) (n := n) (by rw [htook.chutes]; exact hinv.canonical.chutes)
    (by rw [htook.twin]; exact hfind) (by rw [htook.twin, hwaiting]) (by rw [hchute, hepoch]) (by rw [hchute, henable]) rfl
  refine ⟨_, hexec, hmem.trans htook.mem, hhost.trans htook.host, ?_, hasked.trans ?_, hforwarded.trans ?_⟩
  · rw [← hchute]
    exact hhead
  · rw [htook.twin]
  · rw [htook.twin]
end

end Sys2Proof.Machine
end

section
/-! TWIN_RELEASE (R397) up to the decision: both twins tell each other whether a run stands against it. -/
namespace Sys2Proof.Machine

/-! ### Messages handed over (R328) -/

/-- The writes by which a message takes a port, or waits for one. -/
def Eff.routes : Eff → Bool
  | .link .. | .count .. | .held .. => true
  | _ => false

theorem route_routes (r : Routed) : (route r).Only Eff.routes := fun s => by
  have hpump (p : Nat) : (pumpPort p false).Only Eff.routes := Act.Only.mono (f := Eff.ofLinks) (pumpPort_ofLinks p false) fun e he => by
    cases e with
    | link | count => rfl
    | _ => cases he
  unfold route
  extract_lets ps
  split
  · rfl
  · exact Act.Only.seq (fun _ => rfl) (hpump _) s

theorem outbox_send (m : Sent) (s : State) : (applyAll (send m s) s).outbox = s.outbox ++ [m] := by
  have hroute (t : State) : (applyAll (route ⟨1, none, m⟩ s) t).outbox = t.outbox :=
    applyAll_keeps_of (P := fun u => u.outbox = t.outbox) _ (fun e he u hu => by
      have hroutes := List.all_eq_true.1 (route_routes ⟨1, none, m⟩ s) e he
      cases e with
      | link | held => exact hu
      | count id n =>
        rw [applyEff_count]
        obtain ⟨c, h | ⟨e, src, d, h⟩⟩ := u.bump_cases id n <;> exact h ▸ hu
      | _ => cases hroutes) t rfl
  rw [send, sendFrom, applyAll_cons]
  exact hroute _

theorem sendTwin_nil (kind value : Nat) : sendTwin kind value [] = Act.seq (send (.twin kind value false [])) Act.none := rfl

theorem outbox_sendTwin (kind value : Nat) (s : State) :
    (applyAll (sendTwin kind value [] s) s).outbox = s.outbox ++ [.twin kind value false []] := by
  rw [sendTwin_nil, applyAll_seq, Act.none_apply, applyAll_nil, outbox_send]

/-! ### The command -/

theorem runsLeft_iff (s : State) : runsLeft s = true ↔ ∃ x ∈ s.slots, x.2.run.isSome = true := List.any_eq_true

theorem runsLeft_false {s : State} (h : ∀ x ∈ s.slots, x.2.run = none) : runsLeft s = false :=
  List.any_eq_false.2 fun x hx => by simp [h x hx]

section
variable {h : Hdr} {s : State} (hclock : clocked s = true) (hrecovery : s.firmware.recovery = false)
include hclock hrecovery

theorem exec_twinRelease_unbound (hbound : s.twin.bound = false) : exec (.twinRelease h) s = .next (afterReply h (Reply.of stDone) s) := by
  simp only [exec, execTwinRelease, Act.run_eq, hclock, hrecovery, hbound, Bool.not_true, Bool.not_false, Bool.false_eq_true, if_false,
    if_true, applyAll_finish]

theorem exec_twinRelease_running (hbound : s.twin.bound = true) (halone : s.paired = false) (hin : s.twin.steppedOut = false)
    (hruns : runsLeft s = true) : exec (.twinRelease h) s = .next (afterReply h (Reply.of stBusy) s) := by
  simp only [exec, execTwinRelease, Act.run_eq, hclock, hrecovery, hbound, halone, hin, hruns, Bool.not_true, Bool.not_false, Bool.and_self,
    Bool.false_eq_true, if_false, if_true, applyAll_finish]

/-- A twin alone ends the pair. -/
theorem exec_twinRelease_alone (hbound : s.twin.bound = true) (halone : s.paired = false) (hruns : runsLeft s = false) :
    exec (.twinRelease h) s = .next (applyAll
      (Act.all [fun s => [.twin { s.twin with forwarded := s.twin.forwarded.filter (fun f => decide (f.hdr ≠ h)) }],
        finish h stDone, sendTwin 10 2 [], leaveTwin] s) s) := by
  simp only [exec, execTwinRelease, Act.run_eq, hclock, hrecovery, hbound, halone, hruns, Bool.not_true, Bool.and_false, Bool.false_eq_true,
    if_false]

/-- A twin of a pair that has come to the release, with its word on the way to the partner. -/
def State.saysRelease (s : State) (h : Hdr) : State :=
  applyAll (sendTwin 10 (b2n (runsLeft s)) [] (s.withTwin { s.twin with releasing := some (h, runsLeft s) }))
    (s.withTwin { s.twin with releasing := some (h, runsLeft s) })

theorem exec_twinRelease_paired (hpaired : s.paired = true) (hreleasing : s.twin.releasing = none) :
    exec (.twinRelease h) s = .next (applyAll (tryRelease (s.saysRelease h)) (s.saysRelease h)) := by
  have hbound : (!s.twin.bound) = false := by
    rw [State.paired, Bool.and_eq_true, Bool.and_eq_true] at hpaired
    rw [hpaired.1.1, Bool.not_true]
  have hfirst : s.twin.releasing.isSome = false := by rw [hreleasing, Option.isSome_none]
  simp only [exec, execTwinRelease, Act.run_eq, hclock, hrecovery, hbound, hpaired, hfirst, Bool.not_true, Bool.false_eq_true, if_false,
    if_true, Act.all_cons, Act.all_nil, applyAll_seq, Act.none_apply, applyAll_nil, applyAll_twin]
  rfl
end

theorem State.saysRelease_passed {s : State} (hw : Tab.wf Link.reset s.links = true) (h : Hdr) :
    Passed (s.withTwin { s.twin with releasing := some (h, runsLeft s) }) (s.saysRelease h) := Passed.sendTwin _ _ _ _ (.refl hw)

theorem tryRelease_waits {s : State} (h : s.twin.partnerBusy = none) : tryRelease s = [] := by
  unfold tryRelease
  rw [h]
  split
  next heq => cases heq
  next => rfl

/-- The pair's word is complete. -/
theorem applyAll_tryRelease {s : State} {h : Hdr} {busy other : Bool} (hreleasing : s.twin.releasing = some (h, busy))
    (hpartner : s.twin.partnerBusy = some other) :
    let u := s.withTwin { s.twin with
      releasing := none
      partnerBusy := none }
    applyAll (tryRelease s) s = if (busy || other) = true then afterReply h (Reply.of stBusy) u else applyAll (release h u) u := by
  simp only [tryRelease, hreleasing, hpartner, applyAll_seq, Act.of_apply, applyAll_twin]
  split
  · rw [applyAll_finish]
  · rfl

section
variable {h : Hdr} {s : State} (hw : Tab.wf Link.reset s.links = true) (hclock : clocked s = true) (hrecovery : s.firmware.recovery = false)
  (hpaired : s.paired = true) (hreleasing : s.twin.releasing = none)
include hw hclock hrecovery hpaired hreleasing

/-- The partner has not come to it yet. -/
theorem exec_twinRelease_waits (hpartner : s.twin.partnerBusy = none) :
    ∃ t, exec (.twinRelease h) s = .next t ∧ t.twin = { s.twin with releasing := some (h, runsLeft s) }
      ∧ t.outbox = s.outbox ++ [.twin 10 (b2n (runsLeft s)) false []] ∧ t.mem = s.mem ∧ t.host = s.host ∧ t.chutes = s.chutes := by
  have hsaid := State.saysRelease_passed hw h
  have hexec := exec_twinRelease_paired (h := h) hclock hrecovery hpaired hreleasing
  rw [tryRelease_waits (by rw [hsaid.twin]; exact hpartner), applyAll_nil] at hexec
  exact ⟨_, hexec, hsaid.twin, outbox_sendTwin .., hsaid.mem, hsaid.host, hsaid.chutes⟩

/-- A run of either twin stands against it. -/
theorem exec_twinRelease_busy {other : Bool} (hpartner : s.twin.partnerBusy = some other)
    (hbusy : other = true ∨ ∃ x ∈ s.slots, x.2.run.isSome = true) :
    ∃ t, exec (.twinRelease h) s = .next (afterReply h (Reply.of stBusy) t) ∧ t.twin = { s.twin with partnerBusy := none }
      ∧ t.mem = s.mem ∧ t.host = s.host := by
  have hsaid := State.saysRelease_passed hw h
  have hexec := exec_twinRelease_paired (h := h) hclock hrecovery hpaired hreleasing
  have hany : (runsLeft s || other) = true := by
    rw [Bool.or_eq_true, runsLeft_iff]
    exact hbusy.symm
  generalize s.saysRelease h = u at hsaid hexec
  rw [applyAll_tryRelease (s := u) (h := h) (busy := runsLeft s) (by rw [hsaid.twin]; rfl) (by rw [hsaid.twin]; exact hpartner),
    if_pos hany] at hexec
  refine ⟨_, hexec, ?_, hsaid.mem, hsaid.host⟩
  rw [State.withTwin_twin, hsaid.twin, ← hreleasing]
  rfl
end

end Sys2Proof.Machine
end

section
/-! What ending runs and completing commands keep: memory, regions, event causes, the states of the ports, and that an idle slot is idle
(R294, R299, R303, R395, R397). -/
namespace Sys2Proof.Machine

/-! ### Writes that keep it -/

/-- Nothing of memory and regions has changed, no port has a new event or another link state, no slot has a new run, and no pair has
formed. -/
structure Kept (s t : State) : Prop where
  slotsWf : Tab.wf Slot.reset t.slots = true
  portsWf : Tab.wf Port.reset t.ports = true
  linksWf : Tab.wf Link.reset t.links = true
  mem : t.mem = s.mem
  regions : t.regions = s.regions
  cause : ∀ p, (t.port p).evtCause = (s.port p).evtCause
  phase : ∀ p, (t.link p).phase = (s.link p).phase
  idle : ∀ n, (s.slot n).run = none → (t.slot n).run = none
  twin : s.twin = Twin.reset → t.twin = Twin.reset

/-- The writes of other parts of the state. -/
def Eff.plain : Eff → Bool
  | .mem .. | .region .. | .port .. | .slot .. | .link .. | .twin .. | .powerLost | .deviceReset => false
  | _ => true

/-- A write that keeps it, by the state it is worked out in. -/
inductive Eff.Fits (s : State) : Eff → Prop where
  | plain {e : Eff} (he : e.plain = true) : Fits s e
  | port (p : Nat) (v : Port) (hv : v.evtCause = (s.port p).evtCause) : Fits s (.port p v)
  | slot (n : Nat) (v : Slot) (hv : (s.slot n).run = none → v.run = none) : Fits s (.slot n v)
  | link (p : Nat) (v : Link) (hv : v.phase = (s.link p).phase) : Fits s (.link p v)
  | twin (v : Twin) (hv : s.twin = Twin.reset → v = Twin.reset) : Fits s (.twin v)

/-- The parts of a state that plain writes leave. -/
def State.guarded (s : State) : State :=
  { State.reset with
    mem := s.mem
    regions := s.regions
    ports := s.ports
    slots := s.slots
    links := s.links
    twin := s.twin }

theorem Eff.plain_guarded (e : Eff) (he : e.plain = true) (s : State) : (applyEff s e).guarded = s.guarded := by
  cases e with
  | hook k v =>
    rw [applyEff_hook]
    split <;> rfl
  | count id n =>
    rw [applyEff_count]
    obtain ⟨c, h | ⟨e, src, d, h⟩⟩ := s.bump_cases id n <;> rw [h] <;> rfl
  | mem | region | port | slot | link | twin | powerLost | deviceReset => cases he
  | _ => rfl

theorem Eff.fits_of_plain {es : List Eff} (h : es.all Eff.plain = true) (s : State) : ∀ e ∈ es, e.Fits s := fun e he =>
  .plain (List.all_eq_true.1 h e he)

section
variable {s t u : State}

theorem Kept.refl (hslots : Tab.wf Slot.reset s.slots = true) (hports : Tab.wf Port.reset s.ports = true)
    (hlinks : Tab.wf Link.reset s.links = true) : Kept s s :=
  ⟨hslots, hports, hlinks, rfl, rfl, fun _ => rfl, fun _ => rfl, fun _ => id, id⟩

theorem State.Inv.kept (h : s.Inv) : Kept s s := .refl h.canonical.slots h.canonical.ports h.canonical.links

theorem Kept.self (h : Kept s t) : Kept t t := .refl h.slotsWf h.portsWf h.linksWf

theorem Kept.trans (h : Kept s t) (h' : Kept t u) : Kept s u where
  slotsWf := h'.slotsWf
  portsWf := h'.portsWf
  linksWf := h'.linksWf
  mem := h'.mem.trans h.mem
  regions := h'.regions.trans h.regions
  cause p := (h'.cause p).trans (h.cause p)
  phase p := (h'.phase p).trans (h.phase p)
  idle n hn := h'.idle n (h.idle n hn)
  twin ht := h'.twin (h.twin ht)

theorem Kept.of_guarded (h : Kept s t) (hu : u.guarded = t.guarded) : Kept s u := by
  have hslots : u.slots = t.slots := (congrArg State.slots hu :)
  have hports : u.ports = t.ports := (congrArg State.ports hu :)
  have hlinks : u.links = t.links := (congrArg State.links hu :)
  have hmem : u.mem = t.mem := (congrArg State.mem hu :)
  have hregions : u.regions = t.regions := (congrArg State.regions hu :)
  have htwin : u.twin = t.twin := (congrArg State.twin hu :)
  exact ⟨hslots ▸ h.slotsWf, hports ▸ h.portsWf, hlinks ▸ h.linksWf, hmem.trans h.mem, hregions.trans h.regions,
    fun p => (congrArg (fun x => (Tab.look Port.reset x p).evtCause) hports).trans (h.cause p),
    fun p => (congrArg (fun x => (Tab.look Link.reset x p).phase) hlinks).trans (h.phase p),
    fun n hn => (congrArg (fun x => (Tab.look Slot.reset x n).run) hslots).trans (h.idle n hn),
    fun ht => htwin.trans (h.twin ht)⟩

theorem Kept.eff (h : Kept s t) {e : Eff} (he : e.Fits s) : Kept s (applyEff t e) := by
  cases he with
  | plain he => exact h.of_guarded (Eff.plain_guarded e he t)
  | port p v hv =>
    have hport (j : Nat) : (applyEff t (.port p v)).port j = if j = p then v else t.port j := Tab.look_put _ _ _ _ _ h.portsWf
    refine { h with portsWf := Tab.wf_put _ _ _ _ h.portsWf, cause := fun j => ?_ }
    rw [hport]
    split
    next hj => exact hj ▸ hv
    next => exact h.cause j
  | slot n v hv =>
    have hslot (j : Nat) : (applyEff t (.slot n v)).slot j = if j = n then v else t.slot j := Tab.look_put _ _ _ _ _ h.slotsWf
    refine { h with slotsWf := Tab.wf_put _ _ _ _ h.slotsWf, idle := fun j hj => ?_ }
    rw [hslot]
    split
    next hjn => exact hv (hjn ▸ hj)
    next => exact h.idle j hj
  | link p v hv =>
    have hlink (j : Nat) : (applyEff t (.link p v)).link j = if j = p then v else t.link j := Tab.look_put _ _ _ _ _ h.linksWf
    refine { h with linksWf := Tab.wf_put _ _ _ _ h.linksWf, phase := fun j => ?_ }
    rw [hlink]
    split
    next hj => exact hj ▸ hv
    next => exact h.phase j
  | twin v hv => exact { h with twin := hv }

theorem Kept.effs (h : Kept s t) {es : List Eff} (hes : ∀ e ∈ es, e.Fits s) : Kept s (applyAll es t) :=
  applyAll_keeps_of es (fun e he _ hu => hu.eff (hes e he)) t h

/-- An activity whose writes fit the state they are worked out in. -/
theorem Kept.act {a : Act} (h : ∀ u, Kept u u → ∀ e ∈ a u, e.Fits u) : a.Keeps (Kept s) := fun u hu =>
  hu.trans (hu.self.effs (h u hu.self))

theorem Act.Only.kept {a : Act} (h : a.Only Eff.plain) : a.Keeps (Kept s) := Kept.act fun u _ => Eff.fits_of_plain (h u) u

theorem Passed.kept (h : Passed s t) (hs : Kept s s) : Kept s t where
  slotsWf := h.slots ▸ hs.slotsWf
  portsWf := h.ports ▸ hs.portsWf
  linksWf := h.wf
  mem := h.mem
  regions := h.regions
  cause p := congrArg (fun x => (Tab.look Port.reset x p).evtCause) h.ports
  phase := h.phase
  idle n hn := (congrArg (fun x => (Tab.look Slot.reset x n).run) h.slots).trans hn
  twin ht := h.twin.trans ht

/-- Messages keep it. -/
theorem Kept.passed {a : Act} (h : ∀ u, a.Keeps (Passed u)) : a.Keeps (Kept s) := fun u hu =>
  hu.trans ((h u u (.refl hu.linksWf)).kept hu.self)
end

/-! ### Replies and hooks -/

theorem Port.evtCause_raise (p : Port) (v : Nat) : (p.raise v).evtCause = p.evtCause := by
  unfold Port.raise
  split <;> rfl

section
variable {s : State}

theorem Kept.replyEffs (h : Hdr) (r : Reply) : (replyEffs h r).Keeps (Kept s) := Kept.act fun u _ e he => by
  unfold Machine.replyEffs at he
  extract_lets i c gone at he
  split at he
  · cases he
  · split at he
    · exact Eff.fits_of_plain rfl u e he
    · split at he
      · exact Eff.fits_of_plain rfl u e he
      · rcases List.mem_append.1 he with he | he
        · exact Eff.fits_of_plain rfl u e he
        · split at he
          · exact List.mem_singleton.1 he ▸ .port _ _ (Port.evtCause_raise _ _)
          · cases he

theorem Kept.deliver (h : Hdr) (r : Reply) : (deliver h r).Keeps (Kept s) := fun t ht => by
  have hwrite {v : Twin} (hv : t.twin = Twin.reset → v = Twin.reset) {es fs : List Eff} (hes : es.all Eff.plain = true)
      (hfs : fs.all Eff.plain = true) : Kept s (applyAll (es ++ .twin v :: fs) t) :=
    ht.trans (ht.self.effs (List.forall_mem_append.2 ⟨Eff.fits_of_plain hes t,
      List.forall_mem_cons.2 ⟨.twin v hv, Eff.fits_of_plain hfs t⟩⟩))
  unfold Machine.deliver
  split
  · rw [applyAll_seq]
    exact Kept.passed (fun _ => Passed.sendTwin _ _ _) _ (hwrite (fun hreset => by rw [hreset]; rfl) (es := [_]) (fs := []) rfl rfl)
  · split
    · exact Kept.replyEffs h r t ht
    · split
      · split
        · exact hwrite (fun hreset => by rw [hreset]; rfl) (es := [_]) (fs := []) rfl rfl
        · rw [applyAll_seq]
          exact Kept.replyEffs h r _ (hwrite (fun hreset => by rw [hreset]; rfl) (es := []) (fs := []) rfl rfl)
      · rw [applyAll_seq]
        exact Kept.replyEffs h _ _ (hwrite (fun hreset => by rw [hreset]; rfl) (es := []) rfl (by split <;> rfl))

theorem Kept.grant (k : Nat) (after : Word) (w : Waiter) {t u : State} (ht : Kept s t) (htu : Kept t u) :
    Kept s (applyAll (grant k after w t).1 u) := by
  refine ht.trans (htu.effs fun e he => ?_)
  cases w with
  | packet p c amount => exact List.mem_singleton.1 he ▸ .plain rfl
  | command h v => cases he
  | partner c v => exact List.mem_singleton.1 he ▸ .twin _ fun hreset => by rw [hreset]; rfl
  | record n r =>
    simp only [Machine.grant] at he
    split at he
    · cases he
    next q hq =>
      rcases List.mem_cons.1 he with rfl | he
      · exact .slot _ _ fun hnone => by rw [hnone] at hq; cases hq
      · exact List.mem_singleton.1 he ▸ .plain rfl

theorem Kept.jobStep (j : Job) : Act.Keeps (Kept s) (fun t => (jobStep t j).1) := fun t ht => by
  cases j with
  | release k inc src rec =>
    refine Act.Only.kept (s := s) (a := fun t => (Machine.jobStep t (.release k inc src rec)).1) (fun u => ?_) t ht
    simp only [Machine.jobStep, List.singleton_append, List.all_cons]
    split <;> rfl
  | serve k =>
    simp only [Machine.jobStep]
    split
    · exact ht
    next w ws _ =>
      split
      · exact Kept.grant _ _ _ ht (ht.self.eff (e := .hook k ⟨(t.hook k).count - w.amount, ws⟩) (.plain rfl))
      · exact ht
  | record | complete => exact ht.trans (ht.self.effs (Eff.fits_of_plain rfl t))
  | reply h r => exact Kept.deliver h r t ht

theorem Kept.runJobs (n : Nat) (l : List Job) : (runJobs n l).Keeps (Kept s) := by
  induction n generalizing l with
  | zero => exact .none
  | succ n ih =>
    cases l with
    | nil => exact .none
    | cons j l => exact fun t ht => Act.Keeps.seq (fun _ hu => Kept.jobStep j _ hu) (ih _) t ht

theorem Kept.complete (h : Hdr) (r : Reply) : (complete h r).Keeps (Kept s) := fun t => by
  unfold Machine.complete
  split
  · exact Kept.runJobs _ _ t
  · exact Kept.deliver h r t

theorem Kept.dropWaiters (p : Waiter → Bool) : (dropWaiters p).Keeps (Kept s) := fun t ht =>
  Act.Keeps.seq (Act.Only.kept fun _ => by simp [Eff.plain]) (fun u => Kept.runJobs _ _ u) t ht
end

end Sys2Proof.Machine
end

section
/-! Work that is discarded (R294, R352, R381), and the twin that steps out (R395). -/
namespace Sys2Proof.Machine

/-! ### Words that are read (R74, R75): plain writes -/

section
variable {a b : Act}

theorem Act.Only.each {α : Type} {f : Eff → Bool} {g : α → Act} (h : ∀ x, (g x).Only f) (l : List α) : (Act.each g l).Only f := by
  induction l with
  | nil => exact .none
  | cons x l ih => exact (h x).seq ih

theorem Act.Only.when {f : Eff → Bool} (h : a.Only f) (c : Bool) : (Act.when c a).Only f := by
  cases c
  · exact .none
  · exact h
end

theorem bankGrown_plain (k : Nat) (b : Bank) : (bankGrown k b).all Eff.plain = true := by
  unfold bankGrown
  split <;> rfl

theorem retireBank_plain (k reason : Nat) : (retireBank k reason).Only Eff.plain := fun s => by
  simp only [retireBank, sheetInPlace]
  split
  · rfl
  · split
    · rw [List.all_append, List.all_append, bankGrown_plain]
      split <;> rfl
    · rw [List.all_append]
      split <;> rfl

theorem bankFault_plain (k : Nat) : (bankFault k).Only Eff.plain := fun s => by
  refine Act.Only.seq (fun _ => rfl) ?_ s
  split
  · exact retireBank_plain k 1
  · exact .none

theorem eccFault_plain (w : Nat) : (eccFault w).Only Eff.plain := by
  unfold eccFault
  split
  · exact bankFault_plain _
  · split
    · exact fun _ => rfl
    · exact .none

theorem bankCatchUp_plain (w : Nat) : (bankCatchUp w).Only Eff.plain := fun s => by
  unfold bankCatchUp
  split <;> rfl

theorem eccRecord_plain (w : Nat) : (eccRecord w).Only Eff.plain := (bankCatchUp_plain w).seq fun _ => rfl

theorem meetWord_plain (w : Nat) : (meetWord w).Only Eff.plain := fun s => by
  have hcorrected : (eccCorrected w).Only Eff.plain :=
    Act.Only.seq (fun _ => rfl) ((eccRecord_plain w).seq (((eccFault_plain w).when _).seq .none))
  unfold meetWord
  split
  · rfl
  · refine hcorrected.seq (fun t => ?_) s
    split
    · rfl
    · dsimp only
      split
      · rfl
      · exact bankGrown_plain _ _
  · exact Act.Only.seq (fun _ => rfl) ((eccRecord_plain w).seq ((eccFault_plain w).seq .none)) s
  · rfl
  · exact Act.Only.seq (fun _ => rfl) ((bankCatchUp_plain w).seq (eccFault_plain w)) s

theorem meetRange_plain (a n : Nat) : (meetRange a n).Only Eff.plain :=
  Act.Only.seq (fun s => by simp [wakeRange, Eff.plain]) fun s => Act.Only.each (fun _ => meetWord_plain _) _ s

theorem clearCores_plain (n : Nat) : (clearCores n).Only Eff.plain := fun s => by
  have hunpark (k : Nat) : (unparkCore k).Only Eff.plain := fun t => by
    unfold unparkCore
    exact Act.Only.seq (Act.Only.each (fun x => meetRange_plain _ _) _) (fun _ => rfl) t
  exact Act.Only.seq (Act.Only.each hunpark _) (fun t => by simp [Eff.plain]) s

theorem clearSlotArrays_plain (n : Nat) : (clearSlotArrays n).Only Eff.plain := fun s => by
  unfold clearSlotArrays
  split
  · rfl
  · exact Act.Only.each (fun r t => by simp [clearArrays, Eff.plain]) _ s

/-! ### Work in flight -/

/-- A slot's work is discarded, and its run with it. -/
def stopSlot (n : Nat) : Act := Act.seq (discardWork n) (fun s => [.slot n { s.slot n with run := none }])

section
variable {s : State}

theorem Kept.setRun (n : Nat) (f : Run → Run) : (setRun n f).Keeps (Kept s) := Kept.act fun u _ e he => by
  unfold Machine.setRun at he
  split at he
  · cases he
  next q hq => exact List.mem_singleton.1 he ▸ .slot _ _ fun hnone => by rw [hnone] at hq; cases hq

theorem Kept.endCollectives (n : Nat) : (endCollectives n).Keeps (Kept s) := Kept.act fun u hu e he => by
  unfold Machine.endCollectives at he
  split at he
  · cases he
  next p q hrun =>
    simp only [List.mem_append, List.mem_map, List.mem_cons, List.not_mem_nil, or_false] at he
    rcases he with (⟨x, -, rfl⟩ | ⟨x, hx, rfl⟩) | rfl | rfl | rfl
    · exact .plain rfl
    · refine .link _ _ ?_
      rw [State.link, Tab.look_of_mem hu.linksWf hx]
      rfl
    · exact .plain rfl
    · exact .plain rfl
    · refine .slot _ _ fun hnone => ?_
      rw [runOf, hnone] at hrun
      split at hrun
      next heq => cases heq
      next => cases hrun

theorem Kept.discardWork (n : Nat) : (discardWork n).Keeps (Kept s) :=
  (Kept.endCollectives n).seq ((Kept.dropWaiters _).seq ((clearCores_plain n).kept.seq ((clearSlotArrays_plain n).kept.seq
    ((Act.Only.kept fun _ => rfl).seq ((Kept.setRun n _).seq .none)))))

theorem Kept.stopSlot (n : Nat) : (stopSlot n).Keeps (Kept s) :=
  (Kept.discardWork n).seq (Kept.act fun _ _ _ he => List.mem_singleton.1 he ▸ .slot _ _ fun _ => rfl)
end

/-- The run of a slot whose work is discarded is over. -/
theorem stopSlot_idle {s : State} (hs : Kept s s) (n : Nat) : ((applyAll (stopSlot n s) s).slot n).run = none := by
  have hkept := Kept.discardWork n s hs
  rw [stopSlot, applyAll_seq]
  generalize applyAll (discardWork n s) s = t at hkept
  exact congrArg Slot.run (State.slot_withSlot hkept.slotsWf n _)

/-- Every run of a list of slots is over. -/
theorem stopSlots_idle {s : State} (hs : Kept s s) (l : List Nat) : ∀ n ∈ l, ((applyAll (Act.each stopSlot l s) s).slot n).run = none := by
  induction l generalizing s with
  | nil => exact fun _ hn => absurd hn List.not_mem_nil
  | cons m l ih =>
    have hfirst := stopSlot_idle hs m
    have hkept := Kept.stopSlot m s hs
    rw [show Act.each stopSlot (m :: l) = Act.seq (stopSlot m) (Act.each stopSlot l) from rfl, applyAll_seq]
    generalize applyAll (stopSlot m s) s = t at hfirst hkept
    have hrest := Act.Keeps.each (fun n => Kept.stopSlot (s := t) n) l t hkept.self
    intro n hn
    rcases List.mem_cons.1 hn with rfl | hn
    · exact hrest.idle n hfirst
    · exact ih hkept.self n hn

/-! ### The step-out -/

/-- The writes of a reply. -/
def Eff.answers : Eff → Bool
  | .started .. | .ledger .. | .count .. | .host .. | .chute .. | .port .. => true
  | _ => false

theorem replyEffs_answers (h : Hdr) (r : Reply) : (replyEffs h r).Only Eff.answers := fun s => by
  unfold replyEffs
  extract_lets i c gone
  split
  · rfl
  · split
    · rfl
    · split
      · rfl
      · rw [List.all_append]
        split <;> rfl

theorem Eff.answers_twin (e : Eff) (he : e.answers = true) (s : State) : (applyEff s e).twin = s.twin := by
  cases e with
  | started | ledger | host | chute | port => rfl
  | count id n =>
    rw [applyEff_count]
    obtain ⟨c, h | ⟨e, src, d, h⟩⟩ := s.bump_cases id n <;> exact h ▸ rfl
  | _ => cases he

/-- Replies go out for packets of a pair; those of the others wait on. -/
def answerAll (said : Forwarded → Option Reply) (l : List Forwarded) : Act :=
  Act.each (fun f : Forwarded => match said f with
    | some r => replyEffs f.hdr r
    | none => Act.none) l

theorem answerAll_answers (said : Forwarded → Option Reply) (l : List Forwarded) : (answerAll said l).Only Eff.answers :=
  Act.Only.each (fun f => by
    split
    · exact replyEffs_answers _ _
    · exact .none) l

theorem answerAll_twin (said : Forwarded → Option Reply) (l : List Forwarded) (s : State) :
    (applyAll (answerAll said l s) s).twin = s.twin := (answerAll_answers said l).leaves (g := State.twin) Eff.answers_twin s

theorem Kept.answerAll {s : State} (said : Forwarded → Option Reply) (l : List Forwarded) : (answerAll said l).Keeps (Kept s) :=
  .each (fun f => by
    split
    · exact Kept.replyEffs _ _
    · exact .none) l

theorem Port.evtCause_event {p : Port} (h : p.perst = false) : (p.event 2).evtCause.getLsbD 2 = true := by
  have hset : (p.evtCause ||| BitVec.ofNat 4 (2 ^ 2)).getLsbD 2 = true := by simp
  rw [Port.event, if_neg (by rw [h]; decide)]
  split
  · exact hset
  · rw [Port.evtCause_raise]
    exact hset

theorem State.toldOut_cause {s : State} (hw : Tab.wf Port.reset s.ports = true) (which : Nat) (h0 : (s.port 0).perst = false)
    (h1 : (s.port 1).perst = false) :
    ((s.toldOut which).port 0).evtCause.getLsbD 2 = true ∧ ((s.toldOut which).port 1).evtCause.getLsbD 2 = true := by
  have hw' := Tab.wf_put Port.reset s.ports 0 ((s.port 0).event 2) hw
  have hport (j : Nat) : (s.toldOut which).port j = if j = 1 then (s.port 1).event 2 else if j = 0 then (s.port 0).event 2 else s.port j := by
    refine (Tab.look_put _ _ _ _ _ hw').trans ?_
    rw [Tab.look_put _ _ _ _ _ hw]
    rfl
  rw [hport, hport, if_neg (by decide), if_pos rfl, if_pos rfl]
  exact ⟨Port.evtCause_event h0, Port.evtCause_event h1⟩

theorem State.toldOut_kept {s : State} (hs : Kept s s) (which : Nat) : Kept (s.toldOut which) (s.toldOut which) :=
  .refl hs.slotsWf (Tab.wf_put _ _ _ _ (Tab.wf_put _ _ _ _ hs.portsWf)) hs.linksWf

/-- A twin that has stopped, before its packets are settled. -/
def State.stopped (s : State) : State := s.withTwin { s.twin with
  steppedOut := true
  writes := []
  releasing := none }

theorem State.stopped_kept {s : State} (hs : Kept s s) : Kept s.stopped s.stopped := .refl hs.slotsWf hs.portsWf hs.linksWf

/-- The packets of a twin that has stopped: what the partner has said goes out, and the rest waits for its word. -/
theorem settleTwin_own {s : State} (hs : Kept s s) :
    (applyAll (settleTwin true s) s).twin.steppedOut = s.twin.steppedOut
      ∧ ∃ u, u.mem = s.mem ∧ u.regions = s.regions ∧ u.ports = s.ports ∧ u.slots = s.slots ∧ Kept u (applyAll (settleTwin true s) s) := by
  obtain ⟨w, l, hact, hw⟩ : ∃ w l, settleTwin true s = Act.seq (Act.of [.twin w, .started l])
      (answerAll Forwarded.partner s.twin.forwarded) s ∧ w.steppedOut = s.twin.steppedOut := ⟨_, _, rfl, rfl⟩
  rw [hact, applyAll_seq]
  refine ⟨?_, { s.withTwin w with started := l }, rfl, rfl, rfl, rfl, ?_⟩
  · rw [answerAll_twin]
    exact hw
  · exact Kept.answerAll _ _ _ (.refl hs.slotsWf hs.portsWf hs.linksWf)

section
variable {s : State} (hs : Kept s s) (hbound : s.twin.bound = true) (hin : s.twin.steppedOut = false) (hpartner : s.twin.partnerOut = false)
include hs hbound hin hpartner

theorem exec_stepOut_own (h0 : (s.port 0).perst = false) (h1 : (s.port 1).perst = false) :
    ∃ t, exec (.stepOut true) s = .next t ∧ t.twin.steppedOut = true ∧ (∀ n, n < 16 → (t.slot n).run = none)
      ∧ (t.port 0).evtCause.getLsbD 2 = true ∧ (t.port 1).evtCause.getLsbD 2 = true ∧ t.mem = s.mem ∧ t.regions = s.regions := by
  have hexec : exec (.stepOut true) s = .next (applyAll (Act.seq (sendTwin 9 0 []) (Act.seq (Act.each stopSlot s.running)
      (Act.seq (fun s => [.twin { s.twin with steppedOut := true, writes := [], releasing := none }]) (Act.seq (settleTwin true) Act.none)))
        (s.toldOut (b2n (s.twin.mode == true)))) (s.toldOut (b2n (s.twin.mode == true)))) := by
    simp only [exec, execStepOut, Act.run_eq, stepOutAct, hbound, hin, hpartner, Bool.not_true, Bool.or_self, Bool.false_eq_true, if_false,
      if_true, Act.all_cons, Act.all_nil, applyAll_seq, Act.none_apply, applyAll_nil]
    rfl
  obtain ⟨hcause0, hcause1⟩ := State.toldOut_cause hs.portsWf (b2n (s.twin.mode == true)) h0 h1
  have htold := State.toldOut_kept hs (b2n (s.twin.mode == true))
  have hmem : (s.toldOut (b2n (s.twin.mode == true))).mem = s.mem := rfl
  have hregions : (s.toldOut (b2n (s.twin.mode == true))).regions = s.regions := rfl
  have hslot (n : Nat) : (s.toldOut (b2n (s.twin.mode == true))).slot n = s.slot n := rfl
  generalize s.toldOut (b2n (s.twin.mode == true)) = a at *
  have hsent := Kept.passed (fun _ => Passed.sendTwin 9 0 []) a htold
  rw [applyAll_seq] at hexec
  generalize applyAll (sendTwin 9 0 [] a) a = b at hsent hexec
  have hended := Act.Keeps.each (fun n => Kept.stopSlot (s := b) n) s.running b hsent.self
  have hidle := stopSlots_idle hsent.self s.running
  rw [applyAll_seq] at hexec
  generalize applyAll (Act.each stopSlot s.running b) b = c at hended hidle hexec
  have hstopped := State.stopped_kept hended.self
  rw [applyAll_seq, applyAll_twin, applyAll_seq, Act.none_apply, applyAll_nil] at hexec
  change _ = Host.Outcome.next (applyAll (settleTwin true c.stopped) c.stopped) at hexec
  obtain ⟨hout, u, humem, huregions, huports, huslots, hu⟩ := settleTwin_own hstopped
  have hport (p : Nat) : ((applyAll (settleTwin true c.stopped) c.stopped).port p).evtCause = (a.port p).evtCause :=
    (hu.cause p).trans (((congrArg (fun x => (Tab.look Port.reset x p).evtCause) huports).trans (hended.cause p)).trans (hsent.cause p))
  refine ⟨_, hexec, hout, fun n hn => hu.idle n ?_, by rw [hport, hcause0], by rw [hport, hcause1], ?_, ?_⟩
  · refine (congrArg (fun x => (Tab.look Slot.reset x n).run) huslots).trans ?_
    by_cases hrun : (s.slot n).run = none
    · exact hended.idle n (hsent.idle n ((congrArg Slot.run (hslot n)).trans hrun))
    · exact hidle n (List.mem_filter.2 ⟨List.mem_range.2 hn, Option.isSome_iff_ne_none.2 hrun⟩)
  · exact hu.mem.trans (humem.trans (hended.mem.trans (hsent.mem.trans hmem)))
  · exact hu.regions.trans (huregions.trans (hended.regions.trans (hsent.regions.trans hregions)))
end

end Sys2Proof.Machine
end

section
/-! The end of a pair (R397): replies that waited go out, and both ports are disabled. -/
namespace Sys2Proof.Machine

/-! ### A port that is disabled (R303, R333, R335) -/

/-- No slot has a run. -/
def State.Idle (s : State) : Prop := ∀ n, n < 16 → (s.slot n).run = none

theorem State.idle_of_slots {s : State} (h : ∀ x ∈ s.slots, x.2.run = none) : s.Idle := fun n _ => by
  rcases Tab.look_listed Slot.reset s.slots n with hn | hn
  · rw [State.slot, hn]
    rfl
  · exact h _ hn

theorem State.Idle.kept {s t : State} (h : s.Idle) (hst : Kept s t) : t.Idle := fun n hn => hst.idle n (h n hn)

section
variable {s : State}

theorem Kept.endCommandXfers (status : Nat) (i : Instr) : (endCommandXfers status i).Keeps (Kept s) := by
  refine Act.Keeps.seq (Act.Only.kept fun _ => rfl) ?_
  split
  next h _ =>
    intro t
    exact Act.Keeps.seq (Act.Only.kept fun _ => rfl) (.seq (.each (fun n => Kept.setRun n _) _) (.seq (Kept.complete h _) .none)) t
  next => exact .none

/-- Without a run no job is lost. -/
theorem idle_jobs_nil (h : s.Idle) (p : Nat → Bool) : (List.range 16).filter (fun n => (s.slot n).run.any (·.active) && p n) = [] :=
  List.filter_eq_nil_iff.2 fun n hn => by simp [h n (List.mem_range.1 hn)]

theorem loseRoutes_idle (h : s.Idle) : ∃ l, loseRoutes s = Act.seq (Act.each (endCommandXfers stBadAddress) l) Act.none s
    ∧ (s.xfers = [] → l = []) := by
  unfold loseRoutes
  extract_lets lost jobs
  have hjobs : jobs = [] := idle_jobs_nil h _
  rw [hjobs]
  exact ⟨_, rfl, fun hnone => by rw [hnone]; rfl⟩

theorem Kept.loseRoutes (hs : Kept s s) (h : s.Idle) : Kept s (applyAll (loseRoutes s) s) := by
  obtain ⟨l, hl, -⟩ := loseRoutes_idle h
  rw [hl]
  exact (Act.Keeps.each (fun i => Kept.endCommandXfers _ i) l).seq .none s hs

theorem loseRoutes_nil (h : s.Idle) (hnone : s.xfers = []) : loseRoutes s = [] := by
  obtain ⟨l, hl, hnil⟩ := loseRoutes_idle h
  rw [hl, hnil hnone]
  rfl
end

theorem State.beyondLinks_log (s : State) (e src : Nat) (d : List Byte) : (s.log e src d).beyondLinks = s.beyondLinks := rfl

theorem State.beyondLinks_withLink (s : State) (p : Nat) (v : Link) : (s.withLink p v).beyondLinks = s.beyondLinks := rfl

/-- A port in DISABLED. -/
def State.portDown (s : State) (p : Nat) : State := s.withLink p { s.link p with state := .disabled }

/-- A port that is disabled. -/
def State.portOff (s : State) (p : Nat) : State := s.withLink p { s.link p with
  state := .disabled
  enable := false }

section
variable {s : State} (hs : Kept s s)
include hs

theorem State.portDown_phase (p j : Nat) :
    ((s.portDown p).link j).phase = if j = p then (.disabled, (s.link p).enable, (s.link p).sheeted) else (s.link j).phase := by
  rw [State.portDown, State.link_withLink hs.linksWf]
  split <;> rfl

theorem State.portOff_phase (p j : Nat) :
    ((s.portOff p).link j).phase = if j = p then (.disabled, false, (s.link p).sheeted) else (s.link j).phase := by
  rw [State.portOff, State.link_withLink hs.linksWf]
  split <;> rfl

theorem Kept.withLink (p : Nat) (v : Link) : Kept (s.withLink p v) (s.withLink p v) :=
  .refl hs.slotsWf hs.portsWf (State.withLink_wf hs.linksWf _ _)

/-- What a port that leaves UP holds goes another way, and commands that lose their way complete. -/
theorem leaveUp (h : s.Idle) (p : Nat) :
    Kept s (applyAll (Act.seq (rerouteFrom p) loseRoutes s) s)
      ∧ (s.xfers = [] → (applyAll (Act.seq (rerouteFrom p) loseRoutes s) s).beyondLinks = s.beyondLinks) := by
  have hrerouted := Passed.rerouteFrom p s (.refl hs.linksWf)
  have hkept := hrerouted.kept hs
  rw [applyAll_seq]
  generalize applyAll (rerouteFrom p s) s = u at hrerouted hkept
  refine ⟨hkept.trans (Kept.loseRoutes hkept.self (h.kept hkept)), fun hnone => ?_⟩
  rw [loseRoutes_nil (h.kept hkept) ((congrArg State.xfers hrerouted.rest :).trans hnone), applyAll_nil, hrerouted.rest]

/-- A port changes to DISABLED. -/
theorem linkTo_disabled (h : s.Idle) (p : Nat) :
    Kept (s.portDown p) (applyAll (linkTo p .disabled s) s)
      ∧ (s.xfers = [] → (applyAll (linkTo p .disabled s) s).beyondLinks = s.beyondLinks) := by
  by_cases hsame : (s.link p).state = .disabled
  · rw [applyAll_linkTo_same hsame]
    refine ⟨{ hs with phase := fun j => ?_ }, fun _ => rfl⟩
    rw [State.portDown_phase hs]
    split
    next hj => rw [hj, ← hsame, Link.phase]
    next => rfl
  · have hact : linkTo p .disabled s = Act.seq (Act.of [.link p { s.link p with state := .disabled },
        .ledger 0x0400 (srcLink p) (toLE 1 (s.link p).state.code ++ toLE 1 LinkState.disabled.code)])
        (if (s.link p).state = .up then Act.seq (rerouteFrom p) loseRoutes else Act.none) s := by
      simp only [linkTo, hsame, if_false]
    have hdown := Kept.withLink hs p { s.link p with state := .disabled }
    obtain ⟨u, hu⟩ : ∃ u, (s.portDown p).log 0x0400 (srcLink p) (toLE 1 (s.link p).state.code ++ toLE 1 LinkState.disabled.code) = u :=
      ⟨_, rfl⟩
    have hlogged : Kept (s.portDown p) u := by
      rw [← hu]
      exact hdown.eff (e := .ledger _ _ _) (.plain rfl)
    have hrest : u.beyondLinks = s.beyondLinks := by rw [← hu, State.beyondLinks_log, State.portDown, State.beyondLinks_withLink]
    have hidle : u.Idle := State.Idle.kept (s := s.portDown p) h hlogged
    have hstep : applyAll (linkTo p .disabled s) s
        = applyAll ((if (s.link p).state = .up then Act.seq (rerouteFrom p) loseRoutes else Act.none) u) u := by
      rw [hact, applyAll_seq, ← hu]
      rfl
    rw [hstep]
    split
    · obtain ⟨hkept, hbeyond⟩ := leaveUp hlogged.self hidle p
      exact ⟨hlogged.trans hkept, fun hnone => (hbeyond ((congrArg State.xfers hrest :).trans hnone)).trans hrest⟩
    · exact ⟨hlogged, fun _ => hrest⟩

theorem disablePort_off (h : s.Idle) (p : Nat) :
    Kept (s.portOff p) (applyAll (disablePort p s) s)
      ∧ (s.xfers = [] → (applyAll (disablePort p s) s).beyondLinks = s.beyondLinks) := by
  obtain ⟨hoff, hrest⟩ := linkTo_disabled hs h p
  have hphase := hoff.phase
  rw [disablePort, applyAll_seq]
  generalize applyAll (linkTo p .disabled s) s = u at hoff hrest hphase
  refine ⟨?_, hrest⟩
  have hlink (j : Nat) : (applyAll [.link p { (u.link p).cleared with enable := false }] u).link j
      = if j = p then { (u.link p).cleared with enable := false } else u.link j := State.link_withLink hoff.linksWf p j _
  refine { hoff with linksWf := State.withLink_wf hoff.linksWf _ _, phase := fun j => ?_ }
  rw [hlink, State.portOff_phase hs]
  have hj := hphase j
  rw [State.portDown_phase hs] at hj
  split
  next hjp =>
    rw [if_pos hjp, hjp] at hj
    have hstate : (u.link p).state = .disabled := congrArg (fun x => x.1) hj
    have hsheeted : (u.link p).sheeted = (s.link p).sheeted := congrArg (fun x => x.2.2) hj
    rw [← hstate, ← hsheeted]
    rfl
  next hjp =>
    rw [if_neg hjp] at hj
    exact hj
end

/-! ### The end of the pair -/

/-- A pair that has ended on a device without a run. -/
structure PairEnds (s t : State) : Prop where
  twin : t.twin = Twin.reset
  off : ∀ p ∈ [7, 15], (t.link p).enable = false ∧ (t.link p).state = .disabled
  mem : t.mem = s.mem
  rest : s.twin.forwarded = [] → s.xfers = [] → t.beyondLinks = (s.withTwin Twin.reset).beyondLinks

theorem portsOff {s : State} (hs : Kept s s) (h : s.Idle) (htwin : s.twin = Twin.reset) :
    PairEnds s (applyAll (Act.seq (disablePort 7) (Act.seq (disablePort 15) (Act.seq dropHeldTwin Act.none)) s) s) := by
  obtain ⟨h7, hrest7⟩ := disablePort_off hs h 7
  rw [applyAll_seq, applyAll_seq]
  generalize applyAll (disablePort 7 s) s = u at h7 hrest7
  obtain ⟨h15, hrest15⟩ := disablePort_off h7.self (State.Idle.kept (s := s.portOff 7) h h7) 15
  generalize applyAll (disablePort 15 u) u = v at h15 hrest15
  rw [applyAll_seq, Act.none_apply, applyAll_nil]
  have hdrop := Passed.dropHeldTwin v (.refl h15.linksWf)
  generalize applyAll (dropHeldTwin v) v = t at hdrop
  have hphase (p : Nat) : (t.link p).phase = if p = 15 then (.disabled, false, (u.link 15).sheeted)
      else if p = 7 then (.disabled, false, (s.link 7).sheeted) else (s.link p).phase := by
    rw [hdrop.phase, h15.phase, State.portOff_phase h7.self, h7.phase, State.portOff_phase hs]
  have hoff (p : Nat) (x : Bool) (hp : (t.link p).phase = (.disabled, false, x)) : (t.link p).enable = false ∧ (t.link p).state = .disabled :=
    ⟨congrArg (fun y => y.2.1) hp, congrArg (fun y => y.1) hp⟩
  refine ⟨hdrop.twin.trans (h15.twin (h7.twin htwin)), ?_, hdrop.mem.trans (h15.mem.trans h7.mem), fun _ hnone => ?_⟩
  · intro p hp
    rcases List.mem_cons.1 hp with rfl | hp
    · exact hoff 7 _ (hphase 7)
    · rcases List.mem_singleton.1 hp with rfl
      exact hoff 15 _ (hphase 15)
  · rw [← htwin, State.withTwin_self, hdrop.rest, hrest15 ((congrArg State.xfers (hrest7 hnone) :).trans hnone), hrest7 hnone]

theorem leaveTwin_ends {s : State} (hs : Kept s s) (h : s.Idle) : PairEnds s (applyAll (leaveTwin s) s) := by
  have hact : applyAll (leaveTwin s) s = applyAll (Act.seq (answerAll (fun f => f.own.or f.partner) s.twin.forwarded)
      (Act.seq (disablePort 7) (Act.seq (disablePort 15) (Act.seq dropHeldTwin Act.none))) (s.withTwin Twin.reset)) (s.withTwin Twin.reset) :=
    applyAll_seq ..
  have hreset : Kept (s.withTwin Twin.reset) (s.withTwin Twin.reset) := .refl hs.slotsWf hs.portsWf hs.linksWf
  have hidle : (s.withTwin Twin.reset).Idle := h
  have hanswered := Kept.answerAll (fun f => f.own.or f.partner) s.twin.forwarded _ hreset
  have hnothing : s.twin.forwarded = [] → applyAll (answerAll (fun f => f.own.or f.partner) s.twin.forwarded (s.withTwin Twin.reset))
      (s.withTwin Twin.reset) = s.withTwin Twin.reset := fun hnone => by rw [hnone]; rfl
  rw [hact, applyAll_seq]
  generalize applyAll (answerAll _ _ (s.withTwin Twin.reset)) _ = u at hanswered hnothing
  have hends := portsOff hanswered.self (hidle.kept hanswered) (hanswered.twin rfl)
  refine ⟨hends.twin, hends.off, hends.mem.trans hanswered.mem, fun hnone hxfers => ?_⟩
  have hu := hnothing hnone
  subst hu
  rw [hends.rest rfl hxfers]
  rfl

end Sys2Proof.Machine
end

section
/-! TWIN_RELEASE that is decided (R397): it completes, and the pair ends. -/
namespace Sys2Proof.Machine

/-- What leaves a command's chute and its packets leaves it answerable. -/
theorem Answerable.of_beyondLinks {s u : State} {h : Hdr} {w : Twin} (ha : Answerable s h) (hu : u.beyondLinks = (s.withTwin w).beyondLinks)
    (hw : ∀ f ∈ w.forwarded, f.hdr ≠ h) : Answerable u h := by
  have hpower : u.power = s.power := (congrArg State.power hu :)
  have hports : u.ports = s.ports := (congrArg State.ports hu :)
  have hchutes : u.chutes = s.chutes := (congrArg State.chutes hu :)
  have htwin : u.twin = w := (congrArg State.twin hu :)
  have hport (p : Nat) : u.port p = s.port p := congrArg (Tab.look Port.reset · p) hports
  have hchute (k : Nat) : u.chute k = s.chute k := congrArg (Tab.look Chute.reset · k) hchutes
  refine ⟨?_, ha.own, by rw [htwin]; exact hw, ?_⟩
  · rw [clocked, hpower, hport, hport]
    exact ha.clock
  · rw [replyAlive, hchute, hport]
    exact ha.alive

theorem replyOmitted_done (h : Hdr) : replyOmitted h (Reply.of stDone) = h.replyOnErrorOnly := by
  simp [replyOmitted, Reply.of]

/-- A command that releases no hook completes in its chute, and keeps the pair and what is in flight. -/
theorem finish_own {s : State} {h : Hdr} (hw : Tab.wf Chute.reset s.chutes = true) (ha : Answerable s h) (hsignal : h.signal = false) :
    (applyAll (finish h stDone s) s).twin = s.twin ∧ (applyAll (finish h stDone s) s).xfers = s.xfers
      ∧ ((applyAll (finish h stDone s) s).chute (chuteIx h.port h.chute)).replyIndex
        = (s.chute (chuteIx h.port h.chute)).replyIndex + (if h.replyOnErrorOnly then 0 else 1) := by
  have hreply : applyAll (finish h stDone s) s = applyAll (replyEffs h (Reply.of stDone) s) s :=
    afterReply_own ha.own ha.single (by rw [hsignal, Bool.false_and])
  have hbeyond := CompletionInvariant.complete (completionInvariant_beyondReplies s) h (Reply.of stDone) s rfl
  refine ⟨?_, (congrArg State.xfers hbeyond :), ?_⟩
  · rw [hreply]
    exact (replyEffs_answers h _).leaves (g := State.twin) Eff.answers_twin s
  · rw [hreply]
    cases homit : h.replyOnErrorOnly with
    | false =>
      rw [applyAll_replyEffs_replied ha.clock ha.alive (by rw [replyOmitted_done, homit])]
      exact congrArg Chute.replyIndex ((Tab.look_put _ _ _ _ _ hw).trans (if_pos rfl))
    | true =>
      rw [applyAll_replyEffs_omitted ha.clock ha.alive (by rw [replyOmitted_done, homit])]
      refine (congrArg Chute.replyIndex ((Tab.look_put _ _ _ _ _ hw).trans (if_pos rfl))).trans ?_
      simp

/-- The pair has ended, and the command that ended it has its reply. -/
structure Released (h : Hdr) (s t : State) : Prop where
  twin : t.twin = Twin.reset
  off : ∀ p ∈ [7, 15], (t.link p).enable = false ∧ (t.link p).state = .disabled
  mem : t.mem = s.mem
  reply : Answerable s h → h.signal = false → s.twin.forwarded = [] → s.xfers = [] →
    (t.chute (chuteIx h.port h.chute)).replyIndex = (s.chute (chuteIx h.port h.chute)).replyIndex + (if h.replyOnErrorOnly then 0 else 1)

section
variable {s : State} {h : Hdr} (hs : Kept s s) (hidle : s.Idle)
include hs hidle

/-- The command completes, a word to the partner may follow, and the pair ends. -/
theorem finish_leave (hchutes : Tab.wf Chute.reset s.chutes = true) {word : Act} (hword : ∀ u, word.Keeps (Passed u)) :
    Released h s (applyAll (Act.seq (finish h stDone) (Act.seq word (Act.seq leaveTwin Act.none)) s) s) := by
  have hfinished : Kept s (applyAll (finish h stDone s) s) := Kept.complete h _ s hs
  have hown := finish_own (h := h) hchutes
  rw [applyAll_seq, applyAll_seq, applyAll_seq, Act.none_apply, applyAll_nil]
  generalize applyAll (finish h stDone s) s = u at hfinished hown
  have hsaid := hword u u (.refl hfinished.linksWf)
  generalize applyAll (word u) u = v at hsaid
  have hkept := hfinished.trans (hsaid.kept hfinished.self)
  have hends := leaveTwin_ends hkept.self (hidle.kept hkept)
  refine ⟨hends.twin, hends.off, hends.mem.trans hkept.mem, fun ha hsignal hforwarded hxfers => ?_⟩
  obtain ⟨htwin, hflight, hindex⟩ := hown ha hsignal
  have hrest := hends.rest (by rw [hsaid.twin, htwin, hforwarded]) ((congrArg State.xfers hsaid.rest :).trans (hflight.trans hxfers))
  rw [← hindex]
  have hsame : (applyAll (leaveTwin v) v).chutes = u.chutes := (congrArg State.chutes hrest :).trans hsaid.chutes
  exact congrArg (fun x => (Tab.look Chute.reset x _).replyIndex) hsame

/-- The packet of the partner that ends the pair has no reply here. -/
theorem release_partner (hpartner : h.partner.isNone = false) :
    Released h s (applyAll (Act.seq (fun s => [.started (dropStarted h s.started)]) (Act.seq leaveTwin Act.none) s) s) := by
  rw [applyAll_seq, applyAll_seq, Act.none_apply, applyAll_nil]
  have hdropped : Kept s (applyAll [.started (dropStarted h s.started)] s) := hs.eff (e := .started _) (.plain rfl)
  generalize applyAll [.started _] s = u at hdropped
  have hends := leaveTwin_ends hdropped.self (hidle.kept hdropped)
  exact ⟨hends.twin, hends.off, hends.mem.trans hdropped.mem, fun ha => by
    rw [ha.own] at hpartner
    cases hpartner⟩
end

/-- A pair in which a packet waits for no partner. -/
def State.withoutPacket (s : State) (h : Hdr) : State :=
  s.withTwin { s.twin with forwarded := s.twin.forwarded.filter (fun f => decide (f.hdr ≠ h)) }

section
variable {s : State} {h : Hdr} (hinv : s.Inv) (hidle : s.Idle)

/-- The end of a pair that is no other than the one of `s` but for its record. -/
theorem Released.trans {u t : State} (ht : Released h u t) {w : Twin} (hu : u.beyondLinks = (s.withTwin w).beyondLinks)
    (hw : s.twin.forwarded = [] → w.forwarded = []) : Released h s t where
  twin := ht.twin
  off := ht.off
  mem := ht.mem.trans (congrArg State.mem hu :)
  reply ha hsignal hforwarded hxfers := by
    have hnone : w.forwarded = [] := hw hforwarded
    have hchutes : u.chutes = s.chutes := (congrArg State.chutes hu :)
    have htwin : u.twin = w := (congrArg State.twin hu :)
    have hindex := ht.reply (ha.of_beyondLinks hu (by rw [hnone]; exact fun _ hf => absurd hf List.not_mem_nil)) hsignal
      (by rw [htwin, hnone]) ((congrArg State.xfers hu :).trans hxfers)
    rw [hindex]
    exact congrArg (· + _) (congrArg (fun x => (Tab.look Chute.reset x _).replyIndex) hchutes)

include hinv hidle

/-- A device alone ends the pair. -/
theorem exec_twinRelease_ends_alone (hclock : clocked s = true) (hrecovery : s.firmware.recovery = false) (hbound : s.twin.bound = true)
    (halone : s.paired = false) (hruns : runsLeft s = false) : ∃ t, exec (.twinRelease h) s = .next t ∧ Released h s t := by
  have hkept : Kept (s.withoutPacket h) (s.withoutPacket h) := .refl hinv.kept.slotsWf hinv.kept.portsWf hinv.kept.linksWf
  have hfinal := finish_leave (s := s.withoutPacket h) (h := h) (word := sendTwin 10 2 []) hkept hidle hinv.canonical.chutes
    (fun _ => Passed.sendTwin _ _ _)
  rw [exec_twinRelease_alone hclock hrecovery hbound halone hruns]
  refine ⟨_, rfl, ?_⟩
  simp only [Act.all_cons, Act.all_nil]
  rw [applyAll_seq]
  exact hfinal.trans (w := { s.twin with forwarded := s.twin.forwarded.filter (fun f => decide (f.hdr ≠ h)) }) rfl fun hnone => by
    rw [hnone]; rfl

/-- The release of a pair takes effect here. -/
theorem release_released : Released h s (applyAll (release h s) s) := by
  have hkept : Kept (s.withoutPacket h) (s.withoutPacket h) := .refl hinv.kept.slotsWf hinv.kept.portsWf hinv.kept.linksWf
  have hfinal : Released h (s.withoutPacket h) (applyAll (Act.seq (if h.partner.isNone then finish h stDone
      else fun s => [.started (dropStarted h s.started)]) (Act.seq leaveTwin Act.none) (s.withoutPacket h)) (s.withoutPacket h)) := by
    cases hpartner : h.partner.isNone with
    | true => exact finish_leave (word := Act.none) hkept hidle hinv.canonical.chutes fun _ => .none
    | false => exact release_partner hkept hidle hpartner
  simp only [release, Act.all_cons, Act.all_nil]
  rw [applyAll_seq]
  exact hfinal.trans (w := { s.twin with forwarded := s.twin.forwarded.filter (fun f => decide (f.hdr ≠ h)) }) rfl fun hnone => by
    rw [hnone]; rfl
end

theorem State.beyondLinks_withTwin (s : State) (w : Twin) : (s.withTwin w).beyondLinks = s.beyondLinks.withTwin w := rfl

theorem State.Inv.withTwin {s : State} (h : s.Inv) (w : Twin) : (s.withTwin w).Inv := applyAll_inv [.twin w] h

/-- Both twins have come to the release, and no run of either stands against it. -/
theorem exec_twinRelease_ends_paired {s : State} {h : Hdr} (hinv : s.Inv) (hclock : clocked s = true) (hrecovery : s.firmware.recovery = false)
    (hruns : ∀ x ∈ s.slots, x.2.run = none) (hpaired : s.paired = true) (hreleasing : s.twin.releasing = none)
    (hpartner : s.twin.partnerBusy = some false) : ∃ t, exec (.twinRelease h) s = .next t ∧ Released h s t := by
  have hasking := hinv.withTwin { s.twin with releasing := some (h, runsLeft s) }
  have hsaid := State.saysRelease_passed hinv.canonical.links h
  have hexec := exec_twinRelease_paired (h := h) hclock hrecovery hpaired hreleasing
  have hsaidInv : (s.saysRelease h).Inv := applyAll_inv _ hasking
  have hsaidIdle : (s.saysRelease h).Idle := State.Idle.kept (s := s.withTwin { s.twin with releasing := some (h, runsLeft s) })
    (State.idle_of_slots hruns) (hsaid.kept hasking.kept)
  generalize s.saysRelease h = u at hsaid hexec hsaidInv hsaidIdle
  rw [applyAll_tryRelease (s := u) (h := h) (busy := runsLeft s) (other := false) (by rw [hsaid.twin]; rfl) (by rw [hsaid.twin]; exact hpartner),
    if_neg (by rw [runsLeft_false hruns]; decide)] at hexec
  have hreleased := release_released (h := h) (hsaidInv.withTwin { u.twin with releasing := none, partnerBusy := none }) hsaidIdle
  refine ⟨_, hexec, hreleased.trans (w := { s.twin with releasing := none, partnerBusy := none }) ?_ id⟩
  rw [State.beyondLinks_withTwin, hsaid.rest, hsaid.twin]
  rfl

/-- The word of a survivor that ends the pair, at the twin that has stepped out. -/
theorem exec_twin_released {s : State} {port : LinkId} {n : Dword} {body : List Byte} (hinv : s.Inv) (hclock : clocked s = true)
    (hbound : s.twin.bound = true) (hport : port.val = 7 ∨ port.val = 15) (hpart : s.twin.part = []) (hout : s.twin.steppedOut = true)
    (hn : n.toNat = 2) (hruns : ∀ x ∈ s.slots, x.2.run = none) :
    ∃ t, exec (.twin port 10 n ⟨false, body⟩) s = .next t ∧ t.twin = Twin.reset
      ∧ (∀ p ∈ [7, 15], (t.link p).enable = false ∧ (t.link p).state = .disabled) ∧ t.mem = s.mem := by
  have hexec := exec_twin_whole (n := n) (body := body) hclock (show (10 : Byte) ≠ 0 by decide) hbound hport hpart
  have htook := State.passed_took hinv.canonical.links port (.twin (10 : Byte).toNat n.toNat false body)
  generalize s.took port (.twin (10 : Byte).toNat n.toNat false body) = u at htook hexec
  have hkept := htook.kept hinv.kept
  have hends := leaveTwin_ends hkept.self ((State.idle_of_slots hruns).kept hkept)
  have hmessage : twinMessage (10 : Byte).toNat n body u = leaveTwin u := by
    rw [show (10 : Byte).toNat = 10 from rfl, twinMessage, hn, htook.twin, hout]
    rfl
  rw [hmessage] at hexec
  exact ⟨_, hexec, hends.twin, hends.off, hends.mem.trans hkept.mem⟩

end Sys2Proof.Machine
end

section
/-! The partner's STEP_OUT message (R314, R395): own marks that it will not order take effect, and this twin goes on alone. -/
namespace Sys2Proof.Machine

/-- The writes of marks and confirmations. -/
def Eff.marks : Eff → Bool
  | .mark .. | .count .. | .ledger .. | .slot .. | .stream .. => true
  | _ => false

/-- Memory and the pair are as they were. -/
structure Apart (s t : State) : Prop where
  mem : t.mem = s.mem
  twin : t.twin = s.twin

section
variable {s : State}

theorem Apart.eff {t : State} (h : Apart s t) {e : Eff} (he : e.marks = true) : Apart s (applyEff t e) := by
  cases e with
  | mark | ledger | slot | stream => exact ⟨h.mem, h.twin⟩
  | count id n =>
    rw [applyEff_count]
    obtain ⟨c, hc | ⟨e, src, d, hc⟩⟩ := t.bump_cases id n <;> exact hc ▸ ⟨h.mem, h.twin⟩
  | _ => cases he

theorem Act.Only.apart {a : Act} (h : a.Only Eff.marks) : a.Keeps (Apart s) := fun t ht =>
  applyAll_keeps_of (a t) (fun e he _ hu => hu.eff (List.all_eq_true.1 (h t) e he)) t ht

theorem setRun_marks (n : Nat) (f : Run → Run) : (setRun n f).Only Eff.marks := fun t => by
  unfold setRun
  split <;> rfl

theorem confirmWaiting_marks (l : List Nat) : (confirmWaiting l).Only Eff.marks :=
  Act.Only.each (fun n t => by
    unfold withRun
    split
    · rfl
    next p q _ =>
      beta_reduce
      cases q.landings.waiting with
      | none => rfl
      | some x => exact setRun_marks _ _ t) l

theorem streamTier_marks (i old : Nat) : (streamTier i old).Only Eff.marks := fun t => by
  unfold streamTier
  dsimp only
  split <;> rfl

theorem markStream_marks (src : Nat) (seq : Word) (i : Nat) : (markStream src seq i).Only Eff.marks := fun t => by
  unfold markStream
  extract_lets v0 v v1 subs excess fresh v2
  split
  · rfl
  · refine Act.Only.seq (fun _ => ?_) ((streamTier_marks i v0.tier).seq .none) t
    simp [Eff.marks]

variable (halone : s.paired = false)
include halone

/-- A changed tier is told to no partner. -/
theorem Apart.tierChange (n old new : Nat) : (tierChange n old new).Keeps (Apart s) := fun t ht => by
  have hpaired : t.paired = false := by rw [State.paired, ht.twin]; exact halone
  unfold Machine.tierChange
  extract_lets w
  split
  · exact ht
  · rw [hpaired]
    exact (Act.Only.apart fun _ => rfl : Act.Keeps (Apart s) (Act.seq (logAct 0x0201 (srcSlot n) _) Act.none)) t ht

theorem Apart.markRun (n : Nat) (src : Fin 8) (seq : Word) : (markRun n src seq).Keeps (Apart s) := fun t ht => by
  unfold Machine.markRun withRun
  split
  · exact ht
  next p q _ =>
    beta_reduce
    split
    · exact ht
    · extract_lets skip queue late k fresh queue' q'
      refine Act.Keeps.seq (Act.Only.apart (Act.Only.when (fun _ => rfl) _)) (.seq (.each (fun v => Act.Only.apart fun _ => rfl) _)
        (.seq (setRun_marks _ _).apart (.seq (Apart.tierChange halone _ _ _) .none))) t ht

theorem Apart.acceptMark (src : Nat) : (acceptMark src).Keeps (Apart s) := fun t ht => by
  unfold Machine.acceptMark
  refine Act.Keeps.seq (Act.Only.apart fun _ => rfl) (.seq (Act.Only.apart fun _ => rfl) (.seq (.each (fun n => Apart.markRun halone n _ _) _)
    (.seq (Act.Only.apart fun u => ?_) .none))) t ht
  exact Act.Only.each (fun i => markStream_marks _ _ i) _ u
end

/-- A twin that goes on alone, with no write to be ordered. -/
structure GoesOn (s t : State) : Prop where
  mem : t.mem = s.mem
  alone : t.twin.partnerOut = true
  writes : t.twin.writes = []

section
variable {s t : State}

theorem GoesOn.apart (h : GoesOn s t) {u : State} (hu : Apart t u) : GoesOn s u :=
  ⟨hu.mem.trans h.mem, by rw [hu.twin, h.alone], by rw [hu.twin, h.writes]⟩

theorem GoesOn.leftMarks : leftMarks.Keeps (GoesOn s) := fun t ht => by
  have halone : (t.withTwin { t.twin with marksSeen := [] }).paired = false := by
    rw [State.paired, State.withTwin_twin, ht.alone, Bool.not_true, Bool.and_false]
  have hwrite : GoesOn s (t.withTwin { t.twin with marksSeen := [] }) := ⟨ht.mem, ht.alone, ht.writes⟩
  unfold Machine.leftMarks
  rw [ht.alone, if_neg (by decide), applyAll_seq, Act.of_apply, applyAll_twin]
  obtain ⟨u, hu⟩ : ∃ u, t.withTwin { t.twin with marksSeen := [] } = u := ⟨_, rfl⟩
  rw [hu] at halone hwrite ⊢
  have hone (x : Nat × Bool) : (acceptMark x.1).Keeps (Apart u) := Apart.acceptMark halone x.1
  exact hwrite.apart (Act.Keeps.each hone _ u ⟨rfl, rfl⟩)

theorem GoesOn.leftWrites : leftWrites.Keeps (GoesOn s) := fun t ht => by
  unfold Machine.leftWrites
  rw [ht.alone, if_neg (by decide), applyAll_seq, Act.of_apply, applyAll_twin, ht.writes]
  exact ⟨ht.mem, ht.alone, rfl⟩
end

/-- The partner has stepped out. -/
theorem exec_twin_stepOut {s : State} {port : LinkId} {n : Dword} {body : List Byte} (hinv : s.Inv) (hclock : clocked s = true)
    (hbound : s.twin.bound = true) (hport : port.val = 7 ∨ port.val = 15) (hpart : s.twin.part = []) (hin : s.twin.steppedOut = false)
    (hpartner : s.twin.partnerOut = false) (hforwarded : s.twin.forwarded = []) (hwrites : s.twin.writes = []) :
    ∃ t, exec (.twin port 9 n ⟨false, body⟩) s = .next t ∧ t.twin.partnerOut = true ∧ t.mem = s.mem := by
  have hexec := exec_twin_whole (n := n) (body := body) hclock (show (9 : Byte) ≠ 0 by decide) hbound hport hpart
  have htook := State.passed_took hinv.canonical.links port (.twin (9 : Byte).toNat n.toNat false body)
  generalize s.took port (.twin (9 : Byte).toNat n.toNat false body) = u at htook hexec
  have hmessage : twinMessage (9 : Byte).toNat n body u = Act.seq (stepOutAct false) (Act.seq leftMarks (Act.seq leftWrites Act.none)) u := rfl
  have htwin := htook.twin
  have hgoes : GoesOn s u.goesOnAlone := ⟨htook.mem, rfl, by rw [← hwrites, ← htwin]; rfl⟩
  rw [hmessage, applyAll_seq, applyAll_stepOut_partner (by rw [htwin, hbound]) (by rw [htwin, hin]) (by rw [htwin, hpartner])
    (by rw [htwin, hforwarded])] at hexec
  have hconfirmed := hgoes.apart ((confirmWaiting_marks u.running).apart _ ⟨rfl, rfl⟩)
  have hlast := (GoesOn.leftMarks.seq (GoesOn.leftWrites.seq .none)) _ hconfirmed
  exact ⟨_, hexec, hlast.alone, hlast.mem⟩

end Sys2Proof.Machine
end

section
/-! Twin pairs as the obligation states them. -/
namespace Sys2Proof.Machine

/-- Settles O51: each clause is one of the lemmas above about the command, the message or the event that it names. A message that leaves its
buffer is `Passed`, the completions that end a pair or a run keep `Kept`, and the marks that a leaving partner will not order are `Apart`. -/
theorem twinPairs : Obligations.TwinPairs := by
  unfold Obligations.TwinPairs
  refine ⟨?bind, ?member, ?identity, ?release, ?reply, ?more, ?apart, ?messages, ?stepOut, ?unbound⟩
  case bind =>
    intro h mode s hinv hs hmode hmember
    exact ⟨fun hbound hbinding hjoining hplans hstreams => exec_twinBind_waits hs hmode hmember hbound hbinding hjoining hplans hstreams
        hinv.canonical.links,
      fun other hbound hbinding hjoining hplans hstreams hup hpartner => exec_twinBind_decided hs hmode hmember hbound hbinding hjoining hplans
        hstreams hinv.canonical.links hup hpartner,
      exec_twinBind_busy hs hmode hmember⟩
  case member => exact fun h mode s hs hmode hmember => exec_twinBind_member hs hmode hmember
  case identity =>
    intro port other value more body h mode s hinv hclock hports hverify hother hbound hbinding hvalue
    exact exec_twin_identity hinv.canonical.links hclock more body hports hverify hother hbound hbinding hvalue
  case release =>
    intro h s hinv hclock hrecovery
    refine ⟨exec_twinRelease_unbound hclock hrecovery,
      fun hbound halone hin hruns => exec_twinRelease_running hclock hrecovery hbound halone hin ((runsLeft_iff s).2 hruns),
      exec_twinRelease_waits hinv.canonical.links hclock hrecovery,
      fun other hpaired hreleasing hpartner hbusy => exec_twinRelease_busy hinv.canonical.links hclock hrecovery hpaired hreleasing hpartner hbusy,
      fun hbound hruns hdecided => ?_⟩
    obtain ⟨t, ht, hreleased⟩ : ∃ t, exec (.twinRelease h) s = .next t ∧ Released h s t := by
      cases hpaired : s.paired with
      | false => exact exec_twinRelease_ends_alone hinv (State.idle_of_slots hruns) hclock hrecovery hbound hpaired (runsLeft_false hruns)
      | true =>
        obtain ⟨hreleasing, hpartner⟩ := hdecided.resolve_left (by rw [hpaired]; decide)
        exact exec_twinRelease_ends_paired hinv hclock hrecovery hruns hpaired hreleasing hpartner
    exact ⟨t, ht, hreleased.twin, hreleased.off, hreleased.mem, hreleased.reply⟩
  case reply =>
    intro port n body f o s hclock hbound hpart hport hfind hown hstatus
    have htwin := s.twin_took port (.twin (3 : Byte).toNat n.toNat false body)
    refine (exec_twin_whole hclock (by decide) hbound hport hpart).trans (congrArg _ ?_)
    exact applyAll_partnerReply (by rw [htwin]; exact hfind) hown hstatus (by rw [htwin]; rfl)
  case more => exact fun port k n body s hclock hbound hport hk => exec_twin_more hclock hk hbound hport
  case apart => exact fun port k n more body s hclock hk hapart => exec_twin_apart hclock hk hapart
  case messages =>
    intro port n body s hinv hclock hbound hport hpart hreleasing x w
    have hmessage (k : Byte) (hk : k ≠ 0) := exec_twin_whole (n := n) (body := body) hclock hk hbound hport hpart
    have htwin (k : Byte) := s.twin_took port (.twin k.toNat n.toNat false body)
    refine ⟨fun i horder hin hwaiting hinstr hwait => exec_twin_packet hinv hclock hbound hport hpart hwaiting hreleasing horder hin hinstr hwait,
      fun a hfind hwaiting hepoch henable => ?number, fun horder => ?request, fun v hwork hin hwaiting hask hwrite hn => ?work,
      fun hin hpartner hforwarded hwrites => exec_twin_stepOut hinv hclock hbound hport hpart hin hpartner hforwarded hwrites,
      fun hpaired hn => ?word, fun hout hn hruns => exec_twin_released hinv hclock hbound hport hpart hout hn hruns⟩
    case number =>
      obtain ⟨t, ht, hmem, hhost, hhead, hasked, hforwarded⟩ := exec_twin_number hinv hclock hbound hport hpart hwaiting hfind hepoch henable
      exact ⟨t, ht, hmem, hhost, congrArg Chute.head hhead, congrArg Chute.owed hhead, hasked, hforwarded⟩
    case request =>
      refine (hmessage 4 (by decide)).trans (congrArg _ ?_)
      refine (applyAll_packetRequest (by rw [orderer, htwin]; exact horder)).trans ?_
      rw [htwin]
      rfl
    case work =>
      refine (hmessage 5 (by decide)).trans (congrArg _ ?_)
      refine (applyAll_partnerWrite_waits hwork (by rw [htwin, hin]) (by rw [htwin, hwaiting]) hask hwrite (by rw [htwin]; exact hn)).trans ?_
      rw [htwin]
      rfl
    case word =>
      refine (hmessage 10 (by decide)).trans (congrArg _ ?_)
      refine (applyAll_releaseWord (by rw [State.paired, htwin]; exact hpaired) hn (by rw [htwin, hreleasing])).trans ?_
      rw [htwin]
      rfl
  case stepOut =>
    intro s hinv hbound hin hpartner hforwarded h0 h1
    exact ⟨exec_stepOut_own hinv.kept hbound hin hpartner h0 h1, exec_stepOut_partner hbound hin hpartner hforwarded⟩
  case unbound => exact fun own s hbound => exec_stepOut_unbound hbound own

end Sys2Proof.Machine
end
